-- ==== Sys2Proof/Word.lean ====
section
/-! DEFINITION. Word types of the block: register contents and operation words, at the widths the spec gives them
(R65: address registers 56 bits, loop counters 32 bits; R68: the tile operation word is 128 bits). -/

namespace Sys2Proof

/-- One byte of an addressed memory. -/
abbrev Byte := BitVec 8

/-- An address register a0 to a15 of a thread (R65). -/
abbrev AWord := BitVec 56

/-- A loop counter k0 to k7 of a thread (R65). -/
abbrev KWord := BitVec 32

/-- A tile operation word (R68). -/
abbrev OpWord := BitVec 128

end Sys2Proof
end

