-- ==== Sys2Proof/Syntax.lean ====
section
/-! DEFINITION. The commands of the block: one constructor of `Instr` for each row of the opcode table, with the operands
the row's rule names. The first 48 rows are tile operations: the logical tile, the thread, and the 128-bit word of R68.
Later rows name the agent or the item in flight that the event concerns, by its number, and carry what enters the block
from outside: register values, link packets, host data, measurements. -/

namespace Sys2Proof

/-- What a cold or warm boot meets in the physical device (R541 to R551): the outcome of each test, and the time taken. -/
structure BootIn where
  /-- How many rows of the boot sequence this command runs. -/
  parts : Nat
  /-- Power is lost while a limited change runs (R558): 1 after INTENT of a Channel Binding Table change, 2 after its fuse step; 3 and 4
  likewise of a tile-map change; 0 not at all. -/
  cut : Nat
  /-- A PLL that has not locked after three attempts: kind and index (R543). -/
  pll : Option (Nat × Nat)
  /-- A spine block that mismatches twice: block and index (R545). -/
  spine : Option (Nat × Nat)
  /-- A stack that fails training three times: stack and channel (R546). -/
  hbm : Option (Nat × Nat)
  /-- The saved training results pass their CRC (R551). -/
  savedOk : Bool
  /-- On the fast path, some channel fails the read-write check (R551). -/
  channelFails : Bool
  /-- Physical frames whose lines fail the read-back of R359 at initialisation (R546). -/
  badFrames : List Nat
  /-- Banks that fail BIST: physical tile, bank, rail 0 or 1 (R547). -/
  bist : List (Nat × Nat × Nat)
  /-- Proof runs that fail: physical tile, engine 1 to 4, rail, and whether the repeat fails too (R549). -/
  proof : List (Nat × Nat × Nat × Bool)
  /-- Time from the start of the path to the end of this command, in ms. -/
  ms : Nat
  deriving DecidableEq, Repr

/-- An ECDSA signature over P-384, and the public key presented with it, 96 bytes (R497, R542). -/
structure Signature where
  key : Nat
  r : Nat
  s : Nat
  deriving DecidableEq, Repr

/-- What a cartridge presents when it attaches (R496 to R500). -/
structure AttachIn where
  /-- The link trained at 32 GT/s x4 (Order 1). -/
  linkOk : Bool
  /-- The identity could be read (Order 2), and what it is. -/
  identOk : Bool
  ident : Nat
  /-- The certificate (R497): its signature, and the identity, the capacity in blocks and the rated GB written that it binds. -/
  sig : Signature
  certIdent : Nat
  certBlocks : Nat
  certRatedGb : Nat
  blocks : Nat
  writtenGb : Nat
  mediaFormats : Nat
  format : Nat
  deriving DecidableEq, Repr

/-- What the sensors and event counters give for one 100 µs interval (R515): the energy of each domain in µJ, the static part of each, the
event counts in each domain, of contexts 0 to 15 and then of the firmware system context, by the classes 0 to 8 of R514, and the
conversion loss in µJ. -/
structure LedgerIn where
  energy : List Nat
  stat : List Nat
  events : List (List (List Nat))
  loss : Nat
  deriving DecidableEq, Repr

/-- Readings of one sensor poll: 56 die sensors and 12 stacks in °C (R530), and the input of R534. -/
structure TempsIn where
  die : List Nat
  hbm : List Nat
  vinMv : Nat
  pinW : Nat
  deriving DecidableEq, Repr

/-- A firmware image written by an update (R613): its signature and its SHA-384 hash, whether its format is right, and its versions (R542,
R592). -/
structure ImageIn where
  sig : Signature
  hash : Nat
  form : Bool
  svn : Nat
  minor : Nat
  build : Nat
  deriving DecidableEq, Repr

/-- The commands, in the order of the opcode table. -/
inductive Instr where
  /-- NOP (R74). -/
  | nop (tile : Nat) (thread : Nat) (w : BitVec 128)
  /-- SETK (R74). -/
  | setk (tile : Nat) (thread : Nat) (w : BitVec 128)
  /-- LDK (R80). -/
  | ldk (tile : Nat) (thread : Nat) (w : BitVec 128)
  /-- LOOP (R78). -/
  | loop (tile : Nat) (thread : Nat) (w : BitVec 128)
  /-- TBAR (R88). -/
  | tbar (tile : Nat) (thread : Nat) (w : BitVec 128)
  /-- HALT (R88). -/
  | halt (tile : Nat) (thread : Nat) (w : BitVec 128)
  /-- PSETI (R74). -/
  | pseti (tile : Nat) (thread : Nat) (w : BitVec 128)
  /-- PSETK (R74). -/
  | psetk (tile : Nat) (thread : Nat) (w : BitVec 128)
  /-- PSETM (R74). -/
  | psetm (tile : Nat) (thread : Nat) (w : BitVec 128)
  /-- PLOG (R74). -/
  | plog (tile : Nat) (thread : Nat) (w : BitVec 128)
  /-- PSTAT (R74). -/
  | pstat (tile : Nat) (thread : Nat) (w : BitVec 128)
  /-- ALI (R74). -/
  | ali (tile : Nat) (thread : Nat) (w : BitVec 128)
  /-- AADD (R74). -/
  | aadd (tile : Nat) (thread : Nat) (w : BitVec 128)
  /-- AADDK (R74). -/
  | aaddk (tile : Nat) (thread : Nat) (w : BitVec 128)
  /-- LDA (R74). -/
  | lda (tile : Nat) (thread : Nat) (w : BitVec 128)
  /-- STA (R74). -/
  | sta (tile : Nat) (thread : Nat) (w : BitVec 128)
  /-- STK (R74). -/
  | stk (tile : Nat) (thread : Nat) (w : BitVec 128)
  /-- MOVL (R74). -/
  | movl (tile : Nat) (thread : Nat) (w : BitVec 128)
  /-- ZERO (R74). -/
  | zero (tile : Nat) (thread : Nat) (w : BitVec 128)
  /-- HRD (R82). -/
  | hrd (tile : Nat) (thread : Nat) (w : BitVec 128)
  /-- HWR (R82). -/
  | hwr (tile : Nat) (thread : Nat) (w : BitVec 128)
  /-- MZERO (R124). -/
  | mzero (tile : Nat) (thread : Nat) (w : BitVec 128)
  /-- MMA (R131). -/
  | mma (tile : Nat) (thread : Nat) (w : BitVec 128)
  /-- MSF64 (R136). -/
  | msf64 (tile : Nat) (thread : Nat) (w : BitVec 128)
  /-- MRD (R142). -/
  | mrd (tile : Nat) (thread : Nat) (w : BitVec 128)
  /-- MSAVE (R143). -/
  | msave (tile : Nat) (thread : Nat) (w : BitVec 128)
  /-- MRESTORE (R144). -/
  | mrestore (tile : Nat) (thread : Nat) (w : BitVec 128)
  /-- VEW (R162). -/
  | vew (tile : Nat) (thread : Nat) (w : BitVec 128)
  /-- VFMA (R165). -/
  | vfma (tile : Nat) (thread : Nat) (w : BitVec 128)
  /-- VCVT (R168). -/
  | vcvt (tile : Nat) (thread : Nat) (w : BitVec 128)
  /-- VRED (R174). -/
  | vred (tile : Nat) (thread : Nat) (w : BitVec 128)
  /-- VNORM_ACC (R180). -/
  | vnormAcc (tile : Nat) (thread : Nat) (w : BitVec 128)
  /-- VNORM_READ (R181). -/
  | vnormRead (tile : Nat) (thread : Nat) (w : BitVec 128)
  /-- VNORM_CLEAR (R179). -/
  | vnormClear (tile : Nat) (thread : Nat) (w : BitVec 128)
  /-- VOPT (R185). -/
  | vopt (tile : Nat) (thread : Nat) (w : BitVec 128)
  /-- VGRN (R191). -/
  | vgrn (tile : Nat) (thread : Nat) (w : BitVec 128)
  /-- VOCL (R159). -/
  | vocl (tile : Nat) (thread : Nat) (w : BitVec 128)
  /-- VOCS (R159). -/
  | vocs (tile : Nat) (thread : Nat) (w : BitVec 128)
  /-- EXPT (R88). -/
  | expt (tile : Nat) (thread : Nat) (w : BitVec 128)
  /-- MOPEN_CONNECT (R322). -/
  | mopenConnect (tile : Nat) (thread : Nat) (w : BitVec 128)
  /-- MOPEN_LISTEN (R323). -/
  | mopenListen (tile : Nat) (thread : Nat) (w : BitVec 128)
  /-- MSEND (R325). -/
  | msend (tile : Nat) (thread : Nat) (w : BitVec 128)
  /-- MPOP (R333). -/
  | mpop (tile : Nat) (thread : Nat) (w : BitVec 128)
  /-- MCLOSE_RELEASE (R324). -/
  | mcloseRelease (tile : Nat) (thread : Nat) (w : BitVec 128)
  /-- MCLOSE_CLOSE (R323). -/
  | mcloseClose (tile : Nat) (thread : Nat) (w : BitVec 128)
  /-- CINC (R282). -/
  | cinc (tile : Nat) (thread : Nat) (w : BitVec 128)
  /-- CWATCH (R286). -/
  | cwatch (tile : Nat) (thread : Nat) (w : BitVec 128)
  /-- CREAD (R297). -/
  | cread (tile : Nat) (thread : Nat) (w : BitVec 128)
  /-- EXCHANGE_REQUEST (R249). -/
  | exchangeRequest (x : Nat)
  /-- EXCHANGE_GRANT (R247). -/
  | exchangeGrant (x : Nat)
  /-- EXCHANGE_DATA_ARRIVAL (R247). -/
  | exchangeDataArrival (x : Nat) (parity : Bool)
  /-- EXCHANGE_RECEIPT (R247). -/
  | exchangeReceipt (x : Nat)
  /-- EXCHANGE_SHORT (R250). -/
  | exchangeShort (tile : Nat) (entry : Nat)
  /-- TILE_SIGNAL (R248). -/
  | tileSignal (tile : Nat)
  /-- SYNCHRONISATION_COMPLETE (R261). -/
  | synchronisationComplete (group : Nat)
  /-- SUPERSTEP_RERUN (R102). -/
  | superstepRerun (tile : Nat)
  /-- READ_DATA_ARRIVAL (R82). -/
  | readDataArrival (acc : Nat) (parity : Bool)
  /-- MOPEN_REPLY (R319). -/
  | mopenReply (reply : Nat)
  /-- MSEND_REPLY (R321). -/
  | msendReply (reply : Nat)
  /-- WATCH_NOTIFICATION (R291). -/
  | watchNotification (notif : Nat)
  /-- INCREMENT_ARRIVAL (R285). -/
  | incrementArrival (item : Nat)
  /-- UPDATE_WINDOW (R296). -/
  | updateWindow (counter : Nat)
  /-- WATCH_TIMEOUT (R295). -/
  | watchTimeout (tile : Nat) (item : Nat)
  /-- MANAGEMENT_WATCH_TIMEOUT (R295). -/
  | managementWatchTimeout (slot : Nat)
  /-- DEADLOCK_WATCHDOG (R301). -/
  | deadlockWatchdog (slot : Nat)
  /-- MANAGEMENT_WATCH_REGISTRATION (R305). -/
  | managementWatchRegistration (bank : Nat) (value : Nat)
  /-- CONNECT_REQUEST (R322). -/
  | connectRequest (item : Nat)
  /-- MESSAGE_HEAD (R327). -/
  | messageHead (item : Nat)
  /-- MESSAGE_PLACED (R330). -/
  | messagePlaced (msg : Nat) (bad : Nat)
  /-- QUEUE_RELEASE_ARRIVAL (R324). -/
  | queueReleaseArrival (item : Nat)
  /-- QUEUE_RESET (R336). -/
  | queueReset (bank : Nat)
  /-- QUEUE_HOLD (R335). -/
  | queueHold (bank : Nat) (on : Bool)
  /-- RMN_Q_RELEASE (R334). -/
  | rmnQRelease (core : Nat) (value : Nat)
  /-- SLICE_ACCESS (R352). -/
  | sliceAccess (acc : Nat) (mapError : Bool)
  /-- COW_COPY_COMPLETE (R357). -/
  | cowCopyComplete (entry : Nat)
  /-- HBM_WRITE_ACCEPT (R346). -/
  | hbmWriteAccept (acc : Nat) (parity : Bool)
  /-- WRITE_ACKNOWLEDGEMENT (R348). -/
  | writeAcknowledgement (acc : Nat)
  /-- HBM_READ_RETURN (R365). -/
  | hbmReadReturn (acc : Nat)
  /-- ERROR_CHECK_AND_SCRUB (R342). -/
  | errorCheckAndScrub (line : Nat)
  /-- MAP (R354). -/
  | map (set : Nat) (value : Nat)
  /-- UNMAP (R354). -/
  | unmap (set : Nat) (value : Nat)
  /-- SETPERM (R354). -/
  | setperm (set : Nat) (value : Nat)
  /-- SNAPSHOT (R354). -/
  | snapshot (set : Nat) (value : Nat)
  /-- RELEASE_SNAPSHOT (R354). -/
  | releaseSnapshot (set : Nat) (value : Nat)
  /-- CLEAR_POISON (R354). -/
  | clearPoison (set : Nat) (value : Nat)
  /-- FRAME_MAP_COMMAND_COMPLETE (R355). -/
  | frameMapCommandComplete (set : Nat)
  /-- FRAME_ZEROED (R359). -/
  | frameZeroed (frame : Nat) (bad : Bool)
  /-- HBM_DOMAIN_DOWN (R373). -/
  | hbmDomainDown (domain : Nat)
  /-- HBM_DOMAIN_FENCE (R374). -/
  | hbmDomainFence (domain : Nat)
  /-- HBM_DOMAIN_UP (R376). -/
  | hbmDomainUp (domain : Nat)
  /-- HBM_DOMAIN_ON (R376). -/
  | hbmDomainOn (domain : Nat)
  /-- DMA_COPY (R370). -/
  | dmaCopy (engine : Nat) (queue : Nat)
  /-- DMA_FILL (R370). -/
  | dmaFill (engine : Nat) (queue : Nat)
  /-- DMA_DESCRIPTOR_COMPLETE (R371). -/
  | dmaDescriptorComplete (desc : Nat)
  /-- PWIN_WRITE_ARRIVAL (R372). -/
  | pwinWriteArrival (port : Nat)
  /-- PWIN_WRITE_UNACKED (R418). -/
  | pwinWriteUnacked (token : Nat)
  /-- FLIT_RECEIVE (R386). -/
  | flitReceive (port : Nat) (flit : Nat) (uncorrectable : Bool)
  /-- REPLAY_LIMIT (R387). -/
  | replayLimit (port : Nat)
  /-- LANE_LOCK_LOSS (R387). -/
  | laneLockLoss (port : Nat)
  /-- LINK_SILENCE (R387). -/
  | linkSilence (port : Nat)
  /-- PORT_ENABLE (R389). -/
  | portEnable (port : Nat)
  /-- PORT_DISABLE (R387). -/
  | portDisable (port : Nat)
  /-- RETRAIN (R426). -/
  | retrain (port : Nat)
  /-- TRAINING_COMPLETE (R389). -/
  | trainingComplete (port : Nat) (channelOk : Bool)
  /-- TRAINING_TIMEOUT (R389). -/
  | trainingTimeout (port : Nat)
  /-- ABILITY (R391). -/
  | ability (port : Nat) (versions : Nat) (floor : Nat) (role : Nat) (peerPort : Nat) (peerId : Nat)
  /-- BIND (R394). -/
  | bind (port : Nat) (ctx : Nat) (peerCtx : Nat) (tag : Nat) (peerId : Nat)
  /-- UNBIND (R395). -/
  | unbind (port : Nat) (peerCtx : Nat) (tag : Nat) (cause : Nat)
  /-- RESERVE (R415). -/
  | reserve (port : Nat) (tag : Nat) (d4 : Nat) (d5 : Nat)
  /-- SUSPEND (R417). -/
  | suspend (port : Nat) (window : Nat)
  /-- SUSPENDED (R374). -/
  | suspended (port : Nat) (window : Nat)
  /-- RESUME (R417). -/
  | resume (port : Nat) (window : Nat)
  /-- BIND_TIMEOUT (R394). -/
  | bindTimeout (port : Nat) (ctx : Nat)
  /-- RESERVE_TIMEOUT (R415). -/
  | reserveTimeout (port : Nat) (ctx : Nat)
  /-- REMOTE_PACKET_RECEIVE (R396). -/
  | remotePacketReceive (port : Nat)
  /-- NAK_RECEIVE (R398). -/
  | nakReceive (port : Nat)
  /-- COLLECTIVE_EXPMAX (R403). -/
  | collectiveExpmax (unit : Nat) (queue : Nat)
  /-- COLLECTIVE_ENCODE (R404). -/
  | collectiveEncode (unit : Nat) (queue : Nat)
  /-- COLLECTIVE_ADD (R405). -/
  | collectiveAdd (unit : Nat) (queue : Nat)
  /-- COLLECTIVE_DECODE (R406). -/
  | collectiveDecode (unit : Nat) (queue : Nat)
  /-- COLLECTIVE_DIGEST (R422). -/
  | collectiveDigest (unit : Nat) (queue : Nat)
  /-- COLLECTIVE_DESCRIPTOR_COMPLETE (R408). -/
  | collectiveDescriptorComplete (desc : Nat)
  /-- DIGEST_RECEIVE (R423). -/
  | digestReceive (peerCtx : Nat) (tag : Nat) (label : Nat) (digest : Nat) (poisoned : Bool) (ask : Bool) (notHeld : Bool)
  /-- GATE_DECISION (R213). -/
  | gateDecision (ctx : Nat)
  /-- PATINA_COUNTS_RECEIVE (R221). -/
  | patinaCountsReceive (item : Nat)
  /-- CALIPERS_REPORT (R225). -/
  | calipersReport (item : Nat)
  /-- TEL_RING_TAIL_WRITE (R231). -/
  | telRingTailWrite (master : Nat) (ctx : Nat) (value : Nat)
  /-- DOORBELL (R438). -/
  | doorbell (fn : Nat) (ring : Nat) (value : Nat)
  /-- HOST_NOP (R442). -/
  | hostNop (fn : Nat)
  /-- ADMIT (R576). -/
  | hostAdmit (fn : Nat)
  /-- DMA (R444). -/
  | dma (fn : Nat)
  /-- SIGNAL (R445). -/
  | signal (fn : Nat)
  /-- WATCH (R445). -/
  | watch (fn : Nat)
  /-- TEARDOWN (R446). -/
  | teardown (fn : Nat)
  /-- FENCE (R443). -/
  | fence (fn : Nat)
  /-- RING_ENABLE (R439). -/
  | ringEnable (fn : Nat) (ring : Nat) (on : Bool)
  /-- RING_RESET (R439). -/
  | ringReset (fn : Nat) (ring : Nat)
  /-- IRQ_DELAY_EXPIRY (R450). -/
  | irqDelayExpiry (fn : Nat) (vec : Nat)
  /-- FUNCTION_LEVEL_RESET (R451). -/
  | functionLevelReset (fn : Nat)
  /-- VF_ENABLE_CLEAR (R431). -/
  | vfEnableClear
  /-- D3HOT_TO_D0 (R431). -/
  | d3hotToD0 (fn : Nat)
  /-- MAILBOX_SEND (R454). -/
  | mailboxSend (master : Nat) (chan : Nat) (value : Nat)
  /-- MAILBOX_ACK (R454). -/
  | mailboxAck (master : Nat) (chan : Nat)
  /-- MAILBOX_TIMEOUT (R455). -/
  | mailboxTimeout (chan : Nat)
  /-- IMAGE_CHECKS (R577). -/
  | imageChecks (ctx : Nat)
  /-- ADMISSION (R521). -/
  | admission (ctx : Nat)
  /-- LOADING_COMPLETE (R576). -/
  | loadingComplete (ctx : Nat)
  /-- TEARDOWN_COMPLETE (R31). -/
  | teardownComplete (ctx : Nat)
  /-- SHADOW_LOAD (R471). -/
  | shadowLoad (sample : Nat) (pool : Nat)
  /-- DIGEST_COMPARE (R475). -/
  | digestCompare (sample : Nat)
  /-- ARBITER_RUN (R475). -/
  | arbiterRun (sample : Nat) (pool : Nat)
  /-- ARMATURE_COUNTER_STORE (R581). -/
  | armatureCounterStore (core : Nat) (addr : Nat) (value : Nat)
  /-- ARMATURE_CORE_LOAD (R580). -/
  | armatureCoreLoad (core : Nat) (addr : Nat) (bytes : Nat)
  /-- CARTRIDGE_ATTACH (R496). -/
  | cartridgeAttach (info : AttachIn)
  /-- CARTRIDGE_DETACHED (R501). -/
  | cartridgeDetached
  /-- CRT_READ (R499). -/
  | crtRead (value : Nat)
  /-- CRT_WRITE (R499). -/
  | crtWrite (value : Nat)
  /-- CRT_FORMAT (R498). -/
  | crtFormat (value : Nat)
  /-- CARTRIDGE_COMMAND_COMPLETE (R499). -/
  | cartridgeCommandComplete (failing : List Nat) (gb : Nat)
  /-- LEDGER_INTERVAL (R515). -/
  | ledgerInterval (use : LedgerIn)
  /-- ENERGY_WINDOW_CLOSE (R526). -/
  | energyWindowClose (ctx : Nat)
  /-- SENSOR_POLL (R530). -/
  | sensorPoll (temps : TempsIn)
  /-- POWER_CAP (R531). -/
  | powerCap (milliwatts : Nat)
  /-- INPUT_VOLTAGE (R532). -/
  | inputVoltage (blade : Nat) (millivolts : Nat)
  /-- RAIL_FAULT (R532). -/
  | railFault (domain : Nat) (high : Bool)
  /-- PLINTH_LOCKSTEP (R58). -/
  | plinthLockstep (detail : Nat)
  /-- COLD_BOOT (R541). -/
  | coldBoot (found : BootIn)
  /-- WARM_BOOT (R551). -/
  | warmBoot (found : BootIn)
  /-- SECOND_BLADE_TIMEOUT (R609). -/
  | secondBladeTimeout
  /-- PERST_ASSERT (R429). -/
  | perstAssert
  /-- HOT_RESET (R429). -/
  | hotReset
  /-- DL_DOWN (R429). -/
  | dlDown
  /-- PLN_RESET_GO (R539). -/
  | plnResetGo (master : Nat)
  /-- RESET (R559). -/
  | reset (master : Nat) (full : Nat)
  /-- REDUCE_CEILING (R559). -/
  | reduceCeiling (master : Nat) (watts : Nat) (cut : Nat)
  /-- ADVANCE_FIRMWARE_FLOOR (R559). -/
  | advanceFirmwareFloor (master : Nat) (svn : Nat) (cut : Nat)
  /-- ADVANCE_VERJO_FLOOR (R559). -/
  | advanceVerjoFloor (master : Nat) (floor : Nat) (cut : Nat)
  /-- PLL_LOCK_LOSS (R611). -/
  | pllLockLoss (pll : Nat) (index : Nat)
  /-- SERDES_REFCLK_LOSS (R611). -/
  | serdesRefclkLoss
  /-- FRQ_ENABLE (R596). -/
  | frqEnable (master : Nat)
  /-- FRQ_SELECT (R597). -/
  | frqSelect (master : Nat) (seq : Nat)
  /-- ALERT_STATUS_CLEAR (R599). -/
  | alertStatusClear (master : Nat) (value : Nat)
  /-- MBX_SEND (R614). -/
  | mbxSend (len : Nat) (data : Nat)
  /-- MBX_DELIVER (R614). -/
  | mbxDeliver
  /-- REG_READ (R614). -/
  | regRead (offset : Nat)
  /-- REG_WRITE (R614). -/
  | regWrite (offset : Nat) (value : Nat)
  /-- SET_ENDPOINT_ID (R612). -/
  | setEndpointId (eid : Nat)
  /-- ACTIVATE_FIRMWARE (R613). -/
  | activateFirmware
  /-- SMBUS_SEGMENT_REQUEST (R616). -/
  | smbusSegmentRequest (take : Bool)
  /-- REGISTER_WRITE (R589). -/
  | registerWrite (master : Nat) (core : Nat) (offset : Nat) (size : Nat) (value : Nat)
  /-- HOST_READ_COMPLETION (R435). -/
  | hostReadCompletion (read : Nat) (status : Nat) (ep : Bool) (data : Nat)
  /-- COMPLETION_TIMEOUT (R435). -/
  | completionTimeout (read : Nat)
  /-- CREAD_RESULT (R297). -/
  | creadResult (read : Nat)
  /-- LINK_SIGNAL_DETECT (R389). -/
  | linkSignalDetect (port : Nat)
  /-- CARTRIDGE_ATTACH_TIMEOUT (R496). -/
  | cartridgeAttachTimeout
  /-- ARMATURE_CORE_STORE (R580). -/
  | armatureCoreStore (core : Nat) (addr : Nat) (bytes : Nat) (value : Nat)
  /-- BUS_MASTER_ENABLE (R431). -/
  | busMasterEnable (fn : Nat) (on : Bool)
  /-- D0_TO_D3HOT (R431). -/
  | d0ToD3hot (fn : Nat)
  /-- DOMAIN_POWER_DOWN (R61). -/
  | domainPowerDown (domain : Nat)
  /-- BLADE_POWER_GOOD (R609). -/
  | bladePowerGood (blade : Nat)
  /-- POWER_REMOVED (R609). -/
  | powerRemoved
  /-- FIRMWARE_UPDATE (R613). -/
  | firmwareUpdate (image : ImageIn)
  /-- DL_UP (R544). -/
  | dlUp (speed : Nat) (width : Nat) (flit : Bool)
  deriving DecidableEq, Repr

end Sys2Proof
end

