-- ==== Sys2Proof/Config.lean ====
section
/-! DEFINITION. The free values: what the spec leaves open. Each is a constant without a body, so nothing can be proved of
its value and every claim holds for all of them. The step applies the first to a counter that State holds. -/

namespace Sys2Proof.Config

/-- The `n`-th free value of the run. -/
opaque free : Nat → Nat

/-- The byte that medium `m` held at an address when it was attached or formatted (R498, R499): the spec says nothing of what a
medium holds before this device has written it. -/
opaque mediaByte : Nat → Nat → Nat

/-- What the 16-bit W of an accumulator entry holds when a window exponent lies outside −32,768 to 32,767 (R117, R131): the spec gives
no result there. -/
opaque windowOut : Int → BitVec 16

/-- The credits of a link class, in slots, that a port holds when flits begin to flow (R384, R387): the spec does not give them. -/
opaque linkCredits : Nat → Nat

end Sys2Proof.Config
end

