-- ==== Sys2Proof/Machine/Bits.lean ====
section
/-! DEFINITION. Bit fields, sign extension and byte order (R10: little-endian throughout; bit ranges inclusive, bit 0
least significant). Blobs of bytes are carried as natural numbers, byte 0 least significant. -/

namespace Sys2Proof.Machine

/-- The `w` bits of `n` that start at bit `lo`. -/
def bits (n lo w : Nat) : Nat := (n >>> lo) % 2 ^ w

/-- Bit `i` of `n`. -/
def bit (n i : Nat) : Bool := n.testBit i

/-- A Boolean as the number 0 or 1. -/
def b2n (b : Bool) : Nat := if b then 1 else 0

/-- `n` with the `w` bits at `lo` replaced by `v`. -/
def setBits (n lo w v : Nat) : Nat :=
  n - (bits n lo w) * 2 ^ lo + (v % 2 ^ w) * 2 ^ lo

/-- `n` with bit `i` set to `b`. -/
def setBit (n i : Nat) (b : Bool) : Nat := setBits n i 1 (b2n b)

/-- Two's complement reading of the low `w` bits. -/
def sext (w n : Nat) : Int :=
  let m := n % 2 ^ w
  if m < 2 ^ (w - 1) then (m : Int) else (m : Int) - (2 ^ w : Nat)

/-- Two's complement writing of an integer in `w` bits. -/
def wrapInt (w : Nat) (x : Int) : Nat := (x % ((2 ^ w : Nat) : Int)).toNat

/-- Byte `i` of a little-endian blob. -/
def byteOf (n i : Nat) : Nat := bits n (8 * i) 8

/-- The blob of a list of byte values, first byte least significant. -/
def fromBytes : List Nat → Nat
  | [] => 0
  | b :: bs => b % 256 + 256 * fromBytes bs

/-- The first `k` bytes of a blob, as byte values. -/
def toBytes (n : Nat) : Nat → List Nat
  | 0 => []
  | k + 1 => n % 256 :: toBytes (n / 256) k

/-- A blob built from `k` elements of `w` bits each, element `i` at bit `w * i` (R167, R122). -/
def packElems (w : Nat) (xs : List Nat) : Nat :=
  xs.foldr (fun x acc => x % 2 ^ w + 2 ^ w * acc) 0

/-- The `k` elements of `w` bits that a blob holds from bit `lo` on. -/
def unpackElems (w : Nat) (blob lo : Nat) : Nat → List Nat
  | 0 => []
  | k + 1 => bits blob lo w :: unpackElems w blob (lo + w) k

/-- `x + n` capped at `m`: the saturating counters of the spec. -/
def satAdd (x n m : Nat) : Nat := min (x + n) m

/-- Ceiling division. -/
def ceilDiv (a b : Nat) : Nat := (a + b - 1) / b

/-- The number of set bits among the low `w`. -/
def popCount (n : Nat) : Nat → Nat
  | 0 => 0
  | w + 1 => b2n (bit n w) + popCount n w

/-- The numbers below `n` that satisfy `p`, ascending. -/
def below (n : Nat) (p : Nat → Bool) : List Nat := (List.range n).filter p

/-- The first number below `n` that satisfies `p`. -/
def firstBelow (n : Nat) (p : Nat → Bool) : Option Nat := (List.range n).find? p

/-- Rotate a 32-bit value left (R187). -/
def rotl32 (x r : Nat) : Nat := ((x <<< r) ||| (x >>> (32 - r))) % 2 ^ 32

/-- Exclusive or of the `k` lowest bits of `n`, as a Boolean. -/
def parityOf (n : Nat) : Nat → Bool
  | 0 => false
  | k + 1 => Bool.xor (bit n k) (parityOf n k)

/-- Natural square root by bits: the largest `r` with `r * r ≤ n`, given `n < 4 ^ k`. -/
def isqrtAux (n : Nat) : Nat → Nat → Nat
  | 0, r => r
  | k + 1, r => if (r + 2 ^ k) * (r + 2 ^ k) ≤ n then isqrtAux n k (r + 2 ^ k) else isqrtAux n k r

/-- The largest `r` with `r * r ≤ n`. -/
def isqrt (n : Nat) : Nat := isqrtAux n (n.log2 / 2 + 1) 0

end Sys2Proof.Machine
end

