-- ==== Sys2Proof/Machine/SMap.lean ====
section
/-! DEFINITION. Sparse data by key, in one canonical form: keys strictly rising, and no entry equal to what an unlisted
key reads as. Equal contents are then equal lists. Byte memories (tile memory, HBM) are the same thing with bytes as
values, the list of `Host.Cell`s. -/

namespace Sys2Proof.Machine

/-- A sparse map from numbered places to values. -/
abbrev SMap (α : Type) := List (Nat × α)

/-- What place `k` holds; `d` where the map lists nothing. -/
def mget {α : Type} (d : α) : SMap α → Nat → α
  | [], _ => d
  | (k', v) :: m, k => if k = k' then v else mget d m k

/-- An entry for place `k` put before the first place above it. -/
def mput {α : Type} (k : Nat) (v : α) : SMap α → SMap α
  | [] => [(k, v)]
  | (k', v') :: m => if k < k' then (k, v) :: (k', v') :: m else (k', v') :: mput k v m

/-- The map without an entry for place `k`. -/
def mdel {α : Type} (k : Nat) (m : SMap α) : SMap α := m.filter fun kv => decide (kv.1 ≠ k)

/-- The map with place `k` holding `v`, still canonical with default `d`. -/
def mset {α : Type} [DecidableEq α] (d : α) (m : SMap α) (k : Nat) (v : α) : SMap α :=
  if v = d then mdel k m else mput k v (mdel k m)

/-- The map with place `k` changed by `f`. -/
def mmod {α : Type} [DecidableEq α] (d : α) (m : SMap α) (k : Nat) (f : α → α) : SMap α :=
  mset d m k (f (mget d m k))

/-- All keys of the map are above `b`, rising, and no value is the default. -/
def mwfFrom {α : Type} [DecidableEq α] (d : α) : Nat → SMap α → Bool
  | _, [] => true
  | b, (k, v) :: m => decide (b ≤ k) && decide (v ≠ d) && mwfFrom d (k + 1) m

/-- The canonical form. -/
def mwf {α : Type} [DecidableEq α] (d : α) (m : SMap α) : Bool := mwfFrom d 0 m

/-- The entries whose keys do not satisfy `p`: clearing a range of places to the default. -/
def mdrop {α : Type} (p : Nat → Bool) (m : SMap α) : SMap α := m.filter fun kv => !p kv.1

/-- Every listed value changed by `f`, still canonical with default `d`. -/
def mvals {α : Type} [DecidableEq α] (d : α) (f : Nat → α → α) (m : SMap α) : SMap α :=
  (m.map fun kv => (kv.1, f kv.1 kv.2)).filter fun kv => decide (kv.2 ≠ d)

/-- A byte-addressed memory: the listed cells, every other byte 0. -/
abbrev Memory := List Host.Cell

/-- Reading one byte. -/
def memByte (m : Memory) (a : Nat) : BitVec 8 := mget 0 m a

/-- Writing one byte. -/
def memSetByte (m : Memory) (a : Nat) (b : BitVec 8) : Memory := mset 0 m a b

/-- Reading `n` bytes from `a` on, little-endian. -/
def memRead (m : Memory) (a : Nat) : Nat → Nat
  | 0 => 0
  | n + 1 => (memByte m a).toNat + 256 * memRead m (a + 1) n

/-- Writing the `n` low bytes of `v` from `a` on, little-endian. -/
def memWrite (m : Memory) (a : Nat) : Nat → Nat → Memory
  | 0, _ => m
  | n + 1, v => memWrite (memSetByte m a (BitVec.ofNat 8 v)) (a + 1) n (v / 256)

/-- The canonical form of a memory. -/
def Memory.wf (m : Memory) : Bool := mwf (0 : BitVec 8) m

end Sys2Proof.Machine
end

