-- ==== Sys2Proof/Machine/StateTile.lean ====
section
/-! DEFINITION. The state of one logical tile: thread registers (R65), accumulator blocks (R117), operand cache and norm
accumulators (R158, R179), tile memory with its parity and poison marks (R100, R481), the per-tile window's
configuration (R110 to R115, R193, R240), the tile gate (R207), the exchange list and fill list (R242, R263), and what a
rerun saves and counts (R102, R103, R222). Everything is plain data. -/

namespace Sys2Proof.Machine

/-- The four status flags of a thread (R65). -/
structure Flags where
  empty : Bool := false
  inexact : Bool := false
  saturated : Bool := false
  nonfinite : Bool := false
  deriving DecidableEq, Repr

/-- One active loop (R78): the counter it drives, the stream positions of its body, whether the first iteration has
ended, and whether a LOOP has issued in its body (the loop buffer of R81 keeps an innermost body only). -/
structure LoopEnt where
  ctr : Nat
  start : Nat
  stop : Nat
  looped : Bool
  nested : Bool
  deriving DecidableEq, Repr

/-- One set of thread registers (R65); a thread has a main set and a fill set (R264). -/
structure RegSet where
  /-- a1 to a15. -/
  a : SMap (BitVec 56) := []
  /-- k0 to k7. -/
  k : SMap (BitVec 32) := []
  /-- p1 to p7. -/
  p : SMap Bool := []
  /-- t0 to t7: true is busy. -/
  tk : SMap Bool := []
  flags : Flags := {}
  /-- Active loops, innermost first. -/
  loops : List LoopEnt := []
  /-- Position in the stream: the Maquette operation index of the next operation (R68). -/
  pos : Nat := 0
  /-- One more than the stream line fetched last; 0 when none is held (R81). -/
  fetched : Nat := 0
  deriving DecidableEq, Repr

/-- TIL_THREAD_n.STATE (R110), less Waiting and Rerunning, which the register forms from the tile. -/
inductive ThreadSt where
  | idle
  | issuing
  | atExchange
  | atBarrier
  | halted
  deriving DecidableEq, Repr

/-- An entry of an EA block (R117): V, W, WSET, STICKY, CLASS (0 finite, 1 +∞, 2 −∞, 3 NaN). W is 0 while WSET is clear, and MSAVE saves
it so (DESIGN CHOICE, log entry 184). -/
structure EaEntry where
  v : Int := 0
  w : Int := 0
  wset : Bool := false
  sticky : Bool := false
  cls : Nat := 0
  deriving DecidableEq, Repr

/-- An accumulator block (R117): its mode, TOUCHED, and its 256 entries in the form of the mode. -/
structure Block where
  f32mode : Bool := false
  touched : Bool := false
  ea : SMap EaEntry := []
  /-- FP32 encodings; an entry not listed is +0. -/
  f32 : SMap Nat := []
  /-- How far the stored residue of an entry, modulo 127, is from that of what the entry holds (R147); 0 where they agree. -/
  res : SMap Nat := []
  deriving DecidableEq, Repr

/-- A norm accumulator (R179): 16 FP64 encodings, the count, NONFINITE. -/
structure Norm where
  parts : SMap Nat := []
  count : Nat := 0
  nonfinite : Bool := false
  /-- How far the stored residue of a partial, modulo 127, is from that of what it holds (R196); 0 where they agree. -/
  res : SMap Nat := []
  deriving DecidableEq, Repr

/-- What R102 saves of a thread at each superstep release: registers, tickets, loop state and stream position, with the
accumulator blocks (R120), the operand cache and the norm accumulators (R158) of the thread. -/
structure Saved where
  regs : RegSet := {}
  halted : Bool := false
  blocks : SMap Block := []
  cache : SMap Nat := []
  norms : SMap Norm := []
  deriving DecidableEq, Repr

/-- One hardware thread. -/
structure Thread where
  main : RegSet := {}
  /-- The fill set of R264. -/
  fill : RegSet := {}
  st : ThreadSt := .idle
  saved : Saved := {}
  /-- Operations with an effect outside the tile issued in this run of the superstep (R103). -/
  outOps : Nat := 0
  /-- How many of them are still to be suppressed (R103). -/
  suppressOut : Nat := 0
  /-- Operations of R209 and R220 issued in this run of the superstep (R222). -/
  countOps : Nat := 0
  /-- How many of them still count nothing and vote nothing (R222). -/
  suppressCount : Nat := 0
  /-- The counters to which those operations voted, by number of the operation in the superstep: a rerun's digest takes the same
  (R474). -/
  votes : SMap (Option Nat) := []
  /-- Fill cursor: index of the entry the thread runs or will run next (R273). -/
  fillEntry : Nat := 0
  /-- The segment of `fillEntry` has started. -/
  fillOn : Bool := false
  /-- TIL_FILL_n.IN_FILL (R273). -/
  inFill : Bool := false
  /-- Index of the TBAR or EXPT at which the thread waits. -/
  waitOp : Nat := 0
  /-- The thread issues nothing further (R75, R483). -/
  stopped : Bool := false
  deriving DecidableEq, Repr

/-- The tile gate (R207). -/
inductive GateSt where
  | opened
  | wait
  | commit
  | skip
  | off
  deriving DecidableEq, Repr

/-- Patina counts of one tensor (R220). -/
structure Patina where
  total : Nat := 0
  zero : Nat := 0
  saturated : Nat := 0
  nonfinite : Nat := 0
  deriving DecidableEq, Repr

/-- TIL_XCH_STATUS.PHASE (R273), less Rerunning. -/
inductive Phase where
  | compute
  | exchange
  | signalled
  deriving DecidableEq, Repr

/-- Status of an exchange-list entry (R245, R247). -/
inductive XEntSt where
  /-- Not yet requested (SEND) or not yet matched (RECV). -/
  | waiting
  /-- SEND requested; RECV matched and granted. -/
  | active
  /-- SEND has its receipt; RECV has landed. -/
  | done
  deriving DecidableEq, Repr

/-- An entry of the current exchange list (R242): SEND when `send`. -/
structure XEnt where
  send : Bool
  len : Nat
  /-- SRC_LINE or BUF_LINE. -/
  line : Nat
  /-- DEST (SEND). -/
  dest : Nat
  /-- Destination logical tile (SEND) or SRC (RECV). -/
  peer : Nat
  route : Nat
  st : XEntSt
  deriving DecidableEq, Repr

/-- A FILL entry (R263). -/
structure FillEnt where
  thread : Nat
  ops : Nat
  startLine : Nat
  a1 : Nat
  deriving DecidableEq, Repr

/-- The fill list that is current (R263, R268): its effective address and its entries. -/
structure FillList where
  addr : Nat
  ents : List FillEnt
  deriving DecidableEq, Repr

/-- What a detection was (R100, R160, R462). -/
inductive DetKind where
  | parity
  | cache
  /-- An MXE (false) or VXE (true) mismatch, with its stage. -/
  | residue (vxe : Bool) (stage : Nat)
  deriving DecidableEq, Repr

/-- A detection of the superstep in progress: kind, line or absolute cache entry, thread and operation index. -/
structure Detection where
  kind : DetKind
  place : Nat
  thread : Nat
  opIndex : Nat
  fill : Bool
  deriving DecidableEq, Repr

/-- The configuration that the Armature cluster writes in Loading (R108). -/
structure TileCfg where
  bankPwr : Nat := 0
  startLine : SMap Nat := []
  /-- TIL_REGION_n, 64-bit values. -/
  regions : SMap Nat := []
  /-- TIL_PATINA_TAG_n, 64-bit values. -/
  tags : SMap Nat := []
  /-- The 128-bit Grain seed (R193). -/
  seed : Nat := 0
  deriving DecidableEq, Repr

/-- Error state: TIL_PARITY (R113), mismatch counts (R151, R198), and the words and entries whose stored parity is wrong. -/
structure TileErr where
  parLine : Nat := 0
  parValid : Bool := false
  parCount : Nat := 0
  mxeResidue : Nat := 0
  vxeResidue : Nat := 0
  cacheParCount : Nat := 0
  /-- 32-bit words of tile memory whose parity bit is wrong, by word index (R100). -/
  badWords : SMap Bool := []
  /-- Operand-cache entries whose parity is wrong (R160). -/
  badCache : SMap Bool := []
  /-- Lines whose next delivery by a DMA engine fails the parity check of the mesh (R485): an input from the physical world. -/
  meshUpset : SMap Bool := []
  /-- A mismatch in one stage of the MXE, which its next operation that runs this stage detects: an input from the physical world
  (R147). -/
  mxeUpset : Option Nat := none
  /-- The same for the VXE, by the row of R196. -/
  vxeUpset : Option Nat := none
  /-- Transient residue detections since reset (R465). -/
  transients : Nat := 0
  /-- Strikes since reset (R476). -/
  strikes : Nat := 0
  deriving DecidableEq, Repr

/-- The rerun state of the superstep in progress (R102, R104, R464). -/
structure Rerun where
  /-- A detection has stopped the tile; the restore of Order 4 is pending. -/
  pending : Bool := false
  /-- Reruns begun in this superstep. -/
  count : Nat := 0
  /-- Parity detections in this superstep (R104). -/
  parityHits : Nat := 0
  /-- Detections of this superstep, oldest first. -/
  dets : List Detection := []
  /-- The detection whose rerun is in progress or pending; its record is written when the outcome is known (R104). -/
  current : Option Detection := none
  /-- The fill operations of a thread that is rerunning alone (R105). -/
  fillOnly : Bool := false
  /-- The next superstep is released, and the fill operation in hand, which a detection has stopped, is finished first (R47, R267). -/
  late : Bool := false
  deriving DecidableEq, Repr

/-- The thread digests of a sampled tile or of a shadow run (R472). -/
structure Digest where
  /-- CRC-64 remainders by thread. -/
  rem : SMap Nat := []
  /-- The threads of a pool tile that have been found waiting since its last operation or log entry, one bit each: while one may still
  issue, no entry of the log is applied. -/
  waits : Nat := 0
  deriving DecidableEq, Repr

/-- One logical tile. -/
structure Tile where
  cfg : TileCfg := {}
  mem : Memory := []
  /-- Lines with their poison bit set (R481). -/
  poison : SMap Bool := []
  threads : SMap Thread := []
  /-- Accumulator blocks 0–15, block 4t + i for thread t (R116). -/
  blocks : SMap Block := []
  /-- Operand-cache entries 0–63, 512-bit values (R158). -/
  cache : SMap Nat := []
  /-- Norm accumulators 4t + i (R179). -/
  norms : SMap Norm := []
  err : TileErr := {}
  rerun : Rerun := {}
  gate : GateSt := .off
  gateStep : Nat := 0
  /-- Pending Patina counts by tensor (R221). -/
  patina : SMap Patina := []
  phase : Phase := .compute
  /-- The current exchange list. -/
  xList : List XEnt := []
  /-- What thread 0's EXPT names: effective address and LEN of the list, DRAIN, effective address of the fill list, and its
  operation index (R89, R243, R263). -/
  xAddr : Nat := 0
  xLen : Nat := 0
  xDrain : Bool := false
  xFill : Option Nat := none
  xOp : Nat := 0
  /-- The list was read in this superstep: a resumed exchange keeps its entries (R102 Order 6). -/
  xLoaded : Bool := false
  fillList : Option FillList := none
  /-- The list that replaces the current one when it is finished, and whether one is waiting (R268). -/
  fillNext : Option FillList := none
  fillSwap : Bool := false
  /-- Requests held while the tile computes (R247), by id, oldest first. -/
  held : List Nat := []
  /-- Armed watch timeouts (R307): (watch item id, due tick). -/
  timers : List (Nat × Nat) := []
  /-- TIL_EVENT_TIMER.MODE (R307). -/
  timerMode : Bool := false
  /-- TIL_MSG_STATUS.REFUSED (R340). -/
  msgRefused : Nat := 0
  /-- Lines that a synchronous operation still has to write, by thread: (item id, thread, line) (R127, R297). -/
  pendingLines : List (Nat × Nat × Nat) := []
  /-- Trace entry whose sample the tile is capturing (R469). -/
  cap : Option Nat := none
  /-- Trace entry whose shadow run the tile executes (R471). -/
  shadow : Option Nat := none
  /-- Thread digests in formation (R472). -/
  digest : Digest := {}
  /-- Log entries applied by the shadow run (R472). -/
  logPos : Nat := 0
  deriving DecidableEq, Repr

end Sys2Proof.Machine
end

