-- ==== Sys2Proof/Machine/StateFabric.lean ====
section
/-! DEFINITION. What travels on the fabric's channels, and the state of the Sync Unit (R275 to R307), of the routed
message network (R309 to R340) and of the sync groups (R260, R272). An item in flight carries a number, rising in the
order of injection over the whole device; R51's order of delivery is then the order of the numbers of one source. -/

namespace Sys2Proof.Machine

/-- A source that injects packets (R279, R314). -/
inductive Src where
  | tile (n : Nat)
  | dma (d : Nat)
  | coll (u : Nat)
  | arm (core : Nat)
  | tel (c : Nat)
  | host (f : Nat)
  | port (k : Nat)
  | rmn (slice : Nat)
  | syu
  | plinth
  deriving DecidableEq, Repr

/-- The tile operation behind an item: tile, thread, fill set or main set, ticket if it set one, operation index. -/
structure Who where
  tile : Nat
  thread : Nat
  fill : Bool
  tk : Option Nat
  opIndex : Nat
  deriving DecidableEq, Repr

/-! ### VC0: static exchange -/

/-- A SEND between request and receipt (R247). -/
inductive XStage where
  /-- The request is on its way to the site of ROUTE. -/
  | request
  /-- The receiver's table holds the request. -/
  | held
  /-- The grant is on its way to the sender. -/
  | grant
  /-- The lines are on their way to the receiver. -/
  | data
  /-- The receipt, or the refusal of R579, is on its way to the sender. -/
  | receipt
  | refusal
  deriving DecidableEq, Repr

/-- One SEND on the fabric. -/
structure XSend where
  id : Nat
  sender : Nat
  /-- Index of the SEND entry in the sender's list, and of the matched RECV in the receiver's. -/
  ent : Nat
  dstTile : Nat
  route : Nat
  len : Nat
  offset : Nat
  recv : Nat
  /-- The receiving tile that took the request. -/
  receiver : Nat
  /-- Lines still to land: (512-bit value, poison mark), in order. -/
  lines : List (Nat × Bool)
  landed : Nat
  /-- MESH_PARITY has been written for this entry (R485). -/
  meshBad : Bool
  stage : XStage
  deriving DecidableEq, Repr

/-! ### VC1 and VC2: Sync Unit traffic -/

/-- Where a watch's notification goes (R286, R293, R211). -/
inductive WDest where
  /-- The notification line of a CWATCH. -/
  | cwatch (who : Who) (line : Nat)
  /-- A global address of the context (R293), registered by a bank of SYU_WATCH_CFG or by a host WATCH. -/
  | global (addr : Nat)
  /-- The TEL block's own watch on GATE (R211). -/
  | tel
  /-- A host WATCH: the completion of its command (R445). -/
  | host
  deriving DecidableEq, Repr

/-- A watch registration: counter, comparison (0 GE, 1 GT, 2 EQ, 3 NE), expected value, timeout exponent, destination. -/
structure WReg where
  ctx : Nat
  vid : Nat
  cmp : Nat
  expect : Nat
  t : Nat
  dest : WDest
  /-- Bank that submitted it (R305), for SYU_WATCH_RESULT: 0–15 Armature cores, 16 Plinth controller; none otherwise. -/
  bank : Option Nat
  /-- Host command waiting for the acceptance (R445): (function, command number). -/
  hostCmd : Option (Nat × Nat)
  deriving DecidableEq, Repr

/-- What an item on its way to the SYU asks. -/
inductive SyuBody where
  | inc (vid amt : Nat)
  | reg (w : WReg)
  /-- Counter `i` of the CREAD item `rd`. -/
  | read (vid : Nat) (rd i : Nat)
  /-- A timeout request for the watch that item `watch` registered (R295). -/
  | tmo (vid : Nat) (watch : Nat)
  /-- An increment for a peer, space 0x2, that its source still holds behind its writes (R284, R348). -/
  | remote (addr amt : Nat)
  deriving DecidableEq, Repr

/-- An item on its way to the SYU in VC1, or accepted and waiting for its counter's update window. -/
structure SyuItem where
  id : Nat
  src : Src
  ctx : Nat
  who : Option Who
  /-- Host command that the increment belongs to (R445). -/
  hostCmd : Option (Nat × Nat)
  /-- For an increment from a peer: the link packet's tag, returned in a NAK (R285). -/
  tag : Nat
  body : SyuBody
  /-- The stamp of R315. -/
  stamp : Nat := 0
  deriving DecidableEq, Repr

/-- An active watch (R289, R292). -/
structure Watch where
  slot : Nat
  /-- The item that registered it. -/
  item : Nat
  phys : Nat
  reg : WReg
  /-- Tick of acceptance (R301). -/
  since : Nat
  /-- Ended in the update window in progress, with the value observed and whether it timed out: the slot stays taken until the
  window's end (R296). -/
  ended : Option (Nat × Bool) := none
  deriving DecidableEq, Repr

/-- A notification on its way (R291). -/
structure Notif where
  id : Nat
  item : Nat
  reg : WReg
  slot : Nat
  observed : Nat
  timeout : Bool
  stamp : Nat := 0
  deriving DecidableEq, Repr

/-- A CREAD in progress (R297). -/
structure CReadOp where
  id : Nat
  who : Who
  line : Nat
  n : Nat
  vals : SMap Nat
  /-- Counters served so far. -/
  served : Nat
  stamp : Nat := 0
  /-- Its values on their way that no later packet of their slice has shown to have arrived (R51): the slice of the SYU that sent
  each, and its number. -/
  packets : List (Nat × Nat) := []
  deriving DecidableEq, Repr

/-- One bank of the management registration registers (R305). -/
structure WBank where
  cfg : Nat := 0
  expect : Nat := 0
  dest : Nat := 0
  result : Nat := 0
  /-- The item of the last submission, while it has been neither accepted nor refused. -/
  busy : Option Nat := none
  deriving DecidableEq, Repr

/-- The Sync Unit. -/
structure Syu where
  /-- Physical counters (R275). -/
  counters : SMap Nat := []
  /-- Owner of each counter block: context, 0x10 firmware, 0x1F none. -/
  owners : SMap Nat := []
  /-- Counters that have written WRAP_NEAR in this context lifetime (R300). -/
  wrapSeen : SMap Bool := []
  /-- Items in VC1 towards the SYU. -/
  inbound : List SyuItem := []
  /-- Items accepted, in order of arrival. -/
  accepted : List SyuItem := []
  watches : List Watch := []
  notifs : List Notif := []
  creads : List CReadOp := []
  /-- Banks 0–15 Armature cores, 16 Plinth controller. -/
  banks : SMap WBank := []
  /-- SYU_PEEK_SEL banks; 17 is the physical function. -/
  peek : SMap Nat := []
  /-- Counters and watch slots that hold a correctable (false) or uncorrectable (true) storage error (R278): an input from the
  physical world. -/
  badCounters : SMap (Option Bool) := []
  badSlots : SMap (Option Bool) := []
  /-- Single-bit errors corrected (RAS_SECDED, R278). -/
  secded : Nat := 0
  deriving DecidableEq, Repr

/-! ### Routed messages -/

/-- A record or a pad of a ring, in ring order (R328, R329). -/
structure RingRec where
  /-- Placement number of the record; pads carry their record's. -/
  seq : Nat
  bytes : Nat
  pad : Bool
  /-- Byte position in the body. -/
  pos : Nat
  /-- Every line is written. -/
  complete : Bool
  /-- Host command whose descriptor the record holds (R444): (function, command number). -/
  hostCmd : Option (Nat × Nat)
  deriving DecidableEq, Repr

/-- A queue descriptor (R312, R339). -/
structure Queue where
  addr : Nat := 0
  l : Nat := 0x0C
  ownerKind : Nat := 0
  ownerId : Nat := 0
  /-- 0x1F is none. -/
  ctx : Nat := 0x1F
  maxLines : Nat := 0x20
  openAtStart : Bool := false
  /-- 0 FREE, 1 CLOSED, 2 OPEN. -/
  state : Nat := 0
  hold : Bool := false
  resetPending : Bool := false
  epoch : Nat := 0
  conns : Nat := 0
  wr : Nat := 0
  rd : Nat := 0
  placed : Nat := 0
  refused : Nat := 0
  /-- Refused since the last reset (R332). -/
  refusedReset : Nat := 0
  /-- Placements in the current epoch (R329 SEQ). -/
  seq : Nat := 0
  /-- Messages released in the current epoch (R332). -/
  released : Nat := 0
  /-- Records and pads between RD and WR, oldest first. -/
  recs : List RingRec := []
  /-- COUNT of the header written last (R332). -/
  listed : Nat := 0
  /-- Messages that MPOPs have released in this superstep (R333). -/
  popped : Nat := 0
  deriving DecidableEq, Repr

/-- A change that a tile makes to its own queue (R323): OPEN or CLOSED. -/
inductive OwnChange where
  | listen
  | close
  deriving DecidableEq, Repr

/-- What a packet on its way to a decision point is (R322, R324, R325), or a change of an own queue behind such packets (R321). -/
inductive RmnBody where
  | own (queue : Nat) (chg : OwnChange)
  | connect (qaddr : Nat) (line : Nat)
  | message (queue route epoch : Nat) (payload : List (Nat × Bool)) (status : Nat)
  | release (queue epoch : Nat)
  deriving DecidableEq, Repr

/-- A packet on its way to a decision point. `kind` is the sender kind of R329; `dest` the site, or 0x1800 + hub slice. -/
structure RmnItem where
  id : Nat
  src : Src
  dest : Nat
  hostCmd : Option (Nat × Nat)
  ctx : Nat
  who : Option Who
  kind : Nat
  body : RmnBody
  /-- The stamp of R315, in the head of a message (R325). -/
  stamp : Nat := 0
  deriving DecidableEq, Repr

/-- A message that passed its decision point and is being placed (R327, R330). -/
structure Placing where
  id : Nat
  queue : Nat
  epoch : Nat
  seq : Nat
  /-- Position in the body of the record, its header line, and the position and header of a pad before it. -/
  pos : Nat
  head : Nat
  pad : Option (Nat × Nat)
  payload : List (Nat × Bool)
  status : Nat
  who : Option Who
  src : Src
  dest : Nat
  hostCmd : Option (Nat × Nat)
  ctx : Nat
  /-- The item that it came as, and its stamp, which the reply carries (R315). -/
  item : Nat := 0
  stamp : Nat := 0
  deriving DecidableEq, Repr

/-- A reply in VC2 (R319, R320): the handle line of a MOPEN or the status word of a MSEND. `source` is the decision point, or
none for an MSEND that never left its tile. -/
structure RmnReply where
  id : Nat
  source : Option Nat
  who : Who
  ctx : Nat
  mopen : Bool
  /-- Tile offset written. -/
  at_ : Nat
  /-- 64-byte line (MOPEN) or 8-byte word (MSEND). -/
  value : Nat
  result : Nat
  /-- The item that it answers, and that item's stamp (R315). -/
  item : Nat := 0
  stamp : Nat := 0
  deriving DecidableEq, Repr

/-- The routed message network. -/
structure Rmn where
  queues : SMap Queue := []
  items : List RmnItem := []
  placing : List Placing := []
  replies : List RmnReply := []
  /-- RMN_Q_SEL banks: 0–15 Armature cores, 16 Plinth controller, 17 physical function. -/
  sel : SMap Nat := []
  /-- Descriptors that hold a correctable (false) or uncorrectable (true) storage error (R339): an input from the physical world. -/
  badQueues : SMap (Option Bool) := []
  deriving DecidableEq, Repr

/-! ### Sync groups -/

/-- A sync group (R34, R272). -/
structure Group where
  owner : Nat := 0x1F
  superstep : Nat := 0
  complete : Bool := false
  /-- Tick of the last release, and of the last tile's entry into exchange (R272). -/
  releasedAt : Nat := 0
  lastEntry : Nat := 0
  superstepNs : Nat := 0
  exchangeNs : Nat := 0
  deriving DecidableEq, Repr

/-! ### TEL traffic (R221, R224) -/

/-- Counts or a Calipers contribution on its way to the TEL block. -/
inductive TelBody where
  | counts (step : Nat) (c : SMap Patina)
  | calipers (layer q : Nat) (x count : Nat) (nonfinite : Bool)
  deriving DecidableEq, Repr

/-- A packet on its way to the TEL block in VC1. -/
structure TelItem where
  id : Nat
  tile : Nat
  ctx : Nat
  body : TelBody
  stamp : Nat := 0
  deriving DecidableEq, Repr

end Sys2Proof.Machine
end

