-- ==== Sys2Proof/Machine/StateMem.lean ====
section
/-! DEFINITION. The state of HBM, the Frame Map and the DMA engines (R342 to R380). -/

namespace Sys2Proof.Machine

/-- A Frame Map entry (R350). -/
structure FEntry where
  valid : Bool := false
  rd : Bool := false
  wr : Bool := false
  peer : Bool := false
  snap : Bool := false
  scopied : Bool := false
  ctx : Nat := 0
  pframe : Nat := 0
  sframe : Nat := 0
  /-- POISON, bit g for granule g. -/
  poison : Nat := 0
  deriving DecidableEq, Repr

/-- What a physical context frame is held for; a frame not listed is in the pool of its domain when that domain is On. -/
inductive FrameSt where
  | pool
  /-- Part of a context's reservation: mapped, copy-on-write reserve (`cow`), or partner window. -/
  | held (ctx : Nat) (cow : Bool)
  /-- Being zeroed; `back` is the context whose copy-on-write reserve it belongs to, if any. -/
  | zeroing (back : Option Nat)
  | retired
  deriving DecidableEq, Repr

/-- Where an access to space 0x0 is on its way (R351, R346, R365). -/
inductive AStage where
  /-- On its way to its translation slice. -/
  | toSlice
  /-- Held at the slice behind a copy-on-write copy (R357). -/
  | held
  /-- Translated, on its way to its channel, or waiting at it. -/
  | toChan
  /-- A write accepted by the controller: its acknowledgement is on its way. -/
  | acked
  /-- A read whose data is on its way to its source. -/
  | data
  deriving DecidableEq, Repr

/-- One line access to HBM. -/
structure Access where
  id : Nat
  src : Src
  /-- Owner of the window used: context 0–15, or 0x10. -/
  ctx : Nat
  /-- The operation, descriptor or ring write it belongs to, and its line index there. -/
  op : Nat
  idx : Nat
  vaddr : Nat
  write : Bool
  data : Nat
  /-- The bytes that a write stores: from which, and how many; a core may store part of a line (R580). -/
  part : Nat × Nat := (0, 64)
  poison : Bool
  /-- Snapshot-view read (R358). -/
  snap : Bool
  /-- Physical byte address after translation; a partner-window access has it from the start. -/
  phys : Nat
  stage : AStage
  /-- The stamp of R315; the data or the acknowledgement carries it back. -/
  stamp : Nat := 0
  /-- The entry of the channel's read-merge buffer that a read waits in, named by the read that allocated it; none for a read that is
  served alone (R365). -/
  merge : Option Nat := none
  deriving DecidableEq, Repr

/-- What a group of line accesses belongs to: one detection when lines of it are refused (R353). -/
inductive MemOpKind where
  /-- HRD (R82): the tile operation, the destination line. -/
  | hrd (who : Who) (line : Nat)
  | hwr (who : Who)
  /-- A ring record (placing item) or a header of queue `q` in HBM. -/
  | ring (q : Nat) (placing : Option Nat)
  /-- Descriptor `d` of a DMA engine. -/
  | dma (d : Nat)
  /-- Descriptor `d` of a collective unit. -/
  | coll (d : Nat)
  /-- A write or read of the TEL block (R229 to R232). -/
  | tel
  /-- A notification record to space 0x0 (R293), of a watch on virtual counter `vid`. -/
  | notif (vid : Nat)
  /-- A load or store of an Armature core (R580). -/
  | core (core : Nat)
  /-- A packet of a peer through port `k` with its tag (R396). -/
  | peer (k tag : Nat)
  /-- The writes of a cartridge READ (R499). -/
  | crt
  /-- The copy of an image into the staging slot of context `c` (R576 Order 2). -/
  | stage (c : Nat)
  /-- Writes of a capture, a log or a digest into entry `n` of the trace buffer (R469, R472). -/
  | trace (n : Nat)
  deriving DecidableEq, Repr

/-- A group of line accesses in progress. -/
structure MemOp where
  id : Nat
  kind : MemOpKind
  src : Src
  ctx : Nat
  write : Bool
  /-- Lines not yet completed or refused. -/
  left : Nat
  /-- The refused line of lowest virtual address so far, with the code of R352 and its Detail. -/
  refused : Option (Nat × Nat × Nat)
  /-- MESH_PARITY has been written for it (R485). -/
  meshBad : Bool
  /-- Lines that have not been issued yet: a source away from the device is still awaited (R353). -/
  more : Nat := 0
  deriving DecidableEq, Repr

/-- A copy-on-write copy in progress (R357): Frame Map entry, new frame. -/
structure Copy where
  entry : Nat
  frame : Nat
  deriving DecidableEq, Repr

/-- A DMA descriptor in progress (R367 to R371). -/
structure Desc where
  id : Nat
  engine : Nat
  queue : Nat
  ctx : Nat
  /-- The 64 bytes of payload line 0. -/
  raw : Nat
  /-- Lines that it moves, and lines acknowledged at the destination. -/
  lines : Nat
  acked : Nat
  /-- Lines marked by poisoned host data (R434). -/
  hostPoison : Nat
  /-- Host command that it serves (R444): (function, command number). -/
  hostCmd : Option (Nat × Nat)
  /-- MESH_PARITY has been written for it (R485). -/
  meshBad : Bool
  /-- Ended by a fault: the queue is stopped (R371). -/
  faulted : Bool
  /-- Its source in space 0xF has not been read yet; lines on their way to destinations in space 0xF, by index (R42, R369). -/
  regSrc : Bool := false
  /-- Lines of it that have been read. -/
  regPos : Nat := 0
  regLines : List (Nat × Nat) := []
  deriving DecidableEq, Repr

/-- A register set for Frame Map commands (R379). -/
structure FmSet where
  arg : Nat := 0
  pframe : Nat := 0
  cmd : Nat := 0
  status : Nat := 0
  reason : Nat := 0
  /-- Accesses that a slice translated under the old entries and that are not yet at their point of visibility (R355). -/
  waits : List Nat := []
  /-- The value of a command that waits for copies in its range (R357) before its slices apply it. -/
  behindCopy : Option Nat := none
  deriving DecidableEq, Repr

/-- An HBM domain (R374, R380). -/
structure Hdom where
  down : Bool := false
  up : Bool := false
  fenced : Bool := false
  logOverflow : Bool := false
  /-- Dark-write log: granules, by frame × 64 + granule. -/
  log : List Nat := []
  /-- Peers (partner windows p) whose SUSPENDED has arrived (R374 Order 4). -/
  confirmed : List Nat := []
  deriving DecidableEq, Repr

/-- A partner window MEM_PWIN_p (R380). -/
structure PWin where
  first : Nat := 0
  frames : Nat := 0
  ctx : Nat := 0x1F
  lost : Bool := false
  deriving DecidableEq, Repr

/-- HBM, the Frame Map and the DMA engines. -/
structure Hbm where
  /-- Bytes by physical address: frame × 65536 + offset. -/
  mem : Memory := []
  /-- Lines stored with the poison encoding, by physical line number. -/
  poison : SMap Bool := []
  /-- Lines holding a correctable (false) or uncorrectable (true) error: an input from the physical world (R361, R362). -/
  bad : SMap (Option Bool) := []
  /-- Frames in which an uncorrectable error has occurred (R359). -/
  suspect : SMap Bool := []
  fmap : SMap FEntry := []
  /-- The window of the firmware system context is mapped onto the system region (R344); and its entries that have been changed since,
  which stand in `fmap`. -/
  sysMapped : Bool := false
  sysGone : SMap Bool := []
  frames : SMap FrameSt := []
  accs : List Access := []
  ops : List MemOp := []
  copies : List Copy := []
  descs : List Desc := []
  /-- Where the rotation of each DMA engine over its queues stands (R367): the first descriptor number to serve. -/
  nextQueue : SMap Nat := []
  /-- Queues that a fault stopped (R371). -/
  stopped : SMap Bool := []
  /-- MEM_DMA_STATUS_d.COMPLETED. -/
  completed : SMap Nat := []
  fm : SMap FmSet := []
  hdom : SMap Hdom := []
  pwin : SMap PWin := []
  corrected : Nat := 0
  uncorrectable : Nat := 0
  deriving DecidableEq, Repr

end Sys2Proof.Machine
end

