-- ==== Sys2Proof/Machine/StateTel.lean ====
section
/-! DEFINITION. The TEL block of one context (R213 to R239): configuration, gate status, vote bases, Patina totals,
Calipers windows, the block map copy and the telemetry ring. -/

namespace Sys2Proof.Machine

/-- A Calipers window of one layer and quantity (R225). -/
structure Caliper where
  v : Nat := 0
  /-- W; meaningful when `wset`, otherwise W_INIT holds. -/
  w : Int := 0
  wset : Bool := false
  count : Nat := 0
  sticky : Bool := false
  saturated : Bool := false
  nonfinite : Bool := false
  deriving DecidableEq, Repr

/-- The TEL block of a context. -/
structure Tel where
  gateCfg : Nat := 0
  target : Nat := 0
  scaleCfg : Nat := 0
  recordAddr : Nat := 0
  blockMapAddr : Nat := 0
  calipersCfg : Nat := 0xFFB0
  noiseCfg : Nat := 0
  ringBase : Nat := 0
  ringCtrl : Nat := 0
  head : Nat := 0
  tail : Nat := 0
  dropped : Nat := 0
  /-- TEL_STATUS: decisions made, E (8-bit two's complement), LAST; TEL_STREAK (R239). -/
  step : Nat := 0
  e : Nat := 0
  last : Nat := 0
  skipStreak : Nat := 0
  commitStreak : Nat := 0
  /-- Vote bases of NF0 and NF1 (R213). -/
  base0 : Nat := 0
  base1 : Nat := 0
  /-- Patina totals of the open step, by tensor (R221). -/
  totals : SMap Patina := []
  /-- Totals of the step after it, from tiles that have contributed already (R207, R221). -/
  nextTotals : SMap Patina := []
  /-- Calipers windows, by 8 × layer + quantity (R225). -/
  calipers : SMap Caliper := []
  /-- The copy of the block map, bytes by tensor (R230). -/
  blockMap : Memory := []
  /-- The watch on GATE has been met for the next step (R211, R213 Order 1). -/
  gateMet : Bool := false
  /-- The watch on GATE is registered. -/
  watching : Bool := false
  deriving DecidableEq, Repr

end Sys2Proof.Machine
end

