-- ==== Sys2Proof/Machine/StateCtx.lean ====
section
/-! DEFINITION. The state of contexts and tile sets (R28 to R36, R304 to R306, R349), and the fault record of R15. -/

namespace Sys2Proof.Machine

/-- A fault record (R15); the class is the high byte of the code. `none` fields are written as all ones. -/
structure FaultRec where
  code : Nat
  ctxFatal : Bool := false
  devFatal : Bool := false
  retried : Bool := false
  locValid : Bool := false
  /-- 0–15, 0xFFFE firmware, 0xFFFF none. -/
  ctx : Nat := 0xFFFF
  tile : Nat := 0xFFFF
  superstep : Nat := 0xFFFFFFFFFFFFFFFF
  addr : Nat := 0xFFFFFFFFFFFFFFFF
  opIndex : Nat := 0xFFFFFFFF
  detail : Nat := 0
  deriving DecidableEq, Repr

/-- The four states of a context and its tile sets (R31, R36). -/
inductive CtxSt where
  | idle
  | loading
  | running
  | tearing
  deriving DecidableEq, Repr

/-- Owner, sync group and state of a tile set (R36). -/
structure TSet where
  owner : Nat := 0x1F
  group : Nat := 0
  st : CtxSt := .idle
  deriving DecidableEq, Repr

end Sys2Proof.Machine
end

