-- ==== Sys2Proof/Machine/StateHif.lean ====
section
/-! DEFINITION. The state of the host interface, its rings, and the mailboxes (R428 to R460). Host memory lies outside
the block: what the host interface writes leaves in the outbox, what it reads comes with a completion command. -/

namespace Sys2Proof.Machine

/-- What an outstanding host read is for (R435). -/
inductive HReadUse where
  /-- Command ring entry at index `i` of function `f`. -/
  | ringFetch (f i : Nat)
  /-- Source lines of DMA descriptor `d`: first line and how many. -/
  | dmaSource (d line n : Nat)
  /-- Staging of the image or the job descriptor of the ADMIT at command number `c` of function `f` (R576). -/
  | staging (f c : Nat)
  deriving DecidableEq, Repr

/-- A host read without its completion. -/
structure HRead where
  id : Nat
  fn : Nat
  addr : Nat
  bytes : Nat
  use : HReadUse
  /-- The tick at which the request left (R435). -/
  since : Nat := 0
  deriving DecidableEq, Repr

/-- Where a command in progress stands (R443). -/
inductive CmdSt where
  /-- Fetched and checked, not started. -/
  | fetched
  /-- Started; its outcome is not fixed. -/
  | started
  /-- A DMA command whose message waits for the queue (R444). -/
  | sending
  deriving DecidableEq, Repr

/-- A host command in progress. `id` is its own number, `num` its ring index: two commands of one index can be in progress, one fetched
before a RESET of the ring and one after it (R443). -/
structure Cmd where
  fn : Nat
  id : Nat
  num : Nat
  raw : Nat
  st : CmdSt
  deriving DecidableEq, Repr

/-- One ring of a function (R436, R459). -/
structure Ring where
  base : Nat := 0
  l : Nat := 6
  enable : Bool := false
  device : Nat := 0
  host : Nat := 0
  /-- 0 Disabled, 1 Running, 2 Error. -/
  st : Nat := 0
  cause : Nat := 0
  count : Nat := 0
  deriving DecidableEq, Repr

/-- One function (R430, R431, R459). -/
structure Fn where
  busMaster : Bool := false
  d3hot : Bool := false
  /-- A function-level reset waits for the completions or timeouts of the function's reads (R451 Order 4). -/
  resetting : Bool := false
  irqCount : Nat := 1
  irqDelay : Nat := 0
  /-- Rings 0 command, 1 completion, 2 event. -/
  rings : SMap Ring := []
  /-- Entries of vectors 0 and 1 since the last message, and the tick of the first (R450). -/
  unsig0 : Nat := 0
  unsig1 : Nat := 0
  since0 : Nat := 0
  since1 : Nat := 0
  /-- Events produced for the ring, and dropped since the last written one (R448, R449). -/
  events : Nat := 0
  lost : Nat := 0
  /-- The host read of the command ring fetch that is outstanding (R441): one at a time. -/
  fetching : Option Nat := none
  /-- MSI-X vectors that wait until the function may issue again (R431). -/
  heldIrqs : List Nat := []
  /-- Ring entries whose posted write waits (R431): (ring, index, 512-bit entry). -/
  heldEntries : List (Nat × Nat × Nat) := []
  /-- Max Payload Size and Max Read Request Size in bytes, as the host sets them (R428). -/
  mps : Nat := 128
  mrrs : Nat := 512
  /-- Completion Timeout Value [3:0] and Disable [4] of Device Control 2, as the host sets them (R435). -/
  timeout : Nat := 0
  /-- The MSI-X table of BAR4, by vector, an entry as 128 bits, and the Pending Bit Array (R430). -/
  msixTable : SMap Nat := []
  msixPending : SMap Bool := []
  deriving DecidableEq, Repr

/-- The host interface. -/
structure Hif where
  speed : Nat := 0
  width : Nat := 0
  flit : Bool := false
  numVfs : Nat := 0
  /-- The PCIe link is up (DL_Up). -/
  dlUp : Bool := false
  /-- Configuration space ready: configuration requests no longer complete with RRS (R544). -/
  configReady : Bool := false
  /-- VF Enable of the PF's SR-IOV capability (R428, R431). -/
  vfEnable : Bool := false
  fns : SMap Fn := []
  /-- Host reads that are outstanding, at most 512, and those that wait for one of them to end (R428). -/
  reads : List HRead := []
  waiting : List HRead := []
  cmds : List Cmd := []
  deriving DecidableEq, Repr

/-- One mailbox channel (R454, R460). -/
structure Channel where
  sender : Nat := 0
  receiver : Nat := 0
  /-- 64 bytes, little-endian. -/
  data : Nat := 0
  full : Bool := false
  timeout : Bool := false
  delivered : Bool := false
  denied : Bool := false
  len : Nat := 0
  seq : Nat := 0
  timeoutMs : Nat := 0x000A
  /-- TIMEOUT_MS in force for the waiting message, and the tick of its send. -/
  armed : Nat := 0
  since : Nat := 0
  /-- The MCTP delivery to the BMC is outstanding (channel 3, R614). -/
  mctp : Bool := false
  deriving DecidableEq, Repr

/-- The mailboxes. -/
structure Mbx where
  channels : SMap Channel := []
  lock : Bool := false
  /-- MBX_CBT_LOCK has been written since reset: a later write is ignored (R13). -/
  lockWritten : Bool := false
  /-- Provisioning generations used, from fuses (R453). -/
  gen : Nat := 0
  /-- The table last provisioned, by channel: sender + 256 × receiver (R453). -/
  provisioned : SMap Nat := []
  deriving DecidableEq, Repr

end Sys2Proof.Machine
end

