-- ==== Sys2Proof/Machine/StateLnk.lean ====
section
/-! DEFINITION. The state of the Verjo ports, bindings and collective units (R382 to R426). -/

namespace Sys2Proof.Machine

/-- States of a port (R389). -/
inductive PortSt where
  | down
  | training
  | negotiating
  | up
  | error
  deriving DecidableEq, Repr

/-- A packet of the link (R385): the head's fields and the payload slots, (512-bit line, POISON). -/
structure LPkt where
  kind : Nat
  iss : Nat
  dst : Nat
  info : Nat
  lines : Nat
  addr : Nat
  token : Nat
  age : Nat
  tag : Nat
  body : Nat
  payload : List (Nat × Bool)
  /-- Link class (R384): 0 collective, 1 VC1, 2 VC2, 3 VC3. -/
  cls : Nat
  deriving DecidableEq, Repr

/-- What waits for an answer from a peer. -/
inductive TokenUse where
  /-- A line write of DMA descriptor `d`; the window line offset for a partner-window write. -/
  | dmaWrite (d : Nat) (pwin : Bool) (line : Nat)
  /-- A read of DMA descriptor `d` for its lines from `line` on. -/
  | dmaRead (d line n : Nat)
  /-- A SEND write of collective descriptor `d`. -/
  | collWrite (d : Nat)
  /-- An increment: the context, the tile operation that waits for it if any, the counter's global address. -/
  | inc (who : Option Who) (addr : Nat)
  deriving DecidableEq, Repr

/-- A packet sent through a port that the peer has not answered yet. -/
structure Waiting where
  token : Nat
  port : Nat
  ctx : Nat
  src : Src
  /-- Tick of sending: for a partner-window write, of the flit that sends it (R418). -/
  since : Nat
  use : TokenUse
  deriving DecidableEq, Repr

/-- A partner-window write held at the port (R417). -/
structure HeldWrite where
  ctx : Nat
  desc : Nat
  offset : Nat
  data : Nat
  poison : Bool
  deriving DecidableEq, Repr

/-- An access of a peer that waits for its local point of visibility or data (R396). -/
structure PeerOp where
  /-- Group of HBM accesses, or the SYU item of an increment. -/
  id : Nat
  port : Nat
  pkt : LPkt
  ctx : Nat
  /-- The stamp that the packet received at the port (R392), which its answer carries (R315). -/
  stamp : Nat := 0
  deriving DecidableEq, Repr

/-- A binding entry LNK_BIND_k_c (R394, R426): STATE 0 none, 1 PENDING, 2 ACTIVE, 3 CLOSED. -/
structure Binding where
  st : Nat := 0
  peerCtx : Nat := 0
  tag : Nat := 0
  /-- The peer module identity that the job descriptor names (R394). -/
  peerId : Nat := 0
  /-- Tick at which the context's Loading began (R394). -/
  since : Nat := 0
  deriving DecidableEq, Repr

/-- A BIND received (R393): the port that it names, this side's context, and the peer's body. -/
structure BindMsg where
  port : Nat
  ctx : Nat
  peerCtx : Nat
  tag : Nat
  /-- The identity that the peer expects here. -/
  expected : Nat
  deriving DecidableEq, Repr

/-- A packet handed to a port that no flit has taken yet: its context, its stamp (R315), and the packet. -/
structure TxPkt where
  ctx : Nat
  stamp : Nat
  pkt : LPkt
  deriving DecidableEq, Repr

/-- A flit sent that the peer has not acknowledged (R386): its SEQ, the flit, and how often it has been replayed. -/
structure SentFlit where
  seq : Nat
  flit : Nat
  times : Nat
  deriving DecidableEq, Repr

/-- One Verjo port. -/
structure Port where
  enable : Bool := true
  /-- Signal is present: an input of the physical world (R389). -/
  signal : Bool := false
  st : PortSt := .down
  version : Nat := 0
  peerPort : Nat := 0
  error : Nat := 0
  peerId : Nat := 0
  fecCorrected : Nat := 0
  retries : Nat := 0
  fecUncorrectable : Nat := 0
  downEvents : Nat := 0
  suspended : Bool := false
  /-- SUSPENDED for this window is still to leave, behind the packet whose slots are leaving (R417). -/
  suspendDue : Option Nat := none
  held : List HeldWrite := []
  /-- The SEQ expected next (R386). -/
  expected : Nat := 0
  /-- The first SEQ that the peer has not acknowledged (R384 ACK). -/
  ackedSeq : Nat := 0
  /-- A flit was discarded, RETRY_REQ has been sent, and the expected flit has not come (R386). -/
  retrying : Bool := false
  /-- SEQ of the next flit sent, and the replay buffer, oldest first (R386). -/
  seq : Nat := 0
  sent : List SentFlit := []
  /-- Packets handed over, oldest first, and by link class the slots of a packet whose first slots have left: (tag, slot). -/
  tx : List TxPkt := []
  begun : SMap (List (Nat × Nat)) := []
  /-- Credits by link class (R384): slots sent, credits that the peer has returned, and credits to return to it. -/
  spent : SMap Nat := []
  returned : SMap Nat := []
  owed : SMap Nat := []
  /-- Flits received since the FEC locked, and the last codeword counted as uncorrectable, plus one. -/
  flits : Nat := 0
  badWord : Nat := 0
  /-- Tick at which the last flit arrived (R387). -/
  lastFlit : Nat := 0
  /-- ABILITY sent in this negotiation (R390). -/
  abilitySent : Bool := false
  /-- Tick at which training began (R389). -/
  since : Nat := 0
  /-- Slots of accepted flits whose packet is not complete, by link class. -/
  partials : SMap (List (Nat × Bool)) := []
  /-- Complete packets received, oldest first. -/
  rx : List LPkt := []
  deriving DecidableEq, Repr

/-- A collective descriptor in progress (R399, R408). -/
structure CDesc where
  id : Nat
  unit : Nat
  queue : Nat
  ctx : Nat
  raw : Nat
  /-- Local writes and SEND writes not yet acknowledged. -/
  left : Nat
  /-- For DIGEST: the digest (none while HISTORY waits), POISONED, and the twin's, once present. -/
  own : Option (Nat × Bool)
  twin : Option (Nat × Bool)
  /-- The result has been written (R423). -/
  written : Bool
  faulted : Bool
  deriving DecidableEq, Repr

/-- A DIGEST packet held at W (R423), or a kept digest (R424). -/
structure DigestRec where
  ctx : Nat
  label : Nat
  tag : Nat
  digest : Nat
  poisoned : Bool
  /-- The packet asks for a comparison with the history (R424), or answers NOT_HELD. -/
  ask : Bool
  notHeld : Bool
  deriving DecidableEq, Repr

/-- A RESERVE declaration (R415). -/
structure Reserve where
  port : Nat
  tag : Nat
  d4 : Nat
  d5 : Nat
  deriving DecidableEq, Repr

/-- The Verjo block. -/
structure Lnk where
  /-- LNK_COORD; DX, DY and DZ are 1 at reset. -/
  coord : Nat := 0x010101000000
  wcfg : Nat := 0x1F * 4
  ports : SMap Port := []
  /-- Bindings by 16 × port + context. -/
  binds : SMap Binding := []
  bindMsgs : List BindMsg := []
  waiting : List Waiting := []
  peerOps : List PeerOp := []
  cdescs : List CDesc := []
  digests : List DigestRec := []
  history : List DigestRec := []
  /-- Where the rotation of each collective unit over its queues stands (R399): the first descriptor number to serve. -/
  nextQueue : SMap Nat := []
  /-- Declarations received from Y peers, kept until an admission uses them. -/
  reserves : List Reserve := []
  deriving DecidableEq, Repr

end Sys2Proof.Machine
end

