-- ==== Sys2Proof/Machine/StatePln.lean ====
section
/-! DEFINITION. The state of the Plinth controller's windows: fuses and flash (R453, R479, R510 to R514, R542, R554, R557,
R560), boot and reset (R538 to R556), the fault record queue and alerts (R594 to R599), the latches of register accesses
(R589), the Armature tags (R587), and the module's connectors (R605, R609, R612, R615). -/

namespace Sys2Proof.Machine

/-- The image that manufacture leaves in both slots: its signature under the manufacturer's key, and the fused hash of that key. DESIGN
CHOICE (log entry 175): R542 gives neither. -/
def factorySig : Signature :=
  { key := 0xBC634683AC09F773B5B48B5A36A8FF055A4B6E31518F62B58C80A59C7259343A0E2EBBB1E9784EE07EBE42D28C58504D2B8A7C7AE0C91D8F1E44F57760FAE863F99870ADB0A9CB3558F8A5C12ED51F36B92E9207A418E0AA32A0ED24DF98DE69
    r := 0x2FCAD3C4FC08A40E2C7EB6B5345ED5DC5781793FFB2C96D94C6ED8E989529BDC504930845FF008743D00B4A70C5DC740
    s := 0xAF162039182C58F490C3B0DF01E06519B4B765507F4D17A5639E35A7D4287339899E0812EC34A5163C81B5D82A51E88F }
def factorySigner : Nat := 0x8FE16CA7884F0E8D0488E5B9BE8FCA3F532312683C104F55A6D8ABFDF6B58DC4

/-- What manufacture and fused steps fix (R2, R24, R513, R534, R557). -/
structure Fuses where
  /-- 0 ZH5760-S, 1 ZH5760-L. -/
  ordering : Nat := 0
  /-- 0 A0, 1 B0. -/
  stepping : Nat := 1
  moduleId : Nat := 0
  modesAllowed : Nat := 7
  convPermille : Nat := 1040
  /-- RATE_MSPS by 5 × mode + point (R510). -/
  rates : SMap Nat := []
  /-- PWR_EVENT by 11 × mode + class (R514). -/
  events : SMap Nat := []
  /-- Static power of the firmware system context, mW (R525). -/
  sysMw : Nat := 0
  /-- Sites that generation 0 leaves unselected: the spares of R23. -/
  unselected : SMap Bool := []
  /-- Records of the committed generations, oldest first: (physical tile, spare found bad) (R554). -/
  gens : List (List (Nat × Bool)) := []
  reductions : Nat := 0
  ceilingW : Nat := 2000
  cbtGens : Nat := 0
  floorSteps : Nat := 0
  fwFloor : Nat := 0
  verjoFloor : Nat := 0
  /-- The SHA3-256 hash of Krovhorn's cartridge authority key (R497). -/
  authority : Nat := 0
  /-- The SHA3-256 hash of the key that signs firmware images (R542). -/
  signer : Nat := factorySigner
  deriving DecidableEq, Repr

/-- A firmware image slot (R542): the image's signature and SHA-384 hash; `auth`: what the ROM's check of them finds, which stays while the
image stands in flash; `form`: its format is right. -/
structure Slot where
  sig : Signature := factorySig
  hash : Nat := 0
  auth : Bool := true
  form : Bool := true
  svn : Nat := 0
  minor : Nat := 0
  build : Nat := 0
  deriving DecidableEq, Repr

/-- An audit entry (R560). -/
structure AuditEnt where
  time : Nat
  event : Nat
  agent : Nat
  intent : Bool := false
  done : Bool := false
  abandoned : Bool := false
  counter : Nat := 0
  /-- Bytes 16–31. -/
  data : Nat := 0
  deriving DecidableEq, Repr

/-- The settings that change by fused steps only (R557), each with what its change brings. -/
inductive Limited where
  /-- A generation of the tile map: its fuse record, and the tiles moved, each with its old and its new site (R554). -/
  | tileMap (record : List (Nat × Bool)) (moved : List (Nat × Nat × Nat))
  /-- The power ceiling in W. -/
  | ceiling (watts : Nat)
  /-- The provisioning record of the Channel Binding Table. -/
  | cbt (table : SMap Nat)
  /-- The floor of the Verjo version, or of the firmware SVN. -/
  | floor (verjo : Bool) (value : Nat)
  deriving DecidableEq, Repr

/-- A limited change whose INTENT is written and whose DONE is not (R558): the index of its audit entry, whether its fuse step reads
burnt, and the change. -/
structure OpenChange where
  entry : Nat
  burnt : Bool
  change : Limited
  deriving DecidableEq, Repr

/-- What a boot does in turn: the rows of R541, Orders 3 and 4 apart, Orders 9 and 10 together. -/
inductive BootPart where
  | image | pll | control | pcie | spine | links | hbm | bist | tiles | commit
  deriving DecidableEq, Repr

/-- PLN_BOOT_STATUS.STAGE of a row (R541, R561). -/
def BootPart.stage : BootPart → Nat
  | .image => 0
  | .pll => 1
  | .control => 2
  | .pcie => 2
  | .spine => 3
  | .hbm => 3
  | .bist => 3
  | .links => 4
  | .tiles => 5
  | .commit => 6

/-- The candidate map (R553): the fuse record, the tiles moved with their old and new sites, the tiles that cannot move with their
causes, and the spares that were tested. -/
structure Cand where
  record : List (Nat × Bool) := []
  moved : List (Nat × Nat × Nat) := []
  stay : List (Nat × Nat) := []
  tested : List Nat := []
  deriving DecidableEq, Repr

/-- A bank of the fault record queue and of the alerts (R590, R598). -/
structure FrqBank where
  seq : Nat := 0
  st : Nat := 1
  data : Nat := 0
  maskClasses : Nat := 0
  maskFatal : Bool := true
  statClasses : Nat := 0
  statFatal : Bool := false
  /-- The alert line that the bank drives (R599): for bank 1 the interrupt line of the Armature cluster, for bank 2 MGMT_SMB_ALERT#
  (R615), true while it is asserted. -/
  line : Bool := false
  deriving DecidableEq, Repr

/-- The Plinth controller's state. -/
structure Pln where
  fuses : Fuses := {}
  slotA : Slot := {}
  slotB : Slot := {}
  /-- The running image (R592). -/
  running : Slot := {}
  /-- The CBT provisioning record of the flash, by channel: sender + 256 × receiver (R453). -/
  cbtFlash : SMap Nat := []
  /-- Limited area, change part and mark part, and general area with its count (R560). -/
  auditChange : List AuditEnt := []
  auditMark : List AuditEnt := []
  /-- Newest first, at most 4,096. -/
  auditGeneral : List AuditEnt := []
  auditGeneralCount : Nat := 0
  auditSel : Nat := 0
  openChange : Option OpenChange := none
  /-- Powered time before the current power-up, ms (R560). -/
  poweredMs : Nat := 0
  /-- The rows of the boot sequence that have not ended; none before a boot and after it (R541). -/
  boot : List BootPart := []
  /-- The sites that failed in this boot, and the candidate map until it is committed (R553). -/
  bootFailed : List Nat := []
  cand : Cand := {}
  /-- The tick at which the path in force began (R561). -/
  pathSince : Option Nat := none
  /-- PLN_BOOT_STATUS. -/
  path : Nat := 0
  ready : Bool := false
  failed : Bool := false
  /-- A boot record with DEVICE_FATAL stands, which keeps FAILED set (R561). -/
  bootFatal : Bool := false
  /-- The slot that the ROM has started: 0 none yet, 1 A, 2 B. -/
  slot : Nat := 0
  /-- PLN_RESET.FULL, and GO until the reset is taken. -/
  resetFull : Bool := false
  resetGo : Bool := false
  /-- PLN_RESET_CAUSE. -/
  cause : Nat := 0
  causePath : Nat := 0
  afterFatal : Bool := false
  declined : Nat := 0
  /-- A reset request that waits to be taken: its cause, and whether reason 3 of R551 declines the fast path (R552, R559). -/
  resetReq : Option (Nat × Bool) := none
  /-- D0, D4 and D5 have stayed powered since the last full HBM training (R551). -/
  trainPowered : Bool := false
  /-- D4 or D5 has lost power since a boot last powered them up (R538). -/
  hbmLost : Bool := true
  /-- THERMAL_TRIP, INPUT_VOLTAGE or RAIL_FAULT since the last cold boot (R551). -/
  stressed : Bool := false
  withheld : SMap Bool := []
  /-- Logical tiles that the generation in force has moved: one more than their site; 0 is not moved (R554). -/
  moved : SMap Nat := []
  pendingFull : Bool := false
  /-- Fault record queue: newest first, at most 1,024. -/
  frq : List FaultRec := []
  head : Nat := 0
  enabled : Bool := false
  /-- Records held before ENABLE, oldest first. -/
  hold : List FaultRec := []
  holdDropped : Nat := 0
  banks : SMap FrqBank := []
  /-- A record with DEVICE_FATAL since the last reset (R594), and the first such record. -/
  fatal : Bool := false
  fatalRec : Option FaultRec := none
  /-- What R589 keeps of register accesses. By master identity of R452: the offset of a 64-bit register's high half and the value latched
  by the read of its low half. By 64 × window + master: the half written last, its offset and value. -/
  latches : SMap (Option (Nat × Nat)) := []
  halves : SMap (Option (Nat × Nat)) := []
  /-- ARM_STAGING.FIRST, and ARM_CORE_TAG_n: CTX + 32 × SNAPVIEW, 0x10 where unlisted. -/
  stagingFirst : Nat := 0
  coreTags : SMap Nat := []
  /-- Power good of PB0 and PB1, and the tick of the first (R609). -/
  pb0 : Bool := false
  pb1 : Bool := false
  pbSince : Nat := 0
  /-- The second blade failed to come within 5 s. -/
  pbLate : Bool := false
  thermTrip : Bool := false
  /-- THERMAL_TRIP has been written since the last reset. -/
  tripped : Bool := false
  /-- The module's target address on the management segment, 0x60 + ADDR_SEL, where ADDR_SEL was read at power-up; 0 before (R612). -/
  smbAddr : Nat := 0
  /-- MCTP endpoint ID; 0 is none assigned. -/
  eid : Nat := 0
  deriving DecidableEq, Repr

/-- PLN_BOOT_STATUS.STAGE: that of the lowest row not yet complete (R541). -/
def Pln.stage (p : Pln) : Nat :=
  match p.boot with
  | [] => if p.ready then 6 else 0
  | x :: xs => xs.foldl (fun n y => min n y.stage) x.stage

end Sys2Proof.Machine
end

