-- ==== Sys2Proof/Machine/StatePwr.lean ====
section
/-! DEFINITION. The state of power, energy and admission (R508 to R536), and of the contexts (R29, R31, R520, R536). -/

namespace Sys2Proof.Machine

/-- A power domain D0 to D19 (R59, R63): STATE 0 Off, 1 Powering up, 2 On, 3 Draining. -/
structure Domain where
  st : Nat := 0
  /-- Energy account in µJ since reset (R535). -/
  energy : Nat := 0
  deriving DecidableEq, Repr

/-- A tile domain's rail (R535). -/
structure TDom where
  mode : Nat := 3
  point : Nat := 0
  forced : Nat := 0
  held : Bool := false
  /-- What holds releases: the temperature (R530), the module's input power (R531). -/
  heatHeld : Bool := false
  capHeld : Bool := false
  /-- The 100 µs interval in which FORCED last moved, and where it stood before: several causes of one interval move it once (R533). -/
  ivl : Option Nat := none
  base : Nat := 0
  railMv : Nat := 0
  /-- A thermal episode is open: THERMAL_THROTTLE has been written for it (R530). -/
  episode : Bool := false
  deriving DecidableEq, Repr

/-- The power block. -/
structure Pwr where
  domains : SMap Domain := []
  tdoms : SMap TDom := []
  ceilingW : Nat := 0x7D0
  reductions : Nat := 0
  vinMv : Nat := 0
  pinW : Nat := 0
  dieMax : Nat := 0
  dieSensor : Nat := 0
  hbmMax : Nat := 0
  hbmStack : Nat := 0
  /-- HBM stack episodes (R530), by stack. -/
  stackEpisode : SMap Bool := []
  /-- An episode of R531 is open: the average has not fallen below 0.97 of the ceiling since it exceeded it. -/
  capEpisode : Bool := false
  /-- Account of the firmware system context in µJ (R515). -/
  fwEnergy : Nat := 0
  /-- Owner of the sideband SMBus segment: 0 none, 1 cartridge management, 2 BMC telemetry; its context (R534). -/
  smbus : Nat := 0
  smbusCtx : Nat := 0x1F
  deriving DecidableEq, Repr

/-- How far an ADMIT has come (R576). -/
inductive AdmitSt where
  | none
  /-- The image and the job descriptor are being staged. -/
  | staging
  /-- Staged; the image checks are to run. -/
  | checking
  /-- Checked; the descriptor awaits admission. -/
  | awaiting
  /-- Admitted: Loading. -/
  | loading
  deriving DecidableEq, Repr

/-- One context's record: lifetime, job, resources, energy. -/
structure Ctx where
  st : CtxSt := .idle
  admitSt : AdmitSt := .none
  /-- The ADMIT command in progress: (function, command number). -/
  admitCmd : Option (Nat × Nat) := none
  /-- The staged job descriptor and image (bytes), and their lengths. -/
  desc : Memory := []
  descLen : Nat := 0
  image : Memory := []
  imageLen : Nat := 0
  /-- Bytes of descriptor and image already staged. -/
  stagedDesc : Nat := 0
  stagedImage : Nat := 0
  /-- The number that the descriptor took when it reached admission (R521), and the tick at which admission sent RESERVE (R415). -/
  arrived : Nat := 0
  reserveAt : Option Nat := none
  /-- Sync groups and queue descriptors granted, in image order. -/
  groups : List Nat := []
  queues : List Nat := []
  /-- SYU_CTX_CFG and SYU_CTX_MAP (R306). -/
  blocks : Nat := 0
  pblocks : SMap Nat := []
  watchLimit : Nat := 0
  timerOwned : Bool := false
  watchdogMs : Nat := 0x07D0
  wrapNear : Bool := false
  /-- The counter table is valid: from the move to Running to the first step of teardown (R285). -/
  tableValid : Bool := false
  /-- MEM_CTX_WIN and MEM_COW (R378). -/
  fmBase : Nat := 0
  fmFrames : Nat := 0
  cowD4 : Nat := 0
  cowD5 : Nat := 0
  /-- ARM_LOAD_STATUS (R587): state and code. -/
  loadStatus : Nat := 0
  /-- The job completed: every group is complete (R261), the cause of UNBIND (R395). -/
  complete : Bool := false
  /-- The record that ended the context, for a FAULTED completion (R447). -/
  ended : Option FaultRec := none
  /-- The SKIP_LIMIT record whose teardown waits for Order 7 of R213 (R215). -/
  afterDecide : Option FaultRec := none
  /-- TEARDOWN commands that wait for Idle (R446). -/
  teardownCmds : List (Nat × Nat) := []
  deriving DecidableEq, Repr

/-- The energy and deadline part of a context (R526, R529, R536). -/
structure CtxPwr where
  mode : Nat := 0
  pin : Bool := false
  windowLog2 : Nat := 0x0A
  request : Nat := 0
  estimated : Bool := false
  misses : Nat := 0
  ledger : Nat := 0
  lastNs : Nat := 0
  worstNs : Nat := 0
  deadline : Nat := 0
  energy : Nat := 0
  /-- S_ref and the device number of g_ref (R523, R583). -/
  sRef : Nat := 0
  gRef : Nat := 0
  /-- Ledger at the open of the window, and windows closed so far. -/
  windowOpen : Nat := 0
  windows : Nat := 0
  /-- Tick of the last job step's start. -/
  stepSince : Nat := 0
  /-- Misses of the open window and the worst excess, ns. -/
  winMisses : Nat := 0
  winExcess : Nat := 0
  /-- The context claimed its event timers (TIMER_WATCH), or ENERGY_METERED (R518). -/
  metered : Bool := false
  /-- P_c of admission in µW, for R525, as numerator and denominator. -/
  powerNum : Nat := 0
  powerDen : Nat := 1
  /-- Claims byte of the descriptor (R520). -/
  claims : Nat := 0
  deriving DecidableEq, Repr

end Sys2Proof.Machine
end

