-- ==== Sys2Proof/Machine/StateRas.lean ====
section
/-! DEFINITION. The state of the reliability block and of the Cast cartridge (R462 to R505). -/

namespace Sys2Proof.Machine

/-- An entry of an input log (R472). `again`: it belongs to an operation that a rerun issues again (R474). -/
inductive LogEnt where
  /-- A line written by another agent. -/
  | line (n data : Nat) (poison again : Bool)
  /-- A ticket becoming idle. -/
  | ticket (thread tk : Nat) (fill again : Bool)
  /-- A CREAD result: the operation's thread and index. -/
  | cread (thread opIndex line data : Nat)
  /-- A tile-gate decision: COMMIT (true) or SKIP, of a step. -/
  | decision (commit : Bool) (step : Nat)
  /-- The place of an entry of an operation that a rerun issues again: the entry that replaces it has the same key. -/
  | stale (kind : Nat) (key : Nat × Nat × Nat)
  deriving DecidableEq, Repr

/-- A sampled tile-superstep in the trace buffer (R469). -/
structure Sample where
  id : Nat
  /-- Its entry of the trace buffer (R468). -/
  entry : Nat
  tile : Nat
  ctx : Nat
  group : Nat
  superstep : Nat
  /-- The state image of R470. -/
  image : Tile
  log : List LogEnt
  /-- The digest of the sampled tile, once written. -/
  own : Option Nat
  /-- Pool tile of the shadow run, whether it has been loaded, and its digest. -/
  pool : Nat
  loaded : Bool
  poolDigest : Option Nat
  /-- Arbiter run: pool tile and digest. -/
  arbiter : Option Nat
  arbDigest : Option Nat
  /-- The two digests differed: an arbiter is wanted (R475). -/
  mismatch : Bool
  deriving DecidableEq, Repr

/-- An entry of the pending list (R479). -/
structure Retire where
  phys : Nat
  cause : Nat
  deriving DecidableEq, Repr

/-- The reliability block. -/
structure Ras where
  seed : Nat := 0
  pool : Nat := 0
  trace : Nat := 0
  margin : Nat := 0x1000
  sampled : Nat := 0
  missed : Nat := 0
  matched : Nat := 0
  mismatched : Nat := 0
  secdedRmn : Nat := 0
  transient : Nat := 0
  permanent : Nat := 0
  /-- RATE by context. -/
  rates : SMap Nat := []
  samples : List Sample := []
  retire : List Retire := []
  /-- Pool tiles removed by a strike (R476). -/
  removed : SMap Bool := []
  /-- Tile sets quarantined because a mark found the pending list full (R556). -/
  quarantine : SMap Bool := []
  deriving DecidableEq, Repr

/-- A cartridge command in progress (R499). -/
structure CrtCmd where
  op : Nat
  addr : Nat
  lba : Nat
  count : Nat
  ctx : Nat
  snap : Bool
  version : Nat
  /-- Lines read for a WRITE, with their poison marks. -/
  data : List (Nat × Bool)
  /-- The media has answered and the writes of a READ are on their way: STATUS and BLOCKS_DONE at their end. -/
  landed : Option (Nat × Nat)
  deriving DecidableEq, Repr

/-- The Cast cartridge interface (R502). -/
structure Crt where
  /-- 0 Absent, 1 Training, 2 Verifying, 3 Attached, 4 Read-only, 5 Refused. -/
  st : Nat := 0
  format : Nat := 0
  mediaFormats : Nat := 0
  ident : Nat := 0
  writtenGb : Nat := 0
  permille : Nat := 0
  blocks : Nat := 0
  cmdAddr : Nat := 0
  cmdLba : Nat := 0
  cmd : Nat := 0
  status : Nat := 0
  reason : Nat := 0
  done : Nat := 0
  busy : Option CrtCmd := none
  /-- Names the content that the medium had at its attach, an open value: an argument of `Config.mediaByte`. -/
  medium : Nat := 0
  /-- Blocks that this device has written since, and their bytes by media address. -/
  written : SMap Bool := []
  media : Memory := []
  /-- Lines of those blocks that were written poisoned, by media line (R360). -/
  marks : SMap Bool := []
  /-- CARTRIDGE_WEAR records written in this attach: 0, 1 (at 900) or 2 (at 1,000) (R500). -/
  wearSeen : Nat := 0
  /-- Tick at which the attach began (R496). -/
  since : Nat := 0
  deriving DecidableEq, Repr

end Sys2Proof.Machine
end

