-- ==== Sys2Proof/Machine/State.lean ====
section
/-! DEFINITION. The state of the block, the reasons a step can stop, and the state after reset. Everything is plain data;
the parts are declared in the files State<Block>.lean beside this one. -/

namespace Sys2Proof.Machine

/-- Why a command stops the machine. -/
inductive Fault where
  /-- The command's operands lie outside the ranges that name a place of the block (`Instr.wf`): raised by every meaning
  before anything else. Safe: the hardware has no such command. -/
  | illFormed
  deriving DecidableEq, Repr

/-- Why a command has no meaning. -/
inductive Refusal where
  /-- The command is not modelled: raised by no meaning, only by an arm of `exec` that has none yet. Safe. -/
  | notModelled (mnemonic : String)
  deriving DecidableEq, Repr

/-- What leaves the block towards the outside: the host, the peers, the BMC, the cartridge, the chassis, a core. -/
inductive OutMsg where
  /-- A posted memory write of function `fn`: `bytes` bytes of `data` at host address `addr` (R432), with the EP mark (R434). -/
  | hostWrite (fn addr bytes data : Nat) (ep : Bool)
  /-- A host read request; its completion comes as HOST_READ_COMPLETION. -/
  | hostRead (id fn addr bytes : Nat)
  /-- MSI-X vector `vec` of function `fn` (R450). -/
  | msix (fn vec : Nat)
  /-- A packet handed to port `port` (R384, R385). -/
  | link (port : Nat) (pkt : LPkt)
  /-- A flit of 288 bytes leaves port `port` (R384). -/
  | flit (port flit : Nat)
  /-- A management or DIGEST body: its kind and its fields, in the order of the table that defines it. -/
  | linkCtl (port kind : Nat) (fields : List Nat)
  /-- A PlatformEventMessage to the BMC (R615). -/
  | platformEvent (classes : Nat)
  /-- MBX_DELIVER to the BMC (R614). -/
  | mbxDeliver (len data : Nat)
  /-- The value that answers a register read, or the response to a vendor-defined request, by master identity (R452). -/
  | reply (master value : Nat)
  /-- What a load of core `core` returns (R580). -/
  | coreValue (core value : Nat)
  /-- A trap of core `core` (R580, R581, R484). -/
  | coreTrap (core : Nat)
  /-- The error completion that answers an MCTP request which the firmware that runs does not support (R613); no number is given for it. -/
  | errorCompletion
  /-- A whole-module stop signal of R605: THERM_TRIP# asserted. -/
  | thermTrip
  deriving DecidableEq, Repr

/-- The state of the block. -/
structure State where
  /-- The commands that are waiting, first in first out. -/
  pending : List Instr
  /-- Ticks of the 100 MHz reference since power-up. -/
  now : Nat
  /-- The number that the next item in flight takes: numbers rise in order of injection (R51). -/
  nextId : Nat
  /-- The model's own: how many free values have been drawn. -/
  freeCtr : Nat
  /-- What has left the block, newest first. -/
  outbox : List OutMsg
  tiles : SMap Tile
  tsets : SMap TSet
  groups : SMap Group
  ctxs : SMap Ctx
  ctxPwr : SMap CtxPwr
  tels : SMap Tel
  telItems : List TelItem
  xsends : List XSend
  syu : Syu
  rmn : Rmn
  hbm : Hbm
  lnk : Lnk
  hif : Hif
  mbx : Mbx
  ras : Ras
  crt : Crt
  pwr : Pwr
  pln : Pln
  deriving DecidableEq, Repr

/-- The B0 limits of R510, Msteps/s, by 5 × mode + point. DESIGN CHOICE: the part's own table is in its fuses. -/
def b0Rates : SMap Nat :=
  [(0, 1380), (1, 1330), (2, 1280), (3, 1230), (4, 1180), (5, 1840), (6, 1800), (7, 1760), (8, 1720), (9, 1680),
   (10, 2100), (11, 2060), (12, 2020), (13, 1980), (14, 1940)]

/-- The B0 limits of R514 in fJ (classes 0–8) and mW (9, 10), by 11 × mode + class. DESIGN CHOICE, as `b0Rates`. -/
def b0Events : SMap Nat :=
  [(0, 4400), (1, 51000), (2, 10000), (3, 4800), (4, 6000), (5, 6600), (6, 22000), (7, 1100000), (8, 600000), (9, 1200),
   (10, 2040),
   (11, 6000), (12, 70000), (13, 14000), (14, 6600), (15, 8300), (16, 9000), (17, 30000), (18, 1100000), (19, 600000),
   (20, 2000), (21, 2130),
   (22, 7500), (23, 87000), (24, 17000), (25, 8200), (26, 10200), (27, 11200), (28, 37000), (29, 1100000), (30, 600000),
   (31, 2900), (32, 2210)]

/-- Generation 0 at manufacture leaves 32 sites of each domain unselected (R23). DESIGN CHOICE: rows 60 to 63. -/
def resetUnselected : SMap Bool := (List.range 384).map fun i => (5760 + i, true)

/-- The part's fuses and flash at reset: a ZH5760-S of stepping B0 with nothing used yet. DESIGN CHOICE. -/
def resetPln : Pln :=
  { fuses := { rates := b0Rates, events := b0Events, unselected := resetUnselected } }

/-- Channels 0 to 5 of the Channel Binding Table, fixed in ROM (R453). -/
def romChannels : SMap Channel :=
  [(0, { sender := 2, receiver := 1 }), (1, { sender := 1, receiver := 2 }), (2, { sender := 3, receiver := 1 }),
   (3, { sender := 1, receiver := 3 }), (4, { sender := 0x10, receiver := 1 }), (5, { sender := 1, receiver := 0x10 })]

/-- The machine right after reset: D0 is On and every other domain Off (R63), every register at its reset value, nothing
admitted, nothing in flight; neither blade has reported power good yet. -/
def State.reset : State :=
  { pending := [], now := 0, nextId := 1, freeCtr := 0, outbox := [], tiles := [], tsets := [], groups := [], ctxs := [],
    ctxPwr := [], tels := [], telItems := [], xsends := [], syu := {}, rmn := {}, hbm := {}, lnk := {}, hif := {},
    mbx := { channels := romChannels }, ras := {}, crt := {}, pwr := { domains := [(0, { st := 2 })] }, pln := resetPln }

end Sys2Proof.Machine
end

