-- ==== Sys2Proof/WellFormed.lean ====
section
/-! DEFINITION. Which commands are well formed: every operand names a place that the block has (R7, R37, R65), and the word
of a tile operation is one that its row of the opcode table stands for (R74, R155, R318). -/

namespace Sys2Proof

/-- The word has this class and OP (R68). -/
def isOp (cls op : Nat) (w : BitVec 128) : Bool :=
  decide (w.toNat % 16 = cls) && decide (w.toNat / 16 % 256 = op)

/-- The word has a reserved class or an OP that its class does not list: the row NOP takes it, to refuse it (R72). -/
def noOp (w : BitVec 128) : Bool :=
  let op := w.toNat / 16 % 256
  match w.toNat % 16 with
  | 0 => decide (6 ≤ op) | 1 => decide (5 ≤ op) | 2 => decide (6 ≤ op) | 3 => decide (4 ≤ op) | 4 => decide (6 ≤ op)
  | 5 => decide (9 ≤ op) | 6 => decide (1 ≤ op) | 7 => decide (4 ≤ op) | 8 => decide (3 ≤ op) | _ => true

/-- FMT of the word, and its two low bits, which name the function of VNORM (R155). -/
def fmt4 (w : BitVec 128) : Nat := w.toNat / 2 ^ 28 % 16
def fn2 (w : BitVec 128) : Nat := fmt4 w % 4

/-- The command is well formed. -/
def Instr.wf : Instr → Bool
  | .nop tile thread w => decide (tile < 5760) && decide (thread < 4) && (isOp 0 0 w || noOp w)
  | .setk tile thread w => decide (tile < 5760) && decide (thread < 4) && (isOp 0 1 w)
  | .ldk tile thread w => decide (tile < 5760) && decide (thread < 4) && (isOp 0 2 w)
  | .loop tile thread w => decide (tile < 5760) && decide (thread < 4) && (isOp 0 3 w)
  | .tbar tile thread w => decide (tile < 5760) && decide (thread < 4) && (isOp 0 4 w)
  | .halt tile thread w => decide (tile < 5760) && decide (thread < 4) && (isOp 0 5 w)
  | .pseti tile thread w => decide (tile < 5760) && decide (thread < 4) && (isOp 1 0 w)
  | .psetk tile thread w => decide (tile < 5760) && decide (thread < 4) && (isOp 1 1 w)
  | .psetm tile thread w => decide (tile < 5760) && decide (thread < 4) && (isOp 1 2 w)
  | .plog tile thread w => decide (tile < 5760) && decide (thread < 4) && (isOp 1 3 w)
  | .pstat tile thread w => decide (tile < 5760) && decide (thread < 4) && (isOp 1 4 w)
  | .ali tile thread w => decide (tile < 5760) && decide (thread < 4) && (isOp 2 0 w)
  | .aadd tile thread w => decide (tile < 5760) && decide (thread < 4) && (isOp 2 1 w)
  | .aaddk tile thread w => decide (tile < 5760) && decide (thread < 4) && (isOp 2 2 w)
  | .lda tile thread w => decide (tile < 5760) && decide (thread < 4) && (isOp 2 3 w)
  | .sta tile thread w => decide (tile < 5760) && decide (thread < 4) && (isOp 2 4 w)
  | .stk tile thread w => decide (tile < 5760) && decide (thread < 4) && (isOp 2 5 w)
  | .movl tile thread w => decide (tile < 5760) && decide (thread < 4) && (isOp 3 0 w)
  | .zero tile thread w => decide (tile < 5760) && decide (thread < 4) && (isOp 3 1 w)
  | .hrd tile thread w => decide (tile < 5760) && decide (thread < 4) && (isOp 3 2 w)
  | .hwr tile thread w => decide (tile < 5760) && decide (thread < 4) && (isOp 3 3 w)
  | .mzero tile thread w => decide (tile < 5760) && decide (thread < 4) && (isOp 4 0 w)
  | .mma tile thread w => decide (tile < 5760) && decide (thread < 4) && (isOp 4 1 w)
  | .msf64 tile thread w => decide (tile < 5760) && decide (thread < 4) && (isOp 4 2 w)
  | .mrd tile thread w => decide (tile < 5760) && decide (thread < 4) && (isOp 4 3 w)
  | .msave tile thread w => decide (tile < 5760) && decide (thread < 4) && (isOp 4 4 w)
  | .mrestore tile thread w => decide (tile < 5760) && decide (thread < 4) && (isOp 4 5 w)
  | .vew tile thread w => decide (tile < 5760) && decide (thread < 4) && (isOp 5 0 w)
  | .vfma tile thread w => decide (tile < 5760) && decide (thread < 4) && (isOp 5 1 w)
  | .vcvt tile thread w => decide (tile < 5760) && decide (thread < 4) && (isOp 5 2 w)
  | .vred tile thread w => decide (tile < 5760) && decide (thread < 4) && (isOp 5 3 w)
  | .vnormAcc tile thread w => decide (tile < 5760) && decide (thread < 4) && (isOp 5 4 w && (decide (fn2 w = 0) || decide (fn2 w = 3)))
  | .vnormRead tile thread w => decide (tile < 5760) && decide (thread < 4) && (isOp 5 4 w && decide (fn2 w = 1))
  | .vnormClear tile thread w => decide (tile < 5760) && decide (thread < 4) && (isOp 5 4 w && decide (fn2 w = 2))
  | .vopt tile thread w => decide (tile < 5760) && decide (thread < 4) && (isOp 5 5 w)
  | .vgrn tile thread w => decide (tile < 5760) && decide (thread < 4) && (isOp 5 6 w)
  | .vocl tile thread w => decide (tile < 5760) && decide (thread < 4) && (isOp 5 7 w)
  | .vocs tile thread w => decide (tile < 5760) && decide (thread < 4) && (isOp 5 8 w)
  | .expt tile thread w => decide (tile < 5760) && decide (thread < 4) && (isOp 6 0 w)
  | .mopenConnect tile thread w => decide (tile < 5760) && decide (thread < 4) && (isOp 7 0 w && decide (fmt4 w ≠ 1))
  | .mopenListen tile thread w => decide (tile < 5760) && decide (thread < 4) && (isOp 7 0 w && decide (fmt4 w = 1))
  | .msend tile thread w => decide (tile < 5760) && decide (thread < 4) && (isOp 7 1 w)
  | .mpop tile thread w => decide (tile < 5760) && decide (thread < 4) && (isOp 7 2 w)
  | .mcloseRelease tile thread w => decide (tile < 5760) && decide (thread < 4) && (isOp 7 3 w && decide (fmt4 w ≠ 1))
  | .mcloseClose tile thread w => decide (tile < 5760) && decide (thread < 4) && (isOp 7 3 w && decide (fmt4 w = 1))
  | .cinc tile thread w => decide (tile < 5760) && decide (thread < 4) && (isOp 8 0 w)
  | .cwatch tile thread w => decide (tile < 5760) && decide (thread < 4) && (isOp 8 1 w)
  | .cread tile thread w => decide (tile < 5760) && decide (thread < 4) && (isOp 8 2 w)
  | .exchangeRequest _ => true
  | .exchangeGrant _ => true
  | .exchangeDataArrival _ _ => true
  | .exchangeReceipt _ => true
  | .exchangeShort tile entry => decide (tile < 5760) && decide (entry < 65536)
  | .tileSignal tile => decide (tile < 5760)
  | .synchronisationComplete group => decide (group < 64)
  | .superstepRerun tile => decide (tile < 5760)
  | .readDataArrival _ _ => true
  | .mopenReply _ => true
  | .msendReply _ => true
  | .watchNotification _ => true
  | .incrementArrival _ => true
  | .updateWindow counter => decide (counter < 262144)
  | .watchTimeout tile _ => decide (tile < 5760)
  | .managementWatchTimeout slot => decide (slot < 65536)
  | .deadlockWatchdog slot => decide (slot < 65536)
  | .managementWatchRegistration bank _ => decide (bank < 17)
  | .connectRequest _ => true
  | .messageHead _ => true
  | .messagePlaced _ _ => true
  | .queueReleaseArrival _ => true
  | .queueReset bank => decide (bank < 18)
  | .queueHold bank _ => decide (bank < 18)
  | .rmnQRelease core _ => decide (core < 16)
  | .sliceAccess _ _ => true
  | .cowCopyComplete entry => decide (entry < 16777216)
  | .hbmWriteAccept _ _ => true
  | .writeAcknowledgement _ => true
  | .hbmReadReturn _ => true
  | .errorCheckAndScrub _ => true
  | .map set _ => decide (set < 2)
  | .unmap set _ => decide (set < 2)
  | .setperm set _ => decide (set < 2)
  | .snapshot set _ => decide (set < 2)
  | .releaseSnapshot set _ => decide (set < 2)
  | .clearPoison set _ => decide (set < 2)
  | .frameMapCommandComplete set => decide (set < 2)
  | .frameZeroed frame _ => decide (frame < 16777216)
  | .hbmDomainDown domain => decide (domain < 2)
  | .hbmDomainFence domain => decide (domain < 2)
  | .hbmDomainUp domain => decide (domain < 2)
  | .hbmDomainOn domain => decide (domain < 2)
  | .dmaCopy engine queue => decide (engine < 16) && decide (queue < 32768)
  | .dmaFill engine queue => decide (engine < 16) && decide (queue < 32768)
  | .dmaDescriptorComplete _ => true
  | .pwinWriteArrival port => decide (port < 7)
  | .pwinWriteUnacked _ => true
  | .flitReceive port _ _ => decide (port < 7)
  | .replayLimit port => decide (port < 7)
  | .laneLockLoss port => decide (port < 7)
  | .linkSilence port => decide (port < 7)
  | .portEnable port => decide (port < 7)
  | .portDisable port => decide (port < 7)
  | .retrain port => decide (port < 7)
  | .trainingComplete port _ => decide (port < 7)
  | .trainingTimeout port => decide (port < 7)
  | .ability port _ _ _ _ _ => decide (port < 7)
  | .bind port ctx peerCtx _ _ => decide (port < 7) && decide (ctx < 16) && decide (peerCtx < 16)
  | .unbind port peerCtx _ _ => decide (port < 7) && decide (peerCtx < 16)
  | .reserve port _ _ _ => decide (port < 7)
  | .suspend port window => decide (port < 7) && decide (window < 2)
  | .suspended port window => decide (port < 7) && decide (window < 2)
  | .resume port window => decide (port < 7) && decide (window < 2)
  | .bindTimeout port ctx => decide (port < 7) && decide (ctx < 16)
  | .reserveTimeout port ctx => decide (port < 7) && decide (ctx < 16)
  | .remotePacketReceive port => decide (port < 7)
  | .nakReceive port => decide (port < 7)
  | .collectiveExpmax unit queue => decide (unit < 7) && decide (queue < 32768)
  | .collectiveEncode unit queue => decide (unit < 7) && decide (queue < 32768)
  | .collectiveAdd unit queue => decide (unit < 7) && decide (queue < 32768)
  | .collectiveDecode unit queue => decide (unit < 7) && decide (queue < 32768)
  | .collectiveDigest unit queue => decide (unit < 7) && decide (queue < 32768)
  | .collectiveDescriptorComplete _ => true
  | .digestReceive peerCtx _ _ _ _ _ _ => decide (peerCtx < 16)
  | .gateDecision ctx => decide (ctx < 16)
  | .patinaCountsReceive _ => true
  | .calipersReport _ => true
  | .telRingTailWrite _ ctx _ => decide (ctx < 16)
  | .doorbell fn ring _ => decide (fn < 17) && decide (ring < 3)
  | .hostNop fn => decide (fn < 17)
  | .hostAdmit fn => decide (fn < 17)
  | .dma fn => decide (fn < 17)
  | .signal fn => decide (fn < 17)
  | .watch fn => decide (fn < 17)
  | .teardown fn => decide (fn < 17)
  | .fence fn => decide (fn < 17)
  | .ringEnable fn ring _ => decide (fn < 17) && decide (ring < 3)
  | .ringReset fn ring => decide (fn < 17) && decide (ring < 3)
  | .irqDelayExpiry fn vec => decide (fn < 17) && decide (vec < 2)
  | .functionLevelReset fn => decide (fn < 17)
  | .vfEnableClear => true
  | .d3hotToD0 fn => decide (fn < 17)
  | .mailboxSend _ chan _ => decide (chan < 64)
  | .mailboxAck _ chan => decide (chan < 64)
  | .mailboxTimeout chan => decide (chan < 64)
  | .imageChecks ctx => decide (ctx < 16)
  | .admission ctx => decide (ctx < 16)
  | .loadingComplete ctx => decide (ctx < 16)
  | .teardownComplete ctx => decide (ctx < 16)
  | .shadowLoad _ pool => decide (pool < 5760)
  | .digestCompare _ => true
  | .arbiterRun _ pool => decide (pool < 5760)
  | .armatureCounterStore core _ _ => decide (core < 16)
  | .armatureCoreLoad core _ bytes => decide (core < 16) && decide (1 ≤ bytes) && decide (bytes < 65)
  | .cartridgeAttach _ => true
  | .cartridgeDetached => true
  | .crtRead _ => true
  | .crtWrite _ => true
  | .crtFormat _ => true
  | .cartridgeCommandComplete _ _ => true
  | .ledgerInterval _ => true
  | .energyWindowClose ctx => decide (ctx < 16)
  | .sensorPoll _ => true
  | .powerCap _ => true
  | .inputVoltage blade _ => decide (blade < 2)
  | .railFault domain _ => decide (domain < 20)
  | .plinthLockstep _ => true
  | .coldBoot _ => true
  | .warmBoot _ => true
  | .secondBladeTimeout => true
  | .perstAssert => true
  | .hotReset => true
  | .dlDown => true
  | .plnResetGo _ => true
  | .reset _ _ => true
  | .reduceCeiling _ _ _ => true
  | .advanceFirmwareFloor _ _ _ => true
  | .advanceVerjoFloor _ _ _ => true
  | .pllLockLoss _ _ => true
  | .serdesRefclkLoss => true
  | .frqEnable _ => true
  | .frqSelect _ _ => true
  | .alertStatusClear _ _ => true
  | .mbxSend _ _ => true
  | .mbxDeliver => true
  | .regRead _ => true
  | .regWrite _ _ => true
  | .setEndpointId _ => true
  | .activateFirmware => true
  | .smbusSegmentRequest _ => true
  | .registerWrite _ core _ _ _ => decide (core < 16)
  | .hostReadCompletion _ _ _ _ => true
  | .completionTimeout _ => true
  | .creadResult _ => true
  | .linkSignalDetect port => decide (port < 7)
  | .cartridgeAttachTimeout => true
  | .armatureCoreStore core _ bytes _ => decide (core < 16) && decide (1 ≤ bytes) && decide (bytes < 65)
  | .busMasterEnable fn _ => decide (fn < 17)
  | .d0ToD3hot fn => decide (fn < 17)
  | .domainPowerDown domain => decide (domain < 20)
  | .bladePowerGood blade => decide (blade < 2)
  | .powerRemoved => true
  | .firmwareUpdate _ => true
  | .dlUp _ _ _ => true

end Sys2Proof
end

