-- ==== Sys2Proof/Machine/Base.lean ====
section
/-! DEFINITION. Reading and updating the parts of the state, numbering of items in flight, ownership of tiles (R28, R36),
and the tile map (R22 to R25). -/

namespace Sys2Proof.Machine

/-! ### Parts of the state -/

def State.tile (s : State) (t : Nat) : Tile := mget {} s.tiles t
def State.setTile (s : State) (t : Nat) (v : Tile) : State := { s with tiles := mset {} s.tiles t v }
def State.modTile (s : State) (t : Nat) (f : Tile → Tile) : State := s.setTile t (f (s.tile t))
def Tile.thread (t : Tile) (n : Nat) : Thread := mget {} t.threads n
def Tile.setThread (t : Tile) (n : Nat) (v : Thread) : Tile := { t with threads := mset {} t.threads n v }
def Tile.modThread (t : Tile) (n : Nat) (f : Thread → Thread) : Tile := t.setThread n (f (t.thread n))
def State.tset (s : State) (n : Nat) : TSet := mget {} s.tsets n
def State.setTset (s : State) (n : Nat) (v : TSet) : State := { s with tsets := mset {} s.tsets n v }
def State.group (s : State) (g : Nat) : Group := mget {} s.groups g
def State.setGroup (s : State) (g : Nat) (v : Group) : State := { s with groups := mset {} s.groups g v }
def State.ctx (s : State) (c : Nat) : Ctx := mget {} s.ctxs c
def State.setCtx (s : State) (c : Nat) (v : Ctx) : State := { s with ctxs := mset {} s.ctxs c v }
def State.modCtx (s : State) (c : Nat) (f : Ctx → Ctx) : State := s.setCtx c (f (s.ctx c))
def State.cp (s : State) (c : Nat) : CtxPwr := mget {} s.ctxPwr c
def State.setCp (s : State) (c : Nat) (v : CtxPwr) : State := { s with ctxPwr := mset {} s.ctxPwr c v }
def State.tel (s : State) (c : Nat) : Tel := mget {} s.tels c
def State.setTel (s : State) (c : Nat) (v : Tel) : State := { s with tels := mset {} s.tels c v }
def State.queue (s : State) (q : Nat) : Queue := mget {} s.rmn.queues q
def State.setQueue (s : State) (q : Nat) (v : Queue) : State :=
  { s with rmn := { s.rmn with queues := mset {} s.rmn.queues q v } }
def State.fn (s : State) (f : Nat) : Fn := mget {} s.hif.fns f
def State.setFn (s : State) (f : Nat) (v : Fn) : State := { s with hif := { s.hif with fns := mset {} s.hif.fns f v } }
def State.port (s : State) (k : Nat) : Port := mget {} s.lnk.ports k
def State.setPort (s : State) (k : Nat) (v : Port) : State :=
  { s with lnk := { s.lnk with ports := mset {} s.lnk.ports k v } }
def State.modPort (s : State) (k : Nat) (f : Port → Port) : State := s.setPort k (f (s.port k))
def State.binding (s : State) (k c : Nat) : Binding := mget {} s.lnk.binds (16 * k + c)
def State.setBinding (s : State) (k c : Nat) (v : Binding) : State :=
  { s with lnk := { s.lnk with binds := mset {} s.lnk.binds (16 * k + c) v } }
def State.dom (s : State) (d : Nat) : Domain := mget {} s.pwr.domains d
def State.setDom (s : State) (d : Nat) (v : Domain) : State :=
  { s with pwr := { s.pwr with domains := mset {} s.pwr.domains d v } }
def State.tdom (s : State) (k : Nat) : TDom := mget {} s.pwr.tdoms k
def State.setTdom (s : State) (k : Nat) (v : TDom) : State :=
  { s with pwr := { s.pwr with tdoms := mset {} s.pwr.tdoms k v } }
def State.chan (s : State) (n : Nat) : Channel := mget {} s.mbx.channels n
def State.setChan (s : State) (n : Nat) (v : Channel) : State :=
  { s with mbx := { s.mbx with channels := mset {} s.mbx.channels n v } }

/-- The block that a command leaves behind when it cannot happen in the present state: the state as it was. DESIGN CHOICE. -/
def turnedAway (s : State) : Host.Outcome State Fault Refusal := .next s

/-- A meaning that runs for well-formed commands only. -/
def guardWf (i : Instr) (k : Host.Outcome State Fault Refusal) : Host.Outcome State Fault Refusal :=
  if i.wf then k else .fault .illFormed

/-- A command that has its effect when it can happen, and is turned away otherwise. -/
def whenever (i : Instr) (can : Bool) (s t : State) : Host.Outcome State Fault Refusal :=
  guardWf i (if can then .next t else turnedAway s)

/-- What the block does while no command waits: the 100 MHz reference ticks once. DESIGN CHOICE. -/
def State.tick (s : State) : State := { s with now := s.now + 1 }

/-- The next free value, and the state that has drawn it. -/
def State.freeValue (s : State) : Nat := Config.free s.freeCtr
def State.drawn (s : State) (n : Nat) : State := { s with freeCtr := s.freeCtr + n }

/-- A message leaves the block. -/
def State.out (s : State) (m : OutMsg) : State := { s with outbox := m :: s.outbox }

/-- A domain is On (R63). -/
def State.isOn (s : State) (d : Nat) : Bool := decide ((s.dom d).st = 2)

/-- The BAR windows and the configuration space claim a host's access (R544), but for those of a function in a function-level reset (R451
Order 1); every other master reaches the registers from inside. -/
def State.claims (s : State) (m : Nat) : Bool :=
  decide (m < 0x10) || (s.hif.configReady && s.hif.dlUp && s.isOn 2 && !(mget {} s.hif.fns (m - 0x10)).resetting)

/-- The window of an offset in BAR0 (R588): a block window, or 16 and more for the per-tile window of a site. -/
def windowOf (off : Nat) : Nat := if 2 ^ 24 ≤ off then 16 + (off - 2 ^ 24) / 0x1000 else off / 2 ^ 20

/-- Master `m` accesses the register at `off`: what R589 kept for it is dropped, of its reads and of the halves that it wrote in the window. -/
def State.access (s : State) (m off : Nat) : State :=
  { s with pln := { s.pln with latches := mset none s.pln.latches m none, halves := mset none s.pln.halves (64 * windowOf off + m) none } }

/-- Ticks of 10 ns in `us` microseconds and `ms` milliseconds of the 100 MHz reference (R610). -/
def ticksUs (us : Nat) : Nat := 100 * us
def ticksMs (ms : Nat) : Nat := 100000 * ms

/-! ### Global addresses (R37) -/

def gSpace (a : Nat) : Nat := bits a 52 4
def gFrame (a : Nat) : Nat := bits a 16 24
def gTile (a : Nat) : Nat := bits a 21 13
def gOff (a : Nat) : Nat := bits a 0 21
def gPort (a : Nat) : Nat := bits a 48 4
def gPeerSpace (a : Nat) : Nat := bits a 44 4
def gVid (a : Nat) : Nat := bits a 3 16

/-! ### Owners -/

/-- The tile set of a logical tile (R28). -/
def tsetOf (t : Nat) : Nat := t / 48

/-- The tile domain, 0 to 11, of a logical tile (R23). -/
def tdomOf (t : Nat) : Nat := t / 480

/-- Tile sets owned by context `c`, ascending. -/
def State.tsetsOf (s : State) (c : Nat) : List Nat := below 120 fun n => decide ((s.tset n).owner = c)

/-- Logical tiles of a list of tile sets. -/
def tilesOf (sets : List Nat) : List Nat := sets.flatMap fun n => (List.range 48).map fun j => 48 * n + j

/-- Logical tiles of context `c`, ascending. -/
def State.ctxTiles (s : State) (c : Nat) : List Nat := tilesOf (s.tsetsOf c)

/-- Logical tiles of sync group `g`, ascending. -/
def State.groupTiles (s : State) (g : Nat) : List Nat :=
  tilesOf (below 120 fun n => decide ((s.tset n).owner < 16) && decide ((s.tset n).group = g))

/-- The sample whose shadow run a pool tile executes (R471). -/
def State.shadowOf (s : State) (t : Nat) : Option Sample :=
  match (s.tile t).shadow with
  | none => none
  | some i => s.ras.samples.find? fun x => decide (x.id = i)

/-- The context for which a tile runs: the owner of its tile set, or the sampled context on a pool tile. -/
def State.tileCtx (s : State) (t : Nat) : Nat :=
  match s.shadowOf t with
  | some x => x.ctx
  | none => (s.tset (tsetOf t)).owner

/-- The tile runs operations: its tile set is Running, or it executes a shadow run. TIL_THREAD_n.STATE (R110) shows Idle where it does
not, so also on an idle pool tile and after DEVICE_FATAL, while the tile set still reads Running (DESIGN CHOICE, log entry 166). -/
def State.tileRuns (s : State) (t : Nat) : Bool :=
  !s.pln.fatal && ((decide ((s.tset (tsetOf t)).st = .running) && decide ((s.tset (tsetOf t)).owner < 16))
    || (s.tile t).shadow.isSome)

/-- The superstep in progress on a tile (R49, R114); none is on a pool tile between shadow runs. A tile that finishes its fill operation
in hand is still in the superstep before the one that is released (R47, R49). -/
def State.superstepOf (s : State) (t : Nat) : Nat :=
  match s.shadowOf t with
  | some x => x.superstep
  | none =>
    if (s.tset (tsetOf t)).st = .running && decide ((s.tset (tsetOf t)).owner < 16) then
      (s.group (s.tset (tsetOf t)).group).superstep - b2n (s.tile t).rerun.late
    else 0

/-- Every counter of the blocks that `mine` names is written with 0, so an error that its storage held is gone (R278, R303 Order 5). -/
def Syu.clearBlocks (y : Syu) (mine : Nat → Bool) : Syu :=
  { y with counters := mdrop (fun p => mine (p / 256)) y.counters, wrapSeen := mdrop (fun p => mine (p / 256)) y.wrapSeen
           badCounters := mdrop (fun p => mine (p / 256)) y.badCounters }

/-- The context is Loading or Running. -/
def State.live (s : State) (c : Nat) : Bool := decide ((s.ctx c).st = .loading) || decide ((s.ctx c).st = .running)

/-- The context is Loading or Running, or is the firmware system context. -/
def State.usable (s : State) (c : Nat) : Bool := if c < 16 then s.live c else decide (c = 16) && (s.ctx 16).tableValid

/-! ### The tile map -/

/-- The `j`-th site of tile domain `k`, ascending physical tile index (R22, R23). -/
def siteOfDomain (k j : Nat) : Nat := (j / 8) * 96 + 8 * k + j % 8

/-- Tile domain of a site. -/
def domainOfSite (p : Nat) : Nat := (p % 96) / 8

/-- Index of a site within its domain, ascending. -/
def indexInDomain (p : Nat) : Nat := (p / 96) * 8 + p % 8

/-- The site is selected as a logical tile by generation 0. -/
def Pln.selected (p : Pln) (site : Nat) : Bool := !mget false p.fuses.unselected site

/-- The `n`-th of the sites `l` that generation 0 selects. -/
def Pln.nthSelected (p : Pln) : List Nat → Nat → Nat
  | [], _ => 0
  | x :: l, n => if p.selected x then (match n with | 0 => x | m + 1 => p.nthSelected l m) else p.nthSelected l n

/-- Site of a logical tile in generation 0 (R24). -/
def Pln.gen0Site (p : Pln) (t : Nat) : Nat :=
  p.nthSelected ((List.range 512).map (siteOfDomain (tdomOf t))) (t % 480)

/-- Site of a logical tile in the generation in force. -/
def Pln.siteOf (p : Pln) (t : Nat) : Nat :=
  match mget 0 p.moved t with
  | 0 => p.gen0Site t
  | m + 1 => m

/-- The logical tile at a site, if it is no spare. -/
def Pln.logicalAt (p : Pln) (site : Nat) : Option Nat :=
  match p.moved.find? fun kv => decide (kv.2 = site + 1) with
  | some kv => some kv.1
  | none =>
    if p.selected site then
      let k := domainOfSite site
      let n := ((List.range (indexInDomain site)).filter fun j => p.selected (siteOfDomain k j)).length
      let t := 480 * k + n
      if n < 480 && decide (mget 0 p.moved t = 0) then some t else none
    else none

/-- Generation of the tile map in force. -/
def Pln.generation (p : Pln) : Nat := p.fuses.gens.length

end Sys2Proof.Machine
end

