-- ==== Sys2Proof/Machine/Crc.lean ====
section
/-! DEFINITION. The CRC-64 of R384: polynomial 0x42F0_E1EB_A9EA_3693 with reflected input and output, initial value all
ones, result inverted. -/

namespace Sys2Proof.Machine

/-- One bit of the reflected remainder. -/
def crcBit (r : Nat) : Nat := if r % 2 = 1 then (r / 2) ^^^ 0xC96C5795D7870F42 else r / 2

/-- One byte into the remainder. -/
def crcByte (r b : Nat) : Nat := (fun x => crcBit (crcBit (crcBit (crcBit (crcBit (crcBit (crcBit (crcBit x)))))))) (r ^^^ b % 256)

/-- The `n` first bytes of the blob `v` into the remainder. -/
def crcBytes (r v : Nat) : Nat → Nat
  | 0 => r
  | n + 1 => crcBytes (crcByte r v) (v / 256) n

/-- The initial remainder. -/
def crcInit : Nat := 0xFFFFFFFFFFFFFFFF

/-- The result of a remainder. -/
def crcOut (r : Nat) : Nat := r ^^^ 0xFFFFFFFFFFFFFFFF

/-- The CRC-64 of the `n` first bytes of `v`. -/
def crc64 (v n : Nat) : Nat := crcOut (crcBytes crcInit v n)

end Sys2Proof.Machine
end

