-- ==== Sys2Proof/Machine/Flags.lean ====
section
/-! DEFINITION. The four status flags of a thread (R65, R66): how an operation that defines a flag sets it, and reading one
(R74 PSTAT). A flag that an operation does not define keeps its value. -/

namespace Sys2Proof.Machine

/-- What an operation says of the flags: `none` for a flag that it does not define. -/
structure FlagSet where
  empty : Option Bool := none
  inexact : Option Bool := none
  saturated : Option Bool := none
  nonfinite : Option Bool := none
  deriving DecidableEq, Repr

/-- The flags after the operation (R66). -/
def Flags.apply (f : Flags) (u : FlagSet) : Flags :=
  { empty := u.empty.getD f.empty, inexact := u.inexact.getD f.inexact, saturated := u.saturated.getD f.saturated,
    nonfinite := u.nonfinite.getD f.nonfinite }

/-- Flag by number: 0 EMPTY, 1 INEXACT, 2 SATURATED, 3 NONFINITE (R74). -/
def Flags.get (f : Flags) (n : Nat) : Bool :=
  match n with
  | 0 => f.empty | 1 => f.inexact | 2 => f.saturated | _ => f.nonfinite

/-- The four flags as TIL_THREAD_n.STATUS shows them (R110). -/
def Flags.nibble (f : Flags) : Nat := b2n f.empty + 2 * b2n f.inexact + 4 * b2n f.saturated + 8 * b2n f.nonfinite

end Sys2Proof.Machine
end

