-- ==== Sys2Proof/Machine/Operands.lean ====
section
/-! DEFINITION. The fields of a tile operation word (R68), operand fields and effective addresses (R69 to R71), and the
encoding check of R72 and R622. A word is carried as a number. -/

namespace Sys2Proof.Machine

/-! ### Fields (R68) -/

def wCls (w : Nat) : Nat := bits w 0 4
def wOp (w : Nat) : Nat := bits w 4 8
def wPred (w : Nat) : Nat := bits w 12 3
def wPneg (w : Nat) : Bool := bit w 15
def wWait (w : Nat) : Nat := bits w 16 8
def wTkt (w : Nat) : Nat := bits w 24 3
def wTkten (w : Nat) : Bool := bit w 27
def wFmt (w : Nat) : Nat := bits w 28 4
def wOpd (w : Nat) : Nat := bits w 32 24
def wOpa (w : Nat) : Nat := bits w 56 24
def wOpb (w : Nat) : Nat := bits w 80 24
def wLen (w : Nat) : Nat := bits w 104 16
def wAux (w : Nat) : Nat := bits w 120 8

/-- The 24-bit immediate (AUX, LEN). -/
def wImm (w : Nat) : Nat := bits w 104 24

/-! ### Operand fields (R69) -/

def fReg (f : Nat) : Nat := bits f 0 4
def fMode (f : Nat) : Nat := bits f 4 2
def fDisp (f : Nat) : Int := sext 16 (bits f 8 16)

/-- The NONE form of R622. -/
def noneForm : Nat := 0x30

/-- The field is POSTINC. -/
def fPost (f : Nat) : Bool := decide (fMode f = 1)

/-- The effective address of a memory operand from the value of its base register (R70). -/
def effAddr (base f : Nat) : Nat := wrapInt 56 ((base : Int) + fDisp f * 64)

/-- How an operation uses an operand field. -/
inductive FieldForm where
  /-- Reserved: the NONE form. -/
  | none
  /-- A memory operand: DIRECT or POSTINC, reserved bits zero. -/
  | mem
  /-- A memory operand that may be NONE. -/
  | memOrNone
  /-- A memory operand on which POSTINC is not allowed, or NONE. -/
  | directOrNone
  /-- A register index field of `n` bits; the other bits are zero. -/
  | idx (n : Nat)
  /-- Part of an immediate: any value. -/
  | any
  /-- A field whose values the operation's own test has judged. -/
  | judged (ok : Bool)
  deriving DecidableEq, Repr

/-- The field holds a value that its use allows (R69, R71, R72, R622). -/
def FieldForm.ok (u : FieldForm) (f : Nat) : Bool :=
  match u with
  | .none => decide (f = noneForm)
  | .mem => decide (fMode f ≤ 1) && decide (bits f 6 2 = 0)
  | .memOrNone => (decide (fMode f ≤ 1) && decide (bits f 6 2 = 0)) || decide (f = noneForm)
  | .directOrNone => (decide (fMode f = 0) && decide (bits f 6 2 = 0)) || decide (f = noneForm)
  | .idx n => decide (f < 2 ^ n)
  | .any => true
  | .judged ok => ok

/-- The field names memory, so that MODE POSTINC of it counts for R71. -/
def FieldForm.isMem (u : FieldForm) : Bool :=
  match u with
  | .mem | .memOrNone | .directOrNone => true
  | _ => false

/-- The ticket rule of R74. -/
inductive TicketRule where
  | optional
  | required
  | notAllowed
  deriving DecidableEq, Repr

/-- What the encoding of an operation must meet beyond its class and OP. -/
structure Enc where
  /-- Reason 1 or 2 of R107 where the word names no operation. -/
  opcode : Option Nat := none
  tkt : TicketRule := .optional
  opd : FieldForm := .none
  opa : FieldForm := .none
  opb : FieldForm := .none
  /-- FMT, LEN and AUX hold values that the operation defines. -/
  fields : Bool := true
  /-- The operation may not be predicated (R72). -/
  always : Bool := false
  /-- LEN 0 is forbidden to it (reason 7). -/
  needLen : Bool := false
  deriving DecidableEq, Repr

/-- Two memory fields name one register with POSTINC (R71). -/
def twicePost (e : Enc) (w : Nat) : Bool :=
  let p (u : FieldForm) (f : Nat) : Bool := u.isMem && fPost f
  let d := p e.opd (wOpd w); let a := p e.opa (wOpa w); let b := p e.opb (wOpb w)
  (d && a && decide (fReg (wOpd w) = fReg (wOpa w))) || (d && b && decide (fReg (wOpd w) = fReg (wOpb w)))
    || (a && b && decide (fReg (wOpa w) = fReg (wOpb w)))

/-- The lowest reason of R107 for which the encoding is illegal, class and OP being listed (R72). -/
def encReason (e : Enc) (w : Nat) : Option Nat :=
  if e.opcode.isSome then e.opcode
  else if !(e.fields && e.opd.ok (wOpd w) && e.opa.ok (wOpa w) && e.opb.ok (wOpb w)) then some 3
  else if (decide (e.tkt = .required) && !wTkten w) || (decide (e.tkt = .notAllowed) && wTkten w) then some 4
  else if e.always && (decide (wPred w ≠ 0) || wPneg w) then some 5
  else if twicePost e w then some 6
  else if e.needLen && decide (wLen w = 0) then some 7
  else none

/-- How many OPs a class lists (R74, R318); 0 for a reserved class. -/
def opsOfClass (c : Nat) : Nat :=
  match c with
  | 0 => 6 | 1 => 5 | 2 => 6 | 3 => 4 | 4 => 6 | 5 => 9 | 6 => 1 | 7 => 4 | 8 => 3 | _ => 0

/-- The word names no operation: reason 1 for a reserved class, 2 for an OP not listed (R72). -/
def opcodeReason (w : Nat) : Option Nat :=
  if 9 ≤ wCls w then some 1 else if opsOfClass (wCls w) ≤ wOp w then some 2 else none

end Sys2Proof.Machine
end

