-- ==== Sys2Proof/Machine/Wire.lean ====
section
/-! DEFINITION. Stamps (R315, R392), and what leaves through a Verjo port: packets (R384, R385), answers (R396, R398) and
management bodies (R393), with the port that carries traffic naming another (R420). -/

namespace Sys2Proof.Machine

/-- The stamp clock of R315: the stamp of a packet injected now. -/
def State.stampNow (s : State) : Nat := s.now % 2 ^ 20

/-- The age of a packet that carries `stamp` (R315). -/
def State.ageOf (s : State) (stamp : Nat) : Nat := (s.now % 2 ^ 20 + 2 ^ 20 - stamp % 2 ^ 20) % 2 ^ 20

/-- AGE of a packet that leaves through port `k` (R385, R392). -/
def State.ageOut (s : State) (k stamp : Nat) : Nat := if (s.port k).version = 2 then s.ageOf stamp else 0

/-- The stamp that a packet with AGE `age` receives as it enters the mesh from port `k` (R392). -/
def State.stampIn (s : State) (k age : Nat) : Nat :=
  if (s.port k).version = 2 then (s.now % 2 ^ 20 + 2 ^ 20 - age % 2 ^ 20) % 2 ^ 20 else s.stampNow

/-- The port through which traffic that names port `k` leaves: W carries the wrap link of the Z ring (R420). -/
def Lnk.wire (l : Lnk) (k : Nat) : Nat :=
  let z := bits l.coord 16 8
  if bits l.wcfg 0 2 = 2 && ((decide (k = 5) && decide (z = 0)) || (decide (k = 4) && decide (z + 1 = bits l.coord 40 8))) then 6 else k

/-- The port that traffic arriving at `k` names (R420). -/
def Lnk.named (l : Lnk) (k : Nat) : Nat :=
  if k = 6 && decide (bits l.wcfg 0 2 = 2) then (if bits l.coord 16 8 = 0 then 5 else 4) else k

/-- W in the twin role carries DIGEST and MGMT packets only (R421). -/
def Lnk.twinOnly (l : Lnk) (k : Nat) : Bool := decide (k = 6) && decide (bits l.wcfg 0 2 = 1)

/-- The context has bound the port (R41, R394). -/
def State.bound (s : State) (c k : Nat) : Bool := decide (k < 7) && decide ((s.binding k c).st = 2)

/-- The context may send and receive data through the port: it has bound it, and the port is not kept for digests (R41, R421). -/
def State.reaches (s : State) (c k : Nat) : Bool := s.bound c k && !s.lnk.twinOnly k

/-- A packet head without a payload. -/
def headOf (kind iss dst info lines addr token tag cls : Nat) : LPkt :=
  { kind := kind, iss := iss, dst := dst, info := info, lines := lines, addr := addr, token := token, age := 0, tag := tag, body := 0
    payload := [], cls := cls }

/-- A packet of context `c` with a stamp is handed to port `k`, whose flits take it in time. -/
def State.sendLink (s : State) (k c stamp : Nat) (p : LPkt) : State :=
  (s.out (.link k { p with age := s.ageOut k stamp })).modPort k fun x => { x with tx := x.tx ++ [{ ctx := c, stamp := stamp, pkt := p }] }

/-- A packet of context `c` leaves through port `k`, with the fields of the binding (R385, R394). The token is a fresh number;
`use` says what waits for the answer. -/
def State.sendPeer (s : State) (k c : Nat) (src : Src) (kind info addr cls lines : Nat) (payload : List (Nat × Bool)) (use : TokenUse) : State :=
  let b := s.binding k c
  let p : LPkt := { headOf kind c b.peerCtx info lines addr s.nextId b.tag cls with payload := payload }
  let w : Waiting := { token := s.nextId, port := k, ctx := c, src := src, since := s.now, use := use }
  let s1 := s.sendLink (s.lnk.wire k) c s.stampNow p
  { s1 with nextId := s1.nextId + 1, lnk := { s1.lnk with waiting := s1.lnk.waiting ++ [w] } }

/-- An answer to a peer's packet `p`, with the stamp that `p` received here (R315, R396, R398). -/
def State.reply (s : State) (k stamp : Nat) (p : LPkt) (kind info lines : Nat) (payload : List (Nat × Bool)) : State :=
  s.sendLink (s.lnk.wire k) p.dst stamp { headOf kind p.dst p.iss info lines p.addr p.token p.tag 2 with payload := payload }

/-- A management body of R393 leaves on a port in VC3. -/
def State.mgmt (s : State) (k kind : Nat) (fields : List Nat) : State := s.out (.linkCtl (s.lnk.wire k) kind fields)

end Sys2Proof.Machine
end

