-- ==== Sys2Proof/Machine/Records.lean ====
section
/-! DEFINITION. Fault records (R15 to R21): their bytes, the fault record queue (R595, R596), the alerts (R599, R615), the
event and completion rings (R436, R437, R443 to R450), the audit log (R560), and the teardown that a record starts
(R31, R32, R303, R337, R359, R371, R395, R446). -/

namespace Sys2Proof.Machine

/-- The class of a code (R15, R16). -/
def FaultRec.cls (r : FaultRec) : Nat := r.code / 256

/-- The flags byte (R15). -/
def FaultRec.flags (r : FaultRec) : Nat :=
  b2n r.ctxFatal + 2 * b2n r.devFatal + 4 * b2n r.retried + 8 * b2n r.locValid

/-- The 32 bytes of a record, little-endian (R15). -/
def FaultRec.encode (r : FaultRec) : Nat :=
  r.code % 2 ^ 16 + r.cls % 2 ^ 8 * 2 ^ 16 + r.flags * 2 ^ 24 + r.ctx % 2 ^ 16 * 2 ^ 32 + r.tile % 2 ^ 16 * 2 ^ 48
    + r.superstep % 2 ^ 64 * 2 ^ 64 + r.addr % 2 ^ 64 * 2 ^ 128 + r.opIndex % 2 ^ 32 * 2 ^ 192
    + r.detail % 2 ^ 32 * 2 ^ 224

/-! ### Audit log -/

/-- Powered time in ms (R560). -/
def State.poweredTime (s : State) : Nat := s.pln.poweredMs + s.now / 100000

/-- An entry of the general area (R560): circular, 4,096 entries. -/
def State.auditGeneral (s : State) (event agent counter data : Nat) : State :=
  let e : AuditEnt := { time := s.poweredTime, event := event, agent := agent, counter := counter, data := data }
  { s with pln := { s.pln with auditGeneral := (e :: s.pln.auditGeneral).take 4096,
                               auditGeneralCount := (s.pln.auditGeneralCount + 1) % 65536 } }

/-- Event data of DEVICE_FATAL_COPY: bytes 0–3, 24–31 and 8–11 of the record (R560). -/
def fatalCopyData (r : FaultRec) : Nat :=
  bits r.encode 0 32 + bits r.encode 192 64 * 2 ^ 32 + bits r.encode 64 32 * 2 ^ 96

/-! ### Fault record queue and alerts -/

/-- A bank's alert is asserted (R599). -/
def FrqBank.asserted (b : FrqBank) : Bool :=
  decide (b.statClasses &&& b.maskClasses ≠ 0) || (b.statFatal && b.maskFatal)

/-- A bank's status as a record enters (R599). -/
def FrqBank.enter (b : FrqBank) (r : FaultRec) : FrqBank :=
  { b with statClasses := setBit b.statClasses r.cls true, statFatal := b.statFatal || r.devFatal }

/-- The banks PF 0, Armature cluster 1, BMC 2 (R590); a bank that changes drives its line (R599). -/
def State.bank (s : State) (b : Nat) : FrqBank := mget {} s.pln.banks b
def State.setBank (s : State) (b : Nat) (v : FrqBank) : State :=
  { s with pln := { s.pln with banks := mset {} s.pln.banks b { v with line := v.asserted } } }

/-- The BMC bank changes from `old`: one event message for a change to asserted, when an endpoint ID is assigned (R615). -/
def State.bmcAlert (s : State) (old : FrqBank) : State :=
  if !old.asserted && (s.bank 2).asserted && decide (s.pln.eid ≠ 0) then s.out (.platformEvent (s.bank 2).statClasses)
  else s

/-- A record enters the queue (R595, R599). -/
def State.enterFrq (s : State) (r : FaultRec) : State :=
  let old := s.bank 2
  let s1 := { s with pln := { s.pln with frq := (r :: s.pln.frq).take 1024, head := (s.pln.head + 1) % 2 ^ 48 } }
  let s2 := s1.setBank 0 ((s1.bank 0).enter r)
  let s3 := s2.setBank 1 ((s2.bank 1).enter r)
  (s3.setBank 2 ((s3.bank 2).enter r)).bmcAlert old

/-- A record is written: into the queue once it is enabled, held before (R596). -/
def State.pushFrq (s : State) (r : FaultRec) : State :=
  if s.pln.enabled then s.enterFrq r
  else if s.pln.hold.length < 1024 then { s with pln := { s.pln with hold := s.pln.hold ++ [r] } }
  else { s with pln := { s.pln with holdDropped := satAdd s.pln.holdDropped 1 0xFFFF } }

/-! ### Rings towards the host -/

def Fn.ring (f : Fn) (r : Nat) : Ring := mget {} f.rings r
def Fn.setRing (f : Fn) (r : Nat) (v : Ring) : Fn := { f with rings := mset {} f.rings r v }

/-- A function may issue requests (R431, R451 Order 2). -/
def Fn.mayIssue (f : Fn) : Bool := f.busMaster && !f.d3hot && !f.resetting

/-- Entry `vec` of the MSI-X table (R430): address, data from bit 64 on, and the mask bit 96. At reset it is masked, and zero otherwise.
PRESUMED of PCI Express (log entry 153): the spec names the table only. -/
def msixReset : Nat := 2 ^ 96
def Fn.vector (f : Fn) (vec : Nat) : Nat := mget msixReset f.msixTable vec
def Fn.masked (f : Fn) (vec : Nat) : Bool := bit (f.vector vec) 96

/-- An MSI-X message of function `f`: a masked vector is pending, and one of a function that may not issue waits (R430, R431, R450). -/
def State.msix (s : State) (f vec : Nat) : State :=
  let x := s.fn f
  if x.masked vec then s.setFn f { x with msixPending := mset false x.msixPending vec true }
  else if x.mayIssue then s.out (.msix f vec)
  else s.setFn f { x with heldIrqs := x.heldIrqs ++ [vec] }

/-- One entry of vector `vec` (0 or 1) more: the vector fires at COUNT entries, or at once when DELAY_US is 0 (R450, R459). -/
def State.signal (s : State) (f vec : Nat) : State :=
  let fn := s.fn f
  let n := (if vec = 0 then fn.unsig0 else fn.unsig1) + 1
  let cnt := if fn.irqCount = 0 then 1 else fn.irqCount
  if cnt ≤ n || decide (fn.irqDelay = 0) then
    (s.setFn f (if vec = 0 then { fn with unsig0 := 0 } else { fn with unsig1 := 0 })).msix f vec
  else
    s.setFn f (if vec = 0 then { fn with unsig0 := n, since0 := if n = 1 then s.now else fn.since0 }
               else { fn with unsig1 := n, since1 := if n = 1 then s.now else fn.since1 })

/-- The PHASE bit of the entry at index `i` (R437). -/
def phaseOf (i l : Nat) : Nat := if (i / 2 ^ l) % 2 = 0 then 1 else 0

/-- A 64-byte entry leaves for slot `i` of ring `r` of function `f`, now or when the function may issue (R431, R436). -/
def State.putEntry (s : State) (f r i entry : Nat) : State :=
  let ring := (s.fn f).ring r
  if (s.fn f).mayIssue then s.out (.hostWrite f (ring.base + 64 * (i % 2 ^ ring.l)) 64 entry false)
  else s.setFn f { s.fn f with heldEntries := (s.fn f).heldEntries ++ [(r, i, entry)] }

/-- An event for function `f`: `body` holds the entry without bytes 2–7 (R448). The answer tells how many dropped events
it reports, when it is the first after a drop (R449). -/
def State.putEvent (s : State) (f body : Nat) : State × Nat :=
  let fn := s.fn f
  let ring := fn.ring 2
  if ring.st = 1 then
    if (ring.device + 2 ^ 32 - ring.host) % 2 ^ 32 < 2 ^ ring.l then
      let entry := body + 2 ^ 16 + (phaseOf ring.device ring.l + 2 * b2n (decide (0 < fn.lost))) * 2 ^ 24
        + fn.events % 2 ^ 32 * 2 ^ 32
      let s1 := s.putEntry f 2 ring.device entry
      let fn1 := { s1.fn f with events := (fn.events + 1) % 2 ^ 32, lost := 0 }
      (((s1.setFn f (fn1.setRing 2 { ring with device := (ring.device + 1) % 2 ^ 32 })).signal f 1), fn.lost)
    else
      (s.setFn f { fn.setRing 2 { ring with count := satAdd ring.count 1 0xFFFFFFFF } with
        events := (fn.events + 1) % 2 ^ 32, lost := fn.lost + 1 }, 0)
  else (s, 0)

/-- The FAULT event of a record (R448). -/
def faultEvent (r : FaultRec) : Nat := 1 + r.encode * 2 ^ 256

/-- The record of R449: the function, and the events dropped, saturating. -/
def droppedRec (f n : Nat) : FaultRec := { code := 0x0A05, detail := f + min n 0xFFFFFF * 256 }

/-- EVENTS_DROPPED enters the queue and the PF's ring; the PF's own drop may need one more such record (R449). -/
def State.reportDrop (s : State) (f n : Nat) : State :=
  if n = 0 then s
  else
    let s1 := s.pushFrq (droppedRec f n)
    match s1.putEvent 0 (faultEvent (droppedRec f n)) with
    | (s2, 0) => s2
    | (s2, m) => ((s2.pushFrq (droppedRec 0 m)).putEvent 0 (faultEvent (droppedRec 0 m))).1

/-- An event for one function, with the report of R449 when it is the first after a drop. -/
def State.event (s : State) (f body : Nat) : State :=
  match s.putEvent f body with
  | (s1, n) => s1.reportDrop f n

/-- The STATE event of a context's change (R448). -/
def State.stateEvent (s : State) (c : Nat) (st : CtxSt) : State :=
  let v := match st with | .idle => 0 | .loading => 1 | .running => 2 | .tearing => 3
  s.event (c + 1) (2 + v * 2 ^ 64 + c * 2 ^ 72)

/-- Commands of a function in progress (R443). -/
def State.inProgress (s : State) (f : Nat) : Nat := (s.hif.cmds.filter fun k => decide (k.fn = f)).length

/-- The host interface fetches the function's next command entry now (R431, R439, R443): one fetch at a time (DESIGN CHOICE). -/
def State.mayFetch (s : State) (f : Nat) : Bool :=
  let fn := s.fn f
  let c := fn.ring 0
  let d := fn.ring 1
  decide (c.st = 1) && decide (d.st = 1) && fn.mayIssue && fn.fetching.isNone && !s.pln.fatal && decide (c.device ≠ c.host) &&
    decide (s.inProgress f < 64) && decide (s.inProgress f + (d.device + 2 ^ 32 - d.host) % 2 ^ 32 < 2 ^ d.l)

/-- A host read request leaves. -/
def State.sendRead (s : State) (x : HRead) : State :=
  { s.out (.hostRead x.id x.fn x.addr x.bytes) with hif := { s.hif with reads := s.hif.reads ++ [{ x with since := s.now }] } }

/-- A host read of a function (R435): it leaves, or waits while 512 of them are outstanding in the whole device (R428) or its function is
being reset (R451). -/
def State.hostRead (s : State) (f addr n : Nat) (use : HReadUse) : State :=
  let x : HRead := { id := s.nextId, fn := f, addr := addr, bytes := n, use := use }
  let s1 : State := { s with nextId := s.nextId + 1 }
  if s.hif.reads.length < 512 && !(s.fn f).resetting then s1.sendRead x else { s1 with hif := { s1.hif with waiting := s1.hif.waiting ++ [x] } }

/-- The fetch of the next command entry leaves, when there is one to fetch. -/
def State.fetch (s : State) (f : Nat) : State :=
  if s.mayFetch f then
    let r := (s.fn f).ring 0
    (s.setFn f { s.fn f with fetching := some s.nextId }).hostRead f (r.base + 64 * (r.device % 2 ^ r.l)) 64 (.ringFetch f r.device)
  else s

/-- The completion entry of command `k` (R447): its slot takes the next producer index. `extra` holds bytes 16–63. -/
def State.complete (s : State) (k : Cmd) (status detail extra : Nat) : State :=
  let fn := s.fn k.fn
  let ring := fn.ring 1
  let s0 := { s with hif := { s.hif with cmds := s.hif.cmds.filter fun x => !(decide (x.fn = k.fn) && decide (x.id = k.id)) } }
  if ring.st = 1 then
    let entry := bits k.raw 0 8 + 1 * 2 ^ 8 + phaseOf ring.device ring.l * 2 ^ 16 + bits k.raw 32 32 * 2 ^ 32
      + k.num % 2 ^ 32 * 2 ^ 64 + status % 2 ^ 16 * 2 ^ 96 + detail % 2 ^ 16 * 2 ^ 112 + extra * 2 ^ 128
    let s1 := s0.putEntry k.fn 1 ring.device entry
    let s2 := s1.setFn k.fn ((s1.fn k.fn).setRing 1 { ring with device := (ring.device + 1) % 2 ^ 32 })
    (if bit k.raw 16 then s2.signal k.fn 0 else s2).fetch k.fn
  else s0

/-- The command of function `f` with its number, while in progress. -/
def State.cmd (s : State) (f id : Nat) : Option Cmd :=
  s.hif.cmds.find? fun k => decide (k.fn = f) && decide (k.id = id)

/-- The descriptor that serves a command of a function (R444). -/
def Hbm.descFor (h : Hbm) (f id : Nat) : Option Desc := h.descs.find? fun d => decide (d.hostCmd = some (f, id))

/-- Lines that the descriptor of a command has moved (R447). -/
def Hbm.linesMoved (h : Hbm) (k : Cmd) : Nat := match h.descFor k.fn k.id with | some d => d.acked | none => 0

/-- A record as it is written: the firmware system context, 16 here, is 0xFFFE (R15). -/
def FaultRec.shown (r : FaultRec) : FaultRec := if r.ctx = 16 then { r with ctx := 0xFFFE } else r

/-- The completion of a command that a record ended, with the lines moved until then (R447). -/
def State.completeFaulted (s : State) (k : Cmd) (moved : Nat) (r : FaultRec) : State :=
  s.complete k 6 0 (moved + r.shown.encode * 2 ^ 128)

/-- The command (function, number), if it is still in progress, ends with a record. -/
def State.faultCmd (s : State) (cmd : Option (Nat × Nat)) (r : FaultRec) : State :=
  match cmd.bind fun x => s.cmd x.1 x.2 with
  | some k => s.completeFaulted k (s.hbm.linesMoved k) r
  | none => s

/-! ### Writing the bytes of a record -/

/-- A record of a context that is already tearing down is not written (R32). -/
def State.silent (s : State) (r : FaultRec) : Bool :=
  r.ctxFatal && decide (r.ctx < 16) && decide ((s.ctx r.ctx).st = .tearing)

/-- A record is written: the queue, the event rings, and for a fatal one the audit copy and the stop (R18). -/
def State.writeRec (s : State) (r0 : FaultRec) : State :=
  let r := r0.shown
  let s1 := s.pushFrq r
  let s2 := s1.event 0 (faultEvent r)
  let s3 := if r.ctx < 16 then s2.event (r.ctx + 1) (faultEvent r) else s2
  if r.devFatal then
    let s4 := s3.auditGeneral 8 1 0 (fatalCopyData r)
    { s4 with pln := { s4.pln with fatal := true, fatalRec := (if s4.pln.fatal then s4.pln.fatalRec else some r) } }
  else s3

/-- A record, unless R32 silences it: what `State.raise` writes, without what it causes. -/
def State.note (s : State) (r : FaultRec) : State := if s.silent r then s else s.writeRec r

/-! ### Teardown -/

/-- HOST_POISON_RECEIVED of a descriptor with marked lines (R434, R461). `c` is its context. -/
def poisonReceived (c lines : Nat) : FaultRec :=
  { code := 0x0A02, ctx := c, detail := (if c < 16 then c + 1 else 0) + min lines 0xFFFFFF * 2 ^ 8 }

/-- The records of R434 of a context's descriptors that are abandoned. -/
def State.poisonRecs (s : State) (h : Hbm) (c : Nat) : State :=
  (h.descs.filter fun d => decide (d.ctx = c) && !d.faulted && decide (d.hostPoison ≠ 0)).foldl
    (fun s d => s.writeRec (poisonReceived c d.hostPoison)) s

/-- Commands of a context's function, other than TEARDOWN, end with CONTEXT_ENDED; an ADMIT whose Loading a record ended
carries that record (R446, R447). `h` holds the descriptors as the teardown met them. -/
def State.endCmds (s : State) (h : Hbm) (c : Nat) (r : Option FaultRec) (wasLoading : Bool) : State :=
  (s.hif.cmds.filter fun k => decide (k.fn = c + 1) && !decide (bits k.raw 0 8 = 5)).foldl
    (fun s k =>
      match r with
      | some rec => if wasLoading && decide (bits k.raw 0 8 = 1) then s.completeFaulted k 0 rec else s.complete k 7 0 (h.linesMoved k)
      | none => s.complete k 7 0 (h.linesMoved k)) s

/-! #### Items of the SYU that are refused (R285, R303, R305, R308) -/

/-- The space 0x3 form of a counter (R37). -/
def counterAddr (vid : Nat) : Nat := 3 * 2 ^ 52 + vid * 8

/-- Source code of COUNTER_ID_INVALID (R308). -/
def Src.code : Src → Nat
  | .dma _ => 1 | .arm _ => 2 | .tel _ => 3 | .host _ => 4 | .port _ => 5 | _ => 6

/-- The counter that an item names. -/
def SyuItem.vid (i : SyuItem) : Nat :=
  match i.body with
  | .inc v _ => v | .reg r => r.vid | .read v _ _ => v | .tmo v _ => v | .remote a _ => gVid a

/-- A peer's increment is answered: an ACK, or a NAK with its reason (R398). -/
def State.answerPeer (s : State) (i kind reason : Nat) : State :=
  match s.lnk.peerOps.find? fun p => decide (p.id = i) with
  | none => s
  | some p =>
    { s.reply p.port p.stamp p.pkt kind reason 0 [] with lnk := { s.lnk with peerOps := s.lnk.peerOps.filter fun q => !decide (q.id = i) } }

/-- COUNTER_ID_INVALID (R285). -/
def counterInvalid (x : SyuItem) (running : Bool) : FaultRec :=
  { code := 0x0504, ctxFatal := (match x.src with | .port _ => false | _ => true), ctx := x.ctx, addr := counterAddr x.vid
    detail := x.vid + x.src.code * 2 ^ 16 + b2n (!running) * 2 ^ 20 }

/-- The outcome of a bank's submission `id`: it counts while it is the last one (R305). -/
def WBank.outcome (w : WBank) (id result : Nat) : WBank :=
  if w.busy = some id then { w with result := result, busy := none } else w

/-- The outcome of the registration that item `id` submitted, for its bank or its host command (R305, R445). -/
def State.regResult (s : State) (id : Nat) (r : WReg) (status slot : Nat) : State :=
  let s1 := match r.bank with
    | some b =>
      { s with syu := { s.syu with banks := mmod {} s.syu.banks b fun w => w.outcome id (slot + status * 2 ^ 16) } }
    | none => s
  match r.hostCmd with
  | some (f, n) => if status = 1 then s1 else (match s1.cmd f n with | some k => s1.complete k 5 status 0 | none => s1)
  | none => s1

/-- The SYU's part of a teardown, Orders 1 to 4 of R303: no accepted item, watch or notification of the context remains, no CREAD
of its tiles, and no remote increment that its source still holds (DEDUCED, log entry 146). -/
def Syu.endCtx (y : Syu) (c : Nat) (tiles : List Nat) : Syu :=
  { y with
    inbound := y.inbound.filter fun i => !(decide (i.ctx = c) && match i.body with | .remote _ _ => true | _ => false)
    accepted := y.accepted.filter fun i => !decide (i.ctx = c)
    watches := y.watches.filter fun w => !decide (w.reg.ctx = c)
    notifs := y.notifs.filter fun n => !decide (n.reg.ctx = c)
    creads := y.creads.filter fun r => !tiles.contains r.who.tile }

/-- An accepted item whose context's counter table has become invalid is refused (R285, R303 Order 1). The host command behind one ends
with its context, as CONTEXT_ENDED (R446). -/
def State.refuseEnded (s : State) (x : SyuItem) : State :=
  match x.body with
  | .inc _ _ => (s.answerPeer x.id 6 3).note (counterInvalid x false)
  | .reg r => s.regResult x.id { r with hostCmd := none } 5 0
  | _ => s

/-- The SYU at the teardown of a context: what it drops, and the answers to the items that it had accepted. -/
def State.endSyu (s : State) (c : Nat) (tiles : List Nat) : State :=
  (s.syu.accepted.filter fun i => decide (i.ctx = c)).foldl State.refuseEnded { s with syu := s.syu.endCtx c tiles }

/-- The RMN's part of a teardown (R337). -/
def Rmn.endCtx (m : Rmn) (c : Nat) : Rmn :=
  { m with
    queues := mvals {} (fun _ q => if q.ctx = c then
        { q with epoch := (q.epoch + 1) % 2 ^ 32, state := 0, hold := false, resetPending := false, wr := 0, rd := 0,
                 conns := 0, recs := [], listed := 0, popped := 0 }
       else q) m.queues
    items := m.items.filter fun i => !decide (i.ctx = c)
    placing := m.placing.filter fun p => !decide (p.ctx = c)
    replies := m.replies.filter fun r => !decide (r.ctx = c) }

/-- HBM's part of a teardown (R359, R371): the window is unmapped, reserve and partner windows go to zeroing, accesses and
descriptors of the context are abandoned. -/
def Hbm.endCtx (h : Hbm) (c base frames : Nat) (queues : List Nat) : Hbm :=
  { h with
    fmap := mdrop (fun e => decide (base ≤ e) && decide (e < base + frames)) h.fmap
    frames := mvals .pool (fun _ x => match x with
      | .held c' cow => if c' = c then .zeroing none else .held c' cow
      | .zeroing b => if b = some c then .zeroing none else .zeroing b
      | x => x) h.frames
    accs := h.accs.filter fun a => !decide (a.ctx = c)
    ops := h.ops.filter fun o => !decide (o.ctx = c)
    copies := h.copies.filter fun x => !(decide (base ≤ x.entry) && decide (x.entry < base + frames))
    descs := h.descs.filter fun d => !decide (d.ctx = c)
    stopped := mdrop (fun n => queues.contains n) h.stopped
    pwin := mvals {} (fun _ p => if p.ctx = c then { p with first := 0, frames := 0, ctx := 0x1F } else p) h.pwin }

/-- The links' part of a teardown (R387, R395, R408): an UNBIND leaves on every ACTIVE entry, every entry becomes none, a BIND that
the peer sent for the job that ends is no longer one, while one with the tag of a later job stands (R394), and packets that no flit has
taken are discarded, but for the negative acknowledgements of R285. Increments of the peer that have not reached the SYU keep their
place for theirs; the digests kept for R424 stay, so that a context restored later can compare with them. -/
def State.endBindings (s : State) (c cause : Nat) : State :=
  let s1 := (List.range 7).foldl (fun s k =>
    let b := s.binding k c
    let s' := if b.st = 2 then s.mgmt k 3 [c, b.tag, cause] else s
    s'.setBinding k c {}) s
  { s1 with lnk := { s1.lnk with
      waiting := s1.lnk.waiting.filter fun w => !decide (w.ctx = c)
      peerOps := s1.lnk.peerOps.filter fun p => !decide (p.ctx = c) || s.syu.inbound.any fun i => decide (i.id = p.id)
      cdescs := s1.lnk.cdescs.filter fun d => !decide (d.ctx = c)
      digests := s1.lnk.digests.filter fun d => !decide (d.ctx = c)
      bindMsgs := s1.lnk.bindMsgs.filter fun m =>
        !(decide (m.ctx = c) && decide ((s.binding m.port c).st ≠ 0) && decide (m.tag = (s.binding m.port c).tag))
      ports := mvals {} (fun _ p => { p with held := p.held.filter (fun w => !decide (w.ctx = c))
                                             tx := p.tx.filter fun x => !decide (x.ctx = c) || decide (x.pkt.kind = 6) }) s1.lnk.ports } }

/-- The tiles' part: threads are halted, tile sets read Tearing down, timers drop (R31, R303 Order 4). -/
def State.endTiles (s : State) (c : Nat) : State :=
  let sets := s.tsetsOf c
  let s1 := sets.foldl (fun s n => s.setTset n { s.tset n with st := .tearing }) s
  let ts := tilesOf sets
  { s1 with
    tiles := mvals {} (fun n t => if (s.tset (tsetOf n)).owner = c then
        { t with timers := [], pendingLines := [],
                 threads := mvals {} (fun _ th => { th with st := .halted, stopped := true }) t.threads }
       else t) s1.tiles
    xsends := s1.xsends.filter fun x => !(ts.contains x.sender)
    telItems := s1.telItems.filter fun i => !decide (i.ctx = c) }

/-- Samples of the context that no comparison has reached are missed (R473, R477); their pool tiles stop. -/
def State.endSamples (s : State) (c : Nat) : State :=
  let gone := s.ras.samples.filter fun x => decide (x.ctx = c)
  let ids := gone.map fun x => x.id
  { s with
    ras := { s.ras with samples := s.ras.samples.filter fun x => !decide (x.ctx = c),
                        missed := satAdd s.ras.missed (gone.filter fun x => !x.mismatch).length 0xFFFFFFFFFFFFFFFF }
    tiles := mvals {} (fun _ t => match t.shadow with
        | some i => if ids.contains i then { cfg := {}, err := t.err } else t
        | none => { t with cap := match t.cap with | some i => if ids.contains i then none else some i | none => none }) s.tiles }

/-- The cartridge command in progress ends (R499, R502). -/
def State.crtEnd (s : State) (status reason done : Nat) : State :=
  { s with crt := { s.crt with status := status, reason := reason, done := done, busy := none } }

/-- A cartridge READ whose writes the teardown abandons fails; a command that the media has not answered goes on without its
context (R499). -/
def State.endCrt (s : State) (c : Nat) : State :=
  match s.crt.busy with
  | some k =>
    if k.ctx ≠ c then s
    else if k.landed.isSome then s.crtEnd 4 0 0
    else { s with crt := { s.crt with busy := some { k with ctx := 0x1F } } }
  | none => s

/-- Teardown of context `c` begins (R31), once (R32); `r` is the record that caused it. -/
def State.startTeardown (s : State) (c : Nat) (r : Option FaultRec) : State :=
  if s.live c then
    let x := s.ctx c
    let wasLoading := decide (x.st = .loading)
    let s1 := s.setCtx c { x with st := .tearing, ended := r, tableValid := false, fmFrames := 0, cowD4 := 0, cowD5 := 0, afterDecide := none }
    let s2 := (s1.endSyu c (s.ctxTiles c)).endTiles c
    let s3 := { s2 with rmn := s2.rmn.endCtx c, hbm := s2.hbm.endCtx c x.fmBase x.fmFrames x.queues }
    let s4 := s3.endBindings c (if x.complete then 1 else 2)
    let s5 := (s4.endSamples c).endCrt c
    let s6 := s5.setTel c { s5.tel c with watching := false, gateMet := false }
    ((s6.poisonRecs s.hbm c).endCmds s.hbm c r wasLoading).stateEvent c .tearing
  else s

/-! ### Writing a record -/

/-- The teardown that a record causes (R18, R31); DEVICE_FATAL overrides it (R32). A record that names the firmware system context tears
nothing down: R18 says that the context named is torn down, while R31 gives teardown to a context that is Loading or Running, which the
firmware's, without tile sets, never is (DEDUCED, log entry 165). -/
def State.consequence (s : State) (r : FaultRec) : State :=
  if r.ctxFatal && !r.devFatal && decide (r.ctx < 16) then s.startTeardown r.ctx (some r) else s

/-- Writing one record, with what it causes. -/
def State.raise (s : State) (r : FaultRec) : State :=
  if s.silent r then s else (s.writeRec r).consequence r

/-- Several records of one handshake window, in ascending order of class, then of code (R21): the callers list them so. Each
is written before the teardown that the first of them causes. -/
def State.raiseAll (s : State) (rs : List FaultRec) : State :=
  let ws := rs.filter fun r => !s.silent r
  ws.foldl State.consequence (ws.foldl State.writeRec s)

/-! ### The teardown behind a decision (R213, R215) -/

/-- DECIDE of context `c` has been raised and its watchers are notified (R213 Order 7); a record in HBM is delivered when it is visible
(R293). -/
def State.decideOver (s : State) (c : Nat) : Bool :=
  let v := bits (s.tel c).gateCfg 48 16
  !(s.syu.inbound.any fun x => decide (x.src = .tel c)) && !(s.syu.accepted.any fun x => decide (x.src = .tel c)) &&
    !(s.syu.notifs.any fun n => decide (n.reg.ctx = c) && decide (n.reg.vid = v)) &&
    !s.hbm.ops.any fun o => decide (o.ctx = c) && decide (o.kind = .notif v)

/-- The teardown under SKIP_LIMIT of every context whose Order 7 is over (R215). -/
def State.afterOrder7 (s : State) : State :=
  s.ctxs.foldl (fun s kv =>
    match (s.ctx kv.1).afterDecide with
    | some r => if s.decideOver kv.1 then s.consequence r else s
    | none => s) s

/-! ### Marks for retirement -/

/-- A tile is marked for retirement with a cause (R479): the audit log's mark part, and the pending list of 32; a mark that
finds the list full quarantines the tile set until the next reset (R556). A site is marked once. -/
def State.markTile (s : State) (t cause : Nat) : State :=
  let site := s.pln.siteOf t
  if s.ras.retire.any (fun x => decide (x.phys = site)) || mget false s.ras.quarantine (tsetOf t) then s
  else if s.ras.retire.length < 32 then
    let e : AuditEnt := { time := s.poweredTime, event := 6, agent := 1, data := site + cause * 2 ^ 16 }
    { s with
      ras := { s.ras with retire := s.ras.retire ++ [{ phys := site, cause := cause }] }
      pln := { s.pln with auditMark :=
        if s.pln.auditMark.any (fun x => decide (x.data % 2 ^ 16 = site)) || decide (160 ≤ s.pln.auditMark.length)
        then s.pln.auditMark else s.pln.auditMark ++ [e] } }
  else
    { s with ras := { s.ras with quarantine := mset false s.ras.quarantine (tsetOf t) true },
             pln := { s.pln with pendingFull := true } }

/-- The mark with its RETIRE_PENDING record (R465, R476). -/
def State.retirePending (s : State) (t cause : Nat) : State :=
  (s.markTile t cause).raise { code := 0x0B06, detail := s.pln.siteOf t + cause * 2 ^ 13 }

end Sys2Proof.Machine
end

