-- ==== Sys2Proof/Machine/Ops.lean ====
section
/-! DEFINITION. The named operations over tile memory and thread registers: register access (R65), regions (R96 to R98),
lines with parity and poison (R100, R481), global addresses (R37 to R43), detections and reruns (R102 to R105, R462 to
R465), and the issue of a tile operation in the order of R75. -/

namespace Sys2Proof.Machine

/-! ### Registers (R65) -/

def RegSet.getA (r : RegSet) (i : Nat) : Nat := if i = 0 then 0 else (mget 0 r.a i).toNat
def RegSet.setA (r : RegSet) (i v : Nat) : RegSet := if i = 0 then r else { r with a := mset 0 r.a i (BitVec.ofNat 56 v) }
def RegSet.getK (r : RegSet) (i : Nat) : Nat := (mget 0 r.k i).toNat
def RegSet.setK (r : RegSet) (i v : Nat) : RegSet := { r with k := mset 0 r.k i (BitVec.ofNat 32 v) }
def RegSet.getP (r : RegSet) (i : Nat) : Bool := if i = 0 then true else mget false r.p i
def RegSet.setP (r : RegSet) (i : Nat) (v : Bool) : RegSet := if i = 0 then r else { r with p := mset false r.p i v }
def RegSet.busy (r : RegSet) (i : Nat) : Bool := mget false r.tk i
def RegSet.setBusy (r : RegSet) (i : Nat) (v : Bool) : RegSet := { r with tk := mset false r.tk i v }

/-- Every ticket of the set is idle. -/
def RegSet.ticketsIdle (r : RegSet) : Bool := r.tk.isEmpty

/-- Registers of a segment's start (R65, R265). -/
def RegSet.start : RegSet := {}

/-! ### Regions (R96, R115) -/

def Tile.region (t : Tile) (n : Nat) : Nat := mget 0 t.cfg.regions n
def regBase (e : Nat) : Nat := bits e 0 15
def regLines (e : Nat) : Nat := bits e 16 16
def regCovers (e l : Nat) : Bool := decide (regLines e ≠ 0) && decide (regBase e ≤ l) && decide (l < regBase e + regLines e)

/-- Some valid entry covers line `l` and satisfies `p`. -/
def Tile.someRegion (t : Tile) (l : Nat) (p : Nat → Bool) : Bool :=
  (List.range 32).any fun n => regCovers (t.region n) l && p (t.region n)

def Tile.declared (t : Tile) (l : Nat) : Bool := t.someRegion l fun _ => true
def Tile.mayRead (t : Tile) (th l : Nat) : Bool := t.someRegion l fun e => bit e (32 + th)
def Tile.mayWrite (t : Tile) (th l : Nat) : Bool := t.someRegion l fun e => bit e (36 + th)
def Tile.mayFetch (t : Tile) (th l : Nat) : Bool := t.someRegion l fun e => bit e (32 + th) && bit e 43
def Tile.xrx (t : Tile) (l : Nat) : Bool := t.someRegion l fun e => bit e 40
def Tile.xtx (t : Tile) (l : Nat) : Bool := t.someRegion l fun e => bit e 41
def Tile.mrx (t : Tile) (l : Nat) : Bool := t.someRegion l fun e => bit e 42
def Tile.dmaOk (t : Tile) (l : Nat) : Bool := t.someRegion l fun e => bit e 44

/-- Line `l` lies in an entry with FETCH set (R102 Order 3). -/
def Tile.fetchLine (t : Tile) (l : Nat) : Bool := t.someRegion l fun e => bit e 43

/-- Threads that some entry covering `l` grants WR (R107). -/
def Tile.writersOf (t : Tile) (l : Nat) : Nat :=
  (List.range 4).foldl (fun m th => if t.mayWrite th l then m + 2 ^ th else m) 0

/-- The bank of line `l` is powered (R90, R95). -/
def Tile.powered (t : Tile) (l : Nat) : Bool := bit t.cfg.bankPwr (l / 1024)

/-! ### Lines (R87, R100, R481) -/

def Tile.line (t : Tile) (l : Nat) : Nat := memRead t.mem (64 * l) 64
def Tile.poisoned (t : Tile) (l : Nat) : Bool := mget false t.poison l

/-- A word of the line has wrong parity. A poisoned line never raises a parity error (R481). -/
def Tile.parityBad (t : Tile) (l : Nat) : Bool :=
  !t.poisoned l && (List.range 16).any fun j => mget false t.err.badWords (16 * l + j)

/-- A whole line written: data, poison bit, parity of every word (R100, R481). -/
def Tile.putLine (t : Tile) (l v : Nat) (poison : Bool) : Tile :=
  { t with mem := memWrite t.mem (64 * l) 64 v, poison := mset false t.poison l poison,
           err := { t.err with badWords := mdrop (fun w => decide (w / 16 = l)) t.err.badWords } }

/-- A narrow write of `n` bytes at offset `a`: the parity of every word that it writes, in whole or in part; the poison bit stays
(R100, R481). -/
def Tile.putNarrow (t : Tile) (a n v : Nat) : Tile :=
  { t with mem := memWrite t.mem a n v,
           err := { t.err with badWords := mdrop (fun w => decide (a / 4 ≤ w) && decide (4 * w < a + n)) t.err.badWords } }

def Tile.narrow (t : Tile) (a n : Nat) : Nat := memRead t.mem a n

/-! ### An operation at its thread -/

/-- An operation being issued: where, its word, whether it is fill work, its owner, its index, its effective addresses. -/
structure Op where
  tile : Nat
  thread : Nat
  w : Nat
  fill : Bool
  ctx : Nat
  idx : Nat
  d : Nat
  a : Nat
  b : Nat
  /-- The registers before any POSTINC. -/
  pre : RegSet
  deriving DecidableEq, Repr

def State.thread (s : State) (t n : Nat) : Thread := (s.tile t).thread n
def State.modThread (s : State) (t n : Nat) (f : Thread → Thread) : State := s.modTile t fun x => x.modThread n f

def Thread.regs (t : Thread) (fill : Bool) : RegSet := if fill then t.fill else t.main
def Thread.setRegs (t : Thread) (fill : Bool) (r : RegSet) : Thread :=
  if fill then { t with fill := r } else { t with main := r }

/-- IN_FILL: whether the thread's most recent fault arose in a fill segment (R265, R273). -/
def State.noteThread (s : State) (t n : Nat) (fill : Bool) : State := s.modThread t n fun x => { x with inFill := fill }

def State.regs (s : State) (o : Op) : RegSet := (s.thread o.tile o.thread).regs o.fill
def State.modRegs (s : State) (o : Op) (f : RegSet → RegSet) : State :=
  s.modThread o.tile o.thread fun t => t.setRegs o.fill (f (t.regs o.fill))

/-- Who waits for an asynchronous part of the operation; `tk` when it set a ticket. -/
def Op.who (o : Op) : Who :=
  { tile := o.tile, thread := o.thread, fill := o.fill, tk := if wTkten o.w then some (wTkt o.w) else none, opIndex := o.idx }

/-- The space 0x1 form of a tile offset (R37, R107). -/
def tileAddr (t a : Nat) : Nat := 2 ^ 52 + t * 2 ^ 21 + a

/-- A failed check: code, Global address, Detail. -/
structure Chk where
  code : Nat
  addr : Nat
  detail : Nat
  deriving DecidableEq, Repr

/-- The record of a check that fails at an operation (R20, R75, R107). -/
def State.opRec (s : State) (o : Op) (c : Chk) : FaultRec :=
  { code := c.code, ctxFatal := true, locValid := true, ctx := o.ctx, tile := o.tile, superstep := s.superstepOf o.tile,
    addr := c.addr, opIndex := o.idx, detail := c.detail }

/-- No global address. -/
def noAddr : Nat := 0xFFFFFFFFFFFFFFFF

/-! ### Digests and logs of the shadow scheme (R472) -/

/-- The tile forms thread digests: it captures, or it runs a shadow run. -/
def Tile.digesting (t : Tile) : Bool := t.cap.isSome || t.shadow.isSome

/-- `n` bytes of `v` into the digest of thread `th`. -/
def Tile.digestBytes (t : Tile) (th v n : Nat) : Tile :=
  if t.digesting then { t with digest := { rem := mmod crcInit t.digest.rem th fun r => crcBytes r v n } } else t

/-- The shadow run of pool tile `t` for sample `i` ends early: the sample is missed (R473), or, when it was the arbiter's run,
another pool tile takes it (R475). -/
def State.missSample (s : State) (t i : Nat) : State :=
  match s.ras.samples.find? fun y => decide (y.id = i) with
  | none => s
  | some y =>
    if y.arbiter = some t then
      { s.modTile t (fun x => { cfg := {}, err := x.err }) with
        ras := { s.ras with samples := s.ras.samples.map fun z => if z.id = i then { z with arbiter := none } else z } }
    else
      let r := { s.ras with samples := s.ras.samples.filter fun z => !decide (z.id = i), missed := satAdd s.ras.missed 1 0xFFFFFFFFFFFFFFFF }
      { s with ras := r, tiles := mvals {} (fun n x =>
          if x.shadow = some i then { cfg := {}, err := x.err }
          else if n = y.tile ∧ x.cap = some i then { x with cap := none } else x) s.tiles }

/-- Bytes of a log entry. DESIGN CHOICE: a line or a CREAD result takes its offset and its line, a ticket or a decision 8 bytes. -/
def LogEnt.bytes : LogEnt → Nat
  | .line _ _ _ _ => 68
  | .cread _ _ _ _ => 68
  | .ticket _ _ _ _ => 8
  | .decision _ _ => 8
  | .stale _ _ => 0

/-- What an entry of an operation and the one that replaces it in a rerun have in common (R474): the line; the ticket; the CREAD and its
line. -/
def LogEnt.key : LogEnt → Option (Nat × (Nat × Nat × Nat))
  | .line n _ _ true => some (0, n, 0, 0)
  | .ticket th k fill true => some (1, th, k, b2n fill)
  | .cread th i l _ => some (2, th, i, l)
  | _ => none

/-- The entry's place after the start of a rerun (R474): what an operation that is suppressed has produced stays. -/
def LogEnt.restart (e : LogEnt) : LogEnt :=
  match e.key with
  | some (k, y) => .stale k y
  | none => e

/-- An entry takes the place of the first one that it replaces, or stands behind the log (R474). -/
def logAdd (e : LogEnt) : List LogEnt → List LogEnt
  | [] => [e]
  | x :: rest =>
    match x with
    | .stale k y => if e.key = some (k, y) then e :: rest else x :: logAdd e rest
    | _ => x :: logAdd e rest

/-- The log exceeds 4 MiB (R473). -/
def Sample.overflows (x : Sample) : Bool := decide (2 ^ 22 < (x.log.map LogEnt.bytes).sum)

/-- An entry of the input log of the sample that the tile captures (R472); one beyond 4 MiB loses the sample. -/
def State.logInput (s : State) (t : Nat) (e : LogEnt) : State :=
  match (s.tile t).cap with
  | none => s
  | some i =>
    let add (x : Sample) : Sample := if x.id = i then { x with log := logAdd e x.log } else x
    if s.ras.samples.any fun x => decide (x.id = i) && (add x).overflows then s.missSample t i
    else { s with ras := { s.ras with samples := s.ras.samples.map add } }

/-- A line written by an agent other than the tile's threads and engines: logged while the tile computes (R472). -/
def State.landLine (s : State) (t l v : Nat) (poison again : Bool) : State :=
  let s1 := s.modTile t fun x => x.putLine l v poison
  if (s.tile t).phase = .compute then s1.logInput t (.line l v poison again) else s1

/-- A line written by an operation (R472: the digest takes its offset and its content). -/
def State.opLine (s : State) (o : Op) (l v : Nat) (poison : Bool) : State :=
  s.modTile o.tile fun x => (x.putLine l v poison).digestBytes o.thread (l * 64 + v * 2 ^ 32) 68

/-- A narrow write of an operation; the digest takes the line as it then stands. -/
def State.opNarrow (s : State) (o : Op) (a n v : Nat) : State :=
  s.modTile o.tile fun x =>
    let y := x.putNarrow a n v
    y.digestBytes o.thread (a / 64 * 64 + y.line (a / 64) * 2 ^ 32) 68

/-- Lines `l`, `l + 1`, … written by an operation, with their poison marks. -/
def State.opLines (s : State) (o : Op) (l : Nat) : List (Nat × Bool) → State
  | [] => s
  | (v, p) :: rest => (s.opLine o l v p).opLines o (l + 1) rest

/-! ### Detections (R102, R104, R105, R149, R197, R462 to R465) -/

/-- The record of a detection once its rerun's outcome is known (R104, R463); `stopped` is outcome 1. -/
def State.detRecord (s : State) (t : Nat) (d : Detection) (stopped : Bool) : State :=
  let base : FaultRec := { code := 0, retried := true, locValid := true, ctx := s.tileCtx t, tile := t,
                           superstep := s.superstepOf t, opIndex := d.opIndex }
  match d.kind with
  | .parity => s.raise { base with code := 0x0110, addr := tileAddr t (64 * d.place), detail := d.place + b2n stopped * 2 ^ 15 }
  | .cache => s.raise { base with code := 0x0110, detail := d.place + b2n stopped * 2 ^ 15 + 2 ^ 17 }
  | .residue vxe stage => s.raise { base with code := 0x0B01, detail := b2n vxe + 2 * stage + b2n stopped * 2 ^ 8 }

/-- One more transient residue detection of a tile; the eighth marks it (R465). -/
def State.transient (s : State) (t : Nat) : State :=
  let n := (s.tile t).err.transients + 1
  let s1 := s.modTile t fun x => { x with err := { x.err with transients := n } }
  let s2 := { s1 with ras := { s1.ras with transient := satAdd s1.ras.transient 1 0xFFFFFFFF } }
  if n = 8 then s2.retirePending t 2 else s2

/-- The detection that stopped a rerun ends the rerun of the one before it (R104, R463): its record has outcome 1. -/
def State.stopCurrent (s : State) (t : Nat) (d : Detection) : State :=
  match (s.tile t).rerun.current with
  | none => s
  | some c =>
    let s1 := s.detRecord t c true
    match c.kind, d.kind with
    | .residue v _, .residue v' _ => if v = v' then s1 else s1.transient t
    | .residue _ _, _ => s1.transient t
    | _, _ => s1

/-- Both are parity detections of one source and place. -/
def samePlace (c d : Detection) : Bool := decide (c.kind = d.kind) && decide (c.place = d.place)

/-- The detection ends the superstep with the fatal code of its kind: a repeat on the same line or entry, a third parity
error, a mismatch again on the engine whose rerun this is, or no rerun left (R104, R463, R464). -/
def Rerun.fatal (r : Rerun) (d : Detection) : Bool :=
  match d.kind with
  | .residue v _ =>
    decide (2 ≤ r.count) ||
      (match r.current with
        | some c => (match c.kind with | .residue v' _ => decide (v = v') | _ => false)
        | none => false)
  | _ => decide (2 ≤ r.count) || decide (2 ≤ r.parityHits) || (decide (1 ≤ r.count) && r.dets.any fun c => samePlace c d)

/-- The fatal record of a detection (R104, R463). -/
def State.fatalDet (s : State) (t : Nat) (d : Detection) : FaultRec :=
  let n := (s.tile t).rerun.count
  let base : FaultRec := { code := 0, retried := true, ctxFatal := true, locValid := true, ctx := s.tileCtx t, tile := t,
                           superstep := s.superstepOf t, opIndex := d.opIndex }
  match d.kind with
  | .parity => { base with code := 0x0111, addr := tileAddr t (64 * d.place), detail := d.place + n * 2 ^ 15 }
  | .cache => { base with code := 0x0111, detail := d.place + n * 2 ^ 15 + 2 ^ 17 }
  | .residue vxe stage => { base with code := 0x0B02, detail := b2n vxe + 2 * stage + n * 2 ^ 9 }

/-- What a detection writes into the tile's own registers (R113, R151, R198). -/
def TileErr.note (e : TileErr) (d : Detection) : TileErr :=
  match d.kind with
  | .parity => { e with parLine := d.place, parValid := true, parCount := satAdd e.parCount 1 255 }
  | .cache => { e with cacheParCount := satAdd e.cacheParCount 1 255 }
  | .residue vxe _ =>
    if vxe then { e with vxeResidue := satAdd e.vxeResidue 1 255, vxeUpset := none }
    else { e with mxeResidue := satAdd e.mxeResidue 1 255, mxeUpset := none }

/-- A detection on a tile: the operation that needed the line takes no effect; the tile stops issuing until the rerun, or
the superstep ends with a fatal record (R102 Order 1, R104, R463, R464). IN_FILL says where the thread's last fault arose (R265,
R273). On a pool tile the sample is missed, and the
detection counts toward that tile's limits (R473). -/
def State.detect (s : State) (t : Nat) (d : Detection) : State :=
  let s1 := s.modTile t fun x => ({ x with err := x.err.note d } : Tile).modThread d.thread fun th => { th with inFill := d.fill }
  match (s.tile t).shadow with
  | some i =>
    match d.kind with
    | .residue _ _ => (s1.missSample t i).transient t
    | _ => s1.missSample t i
  | none =>
    let r := (s.tile t).rerun
    let s2 := s1.stopCurrent t d
    if r.fatal d then
      let s3 := { s2 with ras := { s2.ras with permanent :=
        match d.kind with | .residue _ _ => satAdd s2.ras.permanent 1 0xFFFF | _ => s2.ras.permanent } }
      let s4 := match d.kind with | .residue _ _ => s3.markTile t 1 | _ => s3
      (s4.modTile t fun x => { x with rerun := { x.rerun with current := none, late := false } }).raise (s.fatalDet t d)
    else
      s2.modTile t fun x => { x with rerun :=
        { x.rerun with pending := true, dets := x.rerun.dets ++ [d], current := some d, fillOnly := d.fill
                       parityHits := x.rerun.parityHits + (match d.kind with | .residue _ _ => 0 | _ => 1) } }

/-- What is saved of thread `n` (R102 Order 4). -/
def Tile.save (t : Tile) (n : Nat) : Saved :=
  let th := t.thread n
  { regs := th.main, halted := decide (th.st = .halted), blocks := t.blocks.filter fun kv => decide (kv.1 / 4 = n)
    cache := t.cache.filter fun kv => decide (kv.1 / 16 = n), norms := t.norms.filter fun kv => decide (kv.1 / 4 = n) }

/-- The tile starts the superstep that is released to it: what it saves, and what a sample captures of it, holds the work of the fill
operation that it has finished first (R47, R102, R470). -/
def Tile.startLate (t : Tile) : Tile :=
  { (List.range 4).foldl (fun x n => x.modThread n fun th => { th with saved := t.save n }) t with rerun := {}, digest := {} }

def State.startLate (s : State) (t : Nat) : State :=
  let y := (s.tile t).startLate
  let s1 := s.setTile t y
  { s1 with ras := { s1.ras with samples := s1.ras.samples.map fun x => if y.cap = some x.id then { x with image := y, log := [] } else x } }

/-- The rerun in progress has completed: the record of its detection, with outcome 0 (R102 Order 7, R104, R463). -/
def State.rerunOk (s : State) (t : Nat) : State :=
  match (s.tile t).rerun.current with
  | none => s
  | some d =>
    let s1 := s.detRecord t d false
    let s2 := match d.kind with | .residue _ _ => s1.transient t | _ => s1
    if (s.tile t).rerun.late then s2.startLate t else s2.modTile t fun x => { x with rerun := { x.rerun with current := none } }

/-! ### Global addresses (R37, R43) -/

/-- Bits that R37 marks zero are zero, for a space that is not reserved. -/
def gZeroOk (a : Nat) : Bool :=
  match gSpace a with
  | 0 => decide (bits a 40 12 = 0)
  | 1 => decide (bits a 34 18 = 0)
  | 2 => decide (bits a 40 4 = 0) && decide (a < 2 ^ 56) && (match gPeerSpace a with
      | 3 => decide (bits a 19 21 = 0) && decide (bits a 0 3 = 0)
      | _ => true)
  | 3 => decide (bits a 19 33 = 0) && decide (bits a 0 3 = 0)
  | 15 => decide (bits a 32 20 = 0)
  | _ => false

def gReserved (a : Nat) : Bool := decide (4 ≤ gSpace a) && decide (gSpace a ≤ 14)

/-- A counter address is valid for the context: its ID lies within the counter table (R39, R276). -/
def State.vidOk (s : State) (c vid : Nat) : Bool := (s.ctx c).tableValid && decide (vid < 256 * (s.ctx c).blocks)

/-- The check of a global operand of a tile operation in space 0x0: its reason of R107, if it fails (R43, R74, R349). -/
def State.checkHbm (s : State) (c a lines : Nat) : Option Nat :=
  if gReserved a then some 1
  else if !gZeroOk a then some 2
  else if gSpace a ≠ 0 then some 4
  else if (a + 64 * (lines - 1)) / 65536 ≥ (s.ctx c).fmFrames then some 3
  else none

/-! ### The accesses of an operation (R70, R71, R97) -/

/-- What an operand field reaches. -/
inductive Reach where
  /-- Tile memory: lines, required alignment, whether read and whether written. -/
  | tile (lines align : Nat) (rd wr : Bool)
  /-- HBM: lines of space 0x0. -/
  | hbm (lines : Nat)
  /-- A global operand whose own test has been made: the reason of R107, if it fails. -/
  | global (bad : Option Nat)
  deriving DecidableEq, Repr

/-- One operand access: field 0 OPD, 1 OPA, 2 OPB; its POSTINC footprint; what it reaches; the consumer of poison (R483), 0
where the mark is carried or the line is not read. -/
structure OpAcc where
  fld : Nat
  foot : Nat
  reach : Reach
  consumer : Nat := 0
  deriving DecidableEq, Repr

def Op.ea (o : Op) (fld : Nat) : Nat := match fld with | 0 => o.d | 1 => o.a | _ => o.b
def opField (w fld : Nat) : Nat := match fld with | 0 => wOpd w | 1 => wOpa w | _ => wOpb w

/-- The first test of R97 that a run of lines of tile memory fails. -/
def Tile.checkLines (t : Tile) (n th ea lines align : Nat) (rd wr fetch : Bool) : Option Chk :=
  let l0 := ea / 64
  let at_ := tileAddr n ea
  if 0x200000 ≤ ea || decide (0x200000 < (l0 + lines) * 64) then some ⟨0x0105, ea, 5⟩
  else if ea % align ≠ 0 then some ⟨0x0106, at_, align⟩
  else match (List.range lines).find? (fun j => !t.powered (l0 + j)) with
  | some j => some ⟨0x0109, at_, (l0 + j) / 1024⟩
  | none =>
  match (List.range lines).find? (fun j => !t.declared (l0 + j)) with
  | some j => some ⟨0x0102, at_, l0 + j⟩
  | none =>
  match (if fetch then (List.range lines).find? (fun j => !t.mayFetch th (l0 + j))
         else if rd then (List.range lines).find? (fun j => !t.mayRead th (l0 + j)) else none) with
  | some j => some ⟨0x0103, at_, l0 + j + (if fetch then 2 else 0) * 2 ^ 15⟩
  | none =>
  match (if wr then (List.range lines).find? (fun j => !t.mayWrite th (l0 + j)) else none) with
  | some j =>
    if t.writersOf (l0 + j) = 0 then some ⟨0x0103, at_, l0 + j + 2 ^ 15⟩
    else some ⟨0x0104, at_, l0 + j + t.writersOf (l0 + j) * 2 ^ 16⟩
  | none => none

/-- The check of one access. -/
def State.checkAcc (s : State) (o : Op) (x : OpAcc) : Option Chk :=
  let ea := o.ea x.fld
  match x.reach with
  | .tile lines align rd wr => (s.tile o.tile).checkLines o.tile o.thread ea lines align rd wr false
  | .hbm lines =>
    match s.checkHbm o.ctx ea lines with
    | some r => some ⟨0x0105, ea, r⟩
    | none => if ea % 64 ≠ 0 then some ⟨0x0106, ea, 64⟩ else none
  | .global bad => bad.map fun r => ⟨0x0105, ea, r⟩

/-- The first access that fails, in the order OPD, OPA, OPB (R75): the accesses are listed so. -/
def State.checkAccs (s : State) (o : Op) : List OpAcc → Option Chk
  | [] => none
  | x :: xs => match s.checkAcc o x with
    | some c => some c
    | none => s.checkAccs o xs

/-- Lines that an access reads. -/
def readLines (o : Op) (x : OpAcc) : List Nat :=
  match x.reach with
  | .tile lines _ true _ => (List.range lines).map fun j => o.ea x.fld / 64 + j
  | _ => []

/-- Lines that an access reads or writes. -/
def touchedLines (o : Op) (x : OpAcc) : List Nat :=
  match x.reach with
  | .tile lines _ _ _ => (List.range lines).map fun j => o.ea x.fld / 64 + j
  | _ => []

/-- The first line that the accesses read with a parity error. -/
def Tile.firstBad (t : Tile) (o : Op) (xs : List OpAcc) : Option Nat := (xs.flatMap (readLines o)).find? t.parityBad

/-- The first poisoned line that the accesses consume, with its consumer (R482). -/
def Tile.firstPoison (t : Tile) (o : Op) (xs : List OpAcc) : Option (Nat × Nat) :=
  (xs.flatMap fun x => if x.consumer = 0 then [] else (readLines o x).map fun l => (l, x.consumer)).find? fun lc => t.poisoned lc.1

/-- POSTINC of every field that has it (R71). -/
def State.postInc (s : State) (o : Op) (xs : List OpAcc) : State :=
  xs.foldl (fun s x =>
    let f := opField o.w x.fld
    if fPost f then s.modRegs o fun r => r.setA (fReg f) (r.getA (fReg f) + x.foot) else s) s

/-! ### Stream position (R68, R78, R81) -/

/-- The set after the position moves to `pos`: bodies that end there run again or end (R78). -/
def endBodies (r : RegSet) : List LoopEnt → Nat → RegSet
  | [], pos => { r with loops := [], pos := pos }
  | l :: ls, pos =>
    if pos = l.stop then
      let k := r.getK l.ctr - 1
      let r1 := r.setK l.ctr k
      if k = 0 then endBodies r1 ls pos
      else { r1 with loops := { l with looped := true } :: ls, pos := l.start,
                     fetched := if l.stop - l.start ≤ 16 && !l.nested then r1.fetched else 0 }
    else { r with loops := l :: ls, pos := pos }

/-- The position moves to `pos`. -/
def RegSet.goTo (r : RegSet) (pos : Nat) : RegSet := endBodies r r.loops pos

/-- A LOOP has issued in the body of every active loop: none of them is innermost (R81). -/
def RegSet.markNested (r : RegSet) : RegSet := { r with loops := r.loops.map fun l => { l with nested := true } }

/-- The next operation comes from the loop buffer (R81). -/
def RegSet.buffered (r : RegSet) : Bool :=
  match r.loops with
  | l :: _ => l.looped && !l.nested && decide (l.stop - l.start ≤ 16)
  | [] => false

/-! ### Fill work (R263 to R268) -/

/-- The entry that thread `th` runs or will run next, with its index (R265). -/
def Tile.fillCur (t : Tile) (th : Nat) : Option (Nat × FillEnt) :=
  match t.fillList with
  | none => none
  | some fl =>
    let c := (t.thread th).fillEntry
    match (List.range fl.ents.length).find? (fun i => decide (c ≤ i) && (fl.ents[i]?.any fun e => decide (e.thread = th))) with
    | none => none
    | some i => fl.ents[i]?.map fun e => (i, e)

/-- The exchange port runs: the tile is in its exchange phase and no detection has stopped it (R102 Order 1). A rerun of a fill
operation alone stops no port (R105). -/
def Tile.portRuns (t : Tile) : Bool := decide (t.phase = .exchange) && !(t.rerun.pending && !t.rerun.fillOnly)

/-- The receiving port matches requests: the list of the superstep stands, and no detection has stopped the port (R102, R244, R249). A
request that finds it otherwise is held. -/
def Tile.portMatches (t : Tile) : Bool := decide (t.phase ≠ .compute) && t.xLoaded && !(t.rerun.pending && !t.rerun.fillOnly)

/-- The tile issues fill work: it has signalled, or a release has left it an operation in hand (R47), or it must finish a list before it
signals (R267, R268), once its exchange list is complete. A rerun of the superstep, which the list's sends can still start, then never
takes fill work back, as R106 wants (DEDUCED, log entry 144). -/
def Tile.fillTime (t : Tile) : Bool :=
  match t.phase with
  | .compute => t.rerun.late
  | .signalled => true
  | .exchange => t.rerun.late || ((t.xDrain || t.fillSwap) && t.xLoaded && t.xList.all fun e => decide (e.st = .done))

/-- What the tile issues is fill work: outside its compute phase, and while it finishes the fill operation in hand. -/
def Tile.asFill (t : Tile) : Bool := decide (t.phase ≠ .compute) || t.rerun.late

/-- The thread has fill work to issue: an operation of its segment, or the first one of its next segment, whose tickets are idle at its
start (R65, R265), once every ticket of the segment before it is idle (R268, R270; DEDUCED, log entry 140). While the operation in hand
at a release is finished no other thread issues. -/
def Tile.mayFill (t : Tile) (th : Nat) : Bool :=
  (t.fillCur th).isSome && ((t.thread th).fillOn || (t.thread th).fill.ticketsIdle) &&
    (!t.rerun.late || t.rerun.current.any fun d => decide (d.thread = th))

/-- A segment that has not started starts with the set of R65 and a1 (R265). -/
def Tile.startFill (t : Tile) (th : Nat) : Tile :=
  match t.fillCur th with
  | none => t
  | some (i, e) =>
    if (t.thread th).fillOn then t
    else t.modThread th fun x => { x with fill := RegSet.start.setA 1 e.a1, fillEntry := i, fillOn := true }

/-- The position of a fill set has moved: the segment ends when it reaches OPS (R265). -/
def Tile.endFill (t : Tile) (th : Nat) : Tile :=
  match t.fillCur th with
  | none => t
  | some (i, e) =>
    if (t.thread th).fillOn && decide (e.ops ≤ (t.thread th).fill.pos) then
      t.modThread th fun x => { x with fillOn := false, fillEntry := i + 1 }
    else t

/-- Every thread has run its entries, with every fill ticket idle (R268). -/
def Tile.fillDone (t : Tile) : Bool :=
  (List.range 4).all fun th => (t.fillCur th).isNone && (t.thread th).fill.ticketsIdle

/-- The next list becomes current once the one before it is finished: its cursors are at entry 0 (R268). -/
def Tile.fillView (t : Tile) : Tile :=
  if t.fillSwap && t.fillDone then
    { t with fillList := t.fillNext, fillNext := none, fillSwap := false,
             threads := mvals {} (fun _ x => { x with fillEntry := 0, fillOn := false }) t.threads }
  else t

/-! ### Issue (R75, R76, R82, R84) -/

/-- The tile and the thread can issue an operation now, as main work or as fill work. -/
def State.issues (s : State) (tile th : Nat) : Bool :=
  let t := (s.tile tile).fillView
  s.tileRuns tile && !t.rerun.pending && !(t.thread th).stopped &&
    if t.asFill then t.fillTime && t.mayFill th else decide ((t.thread th).st = .issuing)

/-- The operation at the thread, with its effective addresses (R70). -/
def State.opAt (s : State) (tile th w : Nat) : Op :=
  let fill := (s.tile tile).asFill
  let r := (s.thread tile th).regs fill
  { tile := tile, thread := th, w := w, fill := fill, ctx := s.tileCtx tile, idx := r.pos, pre := r
    d := effAddr (r.getA (fReg (wOpd w))) (wOpd w), a := effAddr (r.getA (fReg (wOpa w))) (wOpa w)
    b := effAddr (r.getA (fReg (wOpb w))) (wOpb w) }

/-- WAIT and TKT let the operation issue (R82). -/
def RegSet.ready (r : RegSet) (w : Nat) : Bool :=
  ((List.range 8).all fun i => !(bit (wWait w) i && r.busy i)) && !(wTkten w && r.busy (wTkt w))

/-- The operation executes (R76). -/
def RegSet.executes (r : RegSet) (w : Nat) : Bool := (r.getP (wPred w)).xor (wPneg w)

/-- The stream line that holds the operation, and whether it has to be fetched (R81, R265). -/
def State.fetchLineOf (s : State) (o : Op) : Nat × Bool :=
  let t := s.tile o.tile
  let base := if o.fill then (match t.fillCur o.thread with | some (_, e) => e.startLine | none => 0)
              else mget 0 t.cfg.startLine o.thread
  let l := base + o.idx / 4
  (l, !(s.regs o).buffered && decide ((s.regs o).fetched ≠ l + 1))

/-- What an effect answers. -/
inductive Eff where
  /-- The operation has its effect. -/
  | done (s : State)
  /-- A condition found only by the operation's own reads fails it (R75). -/
  | refuse (c : Chk)
  /-- The operation waits (R46): the command is turned away. -/
  | wait
  /-- A detection stops it (R100, R149, R160, R197). -/
  | detect (d : Detection)

/-- The definition of an operation for the pipeline below. -/
structure OpSpec where
  enc : State → Op → Enc
  accs : State → Op → List OpAcc := fun _ _ => []
  /-- Conditions of the operation's own definition at issue (R75 step 3). -/
  own : State → Op → Option Chk := fun _ _ => none
  /-- Conditions that keep it from issuing while it executes (R84, R88, R207): they are tested before any check. -/
  hold : State → Op → Bool := fun _ _ => false
  effect : State → Op → Eff
  /-- The position after it is the effect's own. -/
  jumps : Bool := false
  /-- LOOP: its own conditions are tested whether or not it executes, and it skips its body when it does not (R77, R79). -/
  isLoop : Bool := false

/-- A fill operation that was running again has ended (R105). -/
def State.fillRerunOk (s : State) (o : Op) : State :=
  match (s.tile o.tile).rerun.current with
  | some d => if d.fill && decide (d.thread = o.thread) && decide (d.opIndex = o.idx) then s.rerunOk o.tile else s
  | none => s

/-- The position moves behind the operation. -/
def State.advance (s : State) (o : Op) (n : Nat) : State :=
  let s1 := s.modRegs o fun r => r.goTo (o.idx + n)
  if o.fill then (s1.modTile o.tile fun t => t.endFill o.thread).fillRerunOk o else s1

/-- The fault record of an operation, after which its thread issues nothing further (R75). On a pool tile nothing leaves
the shadow run: the sample is missed (DESIGN CHOICE). -/
def State.opFault (s : State) (o : Op) (c : Chk) : State :=
  match (s.tile o.tile).shadow with
  | some i => s.missSample o.tile i
  | none => (s.modThread o.tile o.thread fun t => { t with stopped := true, inFill := o.fill }).raise (s.opRec o c)

/-- A detection of an operation. -/
def Op.det (o : Op) (k : DetKind) (place : Nat) : Detection :=
  { kind := k, place := place, thread := o.thread, opIndex := o.idx, fill := o.fill }

/-- The line of the operation is in the thread's hands; the digest takes the operation (R472). -/
def State.begun (s : State) (o : Op) (l : Nat) (executes : Bool) : State :=
  (s.modRegs o fun r => { r with fetched := l + 1 }).modTile o.tile fun t =>
    t.digestBytes o.thread (o.idx + b2n executes * 2 ^ 31) 4

/-- An operation past its checks: POSTINC, ticket, effect, position. -/
def runEffect (sp : OpSpec) (o : Op) (l : Nat) (s : State) : Eff :=
  match sp.effect (((s.begun o l true).postInc o (sp.accs s o))) o with
  | .done s1 => .done (if sp.jumps then s1 else s1.advance o 1)
  | e => e

/-- The operation at `o`, its stream line fetched from `l`: what keeps it from issuing, then its encoding, then execution, in the order
of R75. -/
def runChecked (sp : OpSpec) (o : Op) (l : Nat) (s : State) : Eff :=
  let e := sp.enc s o
  let off := !(e.always || (s.regs o).executes o.w)
  if !off && sp.hold s o then .wait
  else match encReason e o.w with
  | some r => .refuse ⟨0x0101, noAddr, r⟩
  | none =>
  match (if sp.isLoop then sp.own s o else none) with
  | some c => .refuse c
  | none =>
  if off then
    if sp.isLoop then .done (((s.begun o l false).modRegs o RegSet.markNested).advance o (1 + wLen o.w))
    else .done ((s.begun o l false).advance o 1)
  else match s.checkAccs o (sp.accs s o) with
  | some c => .refuse c
  | none =>
  match (if sp.isLoop then none else sp.own s o) with
  | some c => .refuse c
  | none =>
  if (sp.accs s o).any (fun x => (touchedLines o x).any fun l =>
      (s.tile o.tile).pendingLines.any fun p => decide (p.2.1 = o.thread) && decide (p.2.2 = l)) then .wait
  else match (s.tile o.tile).firstBad o (sp.accs s o) with
  | some l' => .detect (o.det .parity l')
  | none =>
  match (s.tile o.tile).firstPoison o (sp.accs s o) with
  | some (l', k) => .refuse ⟨0x0901, tileAddr o.tile (64 * l'), l' + k * 2 ^ 15⟩
  | none => runEffect sp o l s

/-- The operation at `o`: fetch of its stream line (R81, R97), then the rest. -/
def runFetched (sp : OpSpec) (o : Op) (s : State) : Eff :=
  match s.fetchLineOf o with
  | (l, false) => runChecked sp o l s
  | (l, true) =>
    match (s.tile o.tile).checkLines o.tile o.thread (64 * l) 1 64 false false true with
    | some c => .refuse c
    | none =>
      if (s.tile o.tile).parityBad l then .detect (o.det .parity l)
      else if (s.tile o.tile).poisoned l then .refuse ⟨0x0901, tileAddr o.tile (64 * l), l + 3 * 2 ^ 15⟩
      else runChecked sp o l s

/-- The state in which an operation issues: a fill segment that has not started starts. -/
def State.issueState (s : State) (tile th : Nat) : State :=
  if (s.tile tile).phase = .compute then s else s.modTile tile fun t => t.fillView.startFill th

/-- The decision at one tile of the context (R208). -/
def Tile.decided (t : Tile) (n : Nat) (commit : Bool) : Tile :=
  if t.gate = .wait && decide (t.gateStep = n) then { t with gate := if commit then .commit else .skip } else t

/-- Thread `th` of a shadow run waits. -/
def Tile.noteWait (t : Tile) (th : Nat) : Tile := { t with digest := { t.digest with waits := setBit t.digest.waits th true } }

/-- No thread of the shadow run can issue before the next input. -/
def Tile.allWait (t : Tile) : Bool :=
  (List.range 4).all fun n => t.digest.waits.testBit n || decide ((t.thread n).st ≠ .issuing) || (t.thread n).stopped

/-- An entry of the log at the pool tile (R472): a line, a ticket becoming idle, a CREAD result, a decision. A ticket that is not busy,
or a CREAD that has not been issued, is not reached. -/
def Tile.replay (t : Tile) : LogEnt → Option Tile
  | .line l v p _ => some (t.putLine l v p)
  | .ticket th k fill _ =>
    if ((t.thread th).regs fill).busy k then some (t.modThread th fun y => y.setRegs fill ((y.regs fill).setBusy k false)) else none
  | .cread th _ l v =>
    if t.pendingLines.any fun p => decide (p.2.1 = th) && decide (p.2.2 = l) then
      some { t.putLine l v false with pendingLines := t.pendingLines.filter fun p => !(decide (p.2.1 = th) && decide (p.2.2 = l)) }
    else none
  | .decision c n => some (t.decided n c)
  | .stale _ _ => some t

/-- An operation waits. A pool tile all of whose threads wait applies the next entry of its log (R472): no input comes before an operation
that does not depend on it. Any other tile just waits. -/
def State.waitOrReplay (s : State) (tile th : Nat) : Host.Outcome State Fault Refusal :=
  match s.shadowOf tile with
  | none => turnedAway s
  | some x =>
    let t := (s.tile tile).noteWait th
    if t.allWait then
      match (x.log[t.logPos]?).bind t.replay with
      | some y => .next (s.setTile tile { y with logPos := t.logPos + 1, digest := { t.digest with waits := 0 } })
      | none => .next (s.setTile tile t)
    else .next (s.setTile tile t)

/-- A tile operation. -/
def runOp (i : Instr) (tile th : Nat) (w : BitVec 128) (sp : OpSpec) (s : State) : Host.Outcome State Fault Refusal :=
  guardWf i <|
    if s.issues tile th then
      let s0 := s.issueState tile th
      let o := s0.opAt tile th w.toNat
      if (s0.regs o).ready o.w then
        match runFetched sp o s0 with
        | .done s1 => .next s1
        | .refuse c => .next (s0.opFault o c)
        | .wait => s.waitOrReplay tile th
        | .detect d => .next (s0.detect o.tile d)
      else s.waitOrReplay tile th
    else turnedAway s

/-! ### Suppression of effects in a rerun (R103) -/

/-- An operation with an effect outside the tile (R103): whether it is suppressed, and the state that has counted it. On a
pool tile every such effect is suppressed (R469), and the digest takes the target and the content (R472). -/
def State.outside (s : State) (o : Op) (target content n : Nat) : Bool × State :=
  let s1 := s.modTile o.tile fun t => (t.digestBytes o.thread target 8).digestBytes o.thread content n
  let th := s.thread o.tile o.thread
  if (s.tile o.tile).shadow.isSome then (true, s1)
  else if o.fill then (false, s1)
  else if 0 < th.suppressOut then
    (true, s1.modThread o.tile o.thread fun t => { t with suppressOut := t.suppressOut - 1, outOps := t.outOps + 1 })
  else (false, s1.modThread o.tile o.thread fun t => { t with outOps := t.outOps + 1 })

/-- The operation's ticket turns busy, when it names one (R82). -/
def State.takeTicket (s : State) (o : Op) : State :=
  if wTkten o.w then s.modRegs o fun r => r.setBusy (wTkt o.w) true else s

/-- The ticket of an asynchronous operation: a suppressed operation of a rerun sets and clears it (R103); on a pool tile it
stays busy until its log entry (R472). -/
def State.asyncTicket (s : State) (o : Op) (suppressed : Bool) : State :=
  if suppressed && (s.tile o.tile).shadow.isNone then s else s.takeTicket o

/-- A ticket turns idle on completion (R82); a sampled tile logs it (R472). -/
def State.freeTicket (s : State) (w : Who) (again : Bool) : State :=
  match w.tk with
  | none => s
  | some k =>
    (s.modThread w.tile w.thread fun t => t.setRegs w.fill ((t.regs w.fill).setBusy k false)).logInput w.tile (.ticket w.thread k w.fill again)

/-- A fresh number for an item in flight. -/
def State.fresh (s : State) : State := { s with nextId := s.nextId + 1 }

/-! ### Accesses to space 0x0 (R82, R346 to R353) -/

/-- The line accesses of a group, from `va` on, with their ids from `id` on. -/
def accessList (stamp : Nat) (src : Src) (ctx op : Nat) (write snap : Bool) (id idx va : Nat) : List (Nat × Bool) → List Access
  | [] => []
  | (v, p) :: rest =>
    { id := id, src := src, ctx := ctx, op := op, idx := idx, vaddr := va, write := write, data := v, poison := p, snap := snap,
      phys := 0, stage := .toSlice, stamp := stamp } :: accessList stamp src ctx op write snap (id + 1) (idx + 1) (va + 64) rest

/-- A group of accesses leaves its source in VC1 in ascending order with a stamp: for a write the lines with their poison marks, for
a read as many entries as lines asked for. -/
def State.issueMemAt (s : State) (stamp : Nat) (kind : MemOpKind) (src : Src) (ctx va : Nat) (write snap : Bool)
    (lines : List (Nat × Bool)) : State :=
  let op := s.nextId
  { s with
    nextId := s.nextId + 1 + lines.length
    hbm := { s.hbm with
      ops := s.hbm.ops ++ [{ id := op, kind := kind, src := src, ctx := ctx, write := write, left := lines.length, refused := none, meshBad := false }]
      accs := s.hbm.accs ++ accessList stamp src ctx op write snap (op + 1) 0 va lines } }

/-- A group of accesses is injected here and now (R315). -/
def State.issueMem (s : State) (kind : MemOpKind) (src : Src) (ctx va : Nat) (write snap : Bool) (lines : List (Nat × Bool)) :
    State :=
  s.issueMemAt s.stampNow kind src ctx va write snap lines

end Sys2Proof.Machine
end

