-- ==== Sys2Proof/Machine/HbmLines.lean ====
section
/-! DEFINITION. HBM as lines (R342 to R344, R350, R360, R468): the physical layout, stored lines, the Frame Map's entries, the staging slots and the trace
buffer. -/

namespace Sys2Proof.Machine

/-! ### Physical layout (R343, R344) -/

/-- N: physical frames (R343). -/
def Pln.physFrames (p : Pln) : Nat := if p.fuses.ordering = 0 then 9437184 else 12582912

/-- The half of a physical frame: 0 for D4, 1 for D5. -/
def Pln.half (p : Pln) (frame : Nat) : Nat := if frame < p.physFrames / 2 then 0 else 1

/-- The power domain of a physical frame. -/
def Pln.frameDom (p : Pln) (frame : Nat) : Nat := 4 + p.half frame

/-- The channel of a physical line (R343). -/
def Pln.channel (p : Pln) (line : Nat) : Nat :=
  let h := p.half (line / 1024)
  192 * h + (256 * (line / 1024 - h * (p.physFrames / 2)) + line % 1024 / 4) % 192

/-! ### Stored lines (R360 to R364) -/

def State.hbmLine (s : State) (line : Nat) : Nat := memRead s.hbm.mem (64 * line) 64
def State.hbmPoisoned (s : State) (line : Nat) : Bool := mget false s.hbm.poison line

/-- A line is stored: with the poison encoding when it is marked, with its data otherwise (R360, R363). -/
def State.storeLine (s : State) (line v : Nat) (poison : Bool) : State :=
  { s with hbm := { s.hbm with
      mem := memWrite s.hbm.mem (64 * line) 64 (if poison then 0 else v)
      poison := mset false s.hbm.poison line poison
      bad := mset none s.hbm.bad line none } }

/-- The window of the firmware system context: the last 32,768 entries, one for each frame of the system region, in order. DESIGN CHOICE
(log entry 150): R344 says that the region is mapped in the window, not where. -/
def sysBase : Nat := 16744448
def sysFrames : Nat := 32768

/-- The entry that boot wrote for the firmware's window, while nothing has changed it. -/
def Hbm.sysEntry (h : Hbm) (i : Nat) : Option FEntry :=
  if h.sysMapped && decide (sysBase ≤ i) && decide (i < sysBase + sysFrames) && !mget false h.sysGone i then
    some { valid := true, rd := true, wr := true, ctx := 16, pframe := 4096 + (i - sysBase) }
  else none

/-- Entry `i` of the Frame Map. -/
def Hbm.entry (h : Hbm) (i : Nat) : FEntry := (h.sysEntry i).getD (mget {} h.fmap i)

/-- The Frame Map entry that names a physical frame, as its frame or as its snapshot copy. -/
def Hbm.entryOfFrame (h : Hbm) (frame : Nat) : Option (Nat × FEntry) :=
  match h.fmap.find? fun kv => kv.2.valid && (decide (kv.2.pframe = frame) || (kv.2.scopied && decide (kv.2.sframe = frame))) with
  | some kv => some kv
  | none =>
    if 4096 ≤ frame then (h.sysEntry (sysBase + (frame - 4096))).map fun e => (sysBase + (frame - 4096), e) else none

/-- The POISON bit of the granule of a physical line, in an entry (R350). -/
def FEntry.markGranule (e : FEntry) (line : Nat) : FEntry := { e with poison := setBit e.poison (line % 1024 / 16) true }

def State.modEntry (s : State) (i : Nat) (f : FEntry → FEntry) : State :=
  { s with hbm := { s.hbm with
      fmap := mset {} s.hbm.fmap i (f (s.hbm.entry i))
      sysGone := if (s.hbm.sysEntry i).isSome then mset false s.hbm.sysGone i true else s.hbm.sysGone } }

/-! ### Staging slots (R344, R576) -/

/-- The virtual address of byte `off` of the staging slot of context `c` (R576 Order 2). -/
def State.slotAddr (s : State) (c off : Nat) : Nat := (s.pln.stagingFirst + 768 * c) * 65536 + off

/-- The lines of the bytes from `lo` to `hi` of the image `m` of context `c` leave for its staging slot, through the slices (R351, R576
Order 2). The path is that of Armature core 0 (DESIGN CHOICE, log entry 150). -/
def State.putStaged (s : State) (c : Nat) (m : Memory) (lo hi : Nat) : State :=
  s.issueMem (.stage c) (.arm 0) 16 (s.slotAddr c (lo / 64 * 64)) true false
    ((List.range ((hi + 63) / 64 - lo / 64)).map fun j => (memRead m (64 * (lo / 64 + j)) 64, false))

/-- Every line of the image has reached its point of visibility, or been refused. -/
def State.slotFilled (s : State) (c : Nat) : Bool := !s.hbm.ops.any fun o => decide (o.kind = .stage c)

/-! ### The trace buffer (R468, R470) -/

/-- Lines from `l` on of entry `n` of the trace buffer, which tile `t` writes through the slices (R351, R469). DESIGN CHOICE (log entry
152): an entry takes 128 frames. -/
def State.putTrace (s : State) (t n l : Nat) (vs : List (Nat × Bool)) : State :=
  s.issueMem (.trace n) (.tile t) 16 ((bits s.ras.trace 0 24 + 128 * n) * 65536 + 64 * l) true false vs

/-- Every write into the entry has its acknowledgement. -/
def State.traceQuiet (s : State) (n : Nat) : Bool := !s.hbm.ops.any fun o => decide (o.kind = .trace n)

/-- Every capture write of the tile has its acknowledgement (R469 Order 3). -/
def State.captured (s : State) (t : Nat) : Bool :=
  !s.hbm.ops.any fun o => decide (o.src = .tile t) && (match o.kind with | .trace _ => true | _ => false)

end Sys2Proof.Machine
end

