-- ==== Sys2Proof/Machine/Grain.lean ====
section
/-! DEFINITION. The Grain generator of R187. -/

namespace Sys2Proof.Machine

/-- Round key r of R187, `K` the 128-bit seed. -/
def grainKey (K r : Nat) : Nat := (bits K (32 * (r % 4)) 32 + r * 0x9E3779B9) % 2 ^ 32

/-- The four words of a Grain state. -/
structure GrainState where
  a : Nat
  b : Nat
  c : Nat
  d : Nat
  deriving DecidableEq, Repr

/-- One round of R187 with round key `k`. -/
def grainRound (k : Nat) (g : GrainState) : GrainState :=
  let a := (g.a + g.b) % 2 ^ 32
  let d := rotl32 (g.d ^^^ a) 16
  let c := (g.c + d) % 2 ^ 32
  let b := rotl32 (g.b ^^^ c) 12
  let a := a ^^^ k
  ⟨b, c, d, a⟩

/-- Rounds r to 7 of R187. -/
def grainRounds (K : Nat) : List Nat → GrainState → GrainState
  | [], g => g
  | r :: rs, g => grainRounds K rs (grainRound (grainKey K r) g)

/-- grain(K, s, t, i) of R187. -/
def grain (K s t i : Nat) : Nat :=
  let g := grainRounds K [0, 1, 2, 3, 4, 5, 6, 7]
    ⟨bits s 0 32, bits s 32 32, t % 2 ^ 32, i % 2 ^ 32⟩
  g.a ^^^ g.b ^^^ g.c ^^^ g.d

end Sys2Proof.Machine
end

