-- ==== Sys2Proof/Machine/Fp.lean ====
section
/-! DEFINITION. Exact arithmetic on dyadic numbers and its one rounding into a format: the formats of R121 and R166,
the roundings of R169, R621 and R171, and IEEE 754 arithmetic as R161 asks for it. Every operation is exact first and is
narrowed once at the end. -/

namespace Sys2Proof.Machine

/-- A floating value: NaN, an infinity, or (−1)^neg × m × 2^e exactly (m = 0 is a signed zero). -/
inductive FVal where
  | nan
  | inf (neg : Bool)
  | fin (neg : Bool) (m : Nat) (e : Int)
  deriving DecidableEq, Repr

/-- How a format uses its top exponent code. -/
inductive Specials where
  /-- IEEE 754: infinities and NaNs. -/
  | ieee
  /-- FP8 E4M3: the one NaN S.1111.111, no infinity. -/
  | e4m3
  /-- FP6 and FP4: neither. -/
  | none
  deriving DecidableEq, Repr

/-- A binary floating format: exponent and significand field widths, bias, special encodings (R121, R166). -/
structure FloatFmt where
  expBits : Nat
  manBits : Nat
  bias : Nat
  spec : Specials
  deriving DecidableEq, Repr

def fp32 : FloatFmt := ⟨8, 23, 127, .ieee⟩
def fp64 : FloatFmt := ⟨11, 52, 1023, .ieee⟩
def bf16 : FloatFmt := ⟨8, 7, 127, .ieee⟩
def fp16 : FloatFmt := ⟨5, 10, 15, .ieee⟩
def fp8e4m3 : FloatFmt := ⟨4, 3, 7, .e4m3⟩
def fp8e5m2 : FloatFmt := ⟨5, 2, 15, .ieee⟩
def fp6e3m2 : FloatFmt := ⟨3, 2, 3, .none⟩
def fp6e2m3 : FloatFmt := ⟨2, 3, 1, .none⟩
def fp4e2m1 : FloatFmt := ⟨2, 1, 1, .none⟩

/-- Width of an encoding in bits. -/
def FloatFmt.width (f : FloatFmt) : Nat := 1 + f.expBits + f.manBits

/-- The exponent of the least significant bit of the subnormals. -/
def FloatFmt.qmin (f : FloatFmt) : Int := 1 - (f.bias : Int) - (f.manBits : Int)

/-- The largest finite magnitude as (significand, exponent). -/
def FloatFmt.maxFin (f : FloatFmt) : Nat × Int :=
  match f.spec with
  | .ieee => (2 ^ (f.manBits + 1) - 1, f.qmin + ((2 ^ f.expBits - 3 : Nat) : Int))
  | .e4m3 => (2 ^ (f.manBits + 1) - 2, f.qmin + ((2 ^ f.expBits - 2 : Nat) : Int))
  | .none => (2 ^ (f.manBits + 1) - 1, f.qmin + ((2 ^ f.expBits - 2 : Nat) : Int))

/-- The canonical NaN (R140, R161); formats without a NaN give zero (R171). -/
def FloatFmt.canonNaN (f : FloatFmt) : Nat :=
  match f.spec with
  | .ieee => (2 ^ f.expBits - 1) * 2 ^ f.manBits + 2 ^ (f.manBits - 1)
  | .e4m3 => 2 ^ (f.expBits + f.manBits) - 1
  | .none => 0

/-- The encoding of an infinity in a format that has one. -/
def FloatFmt.infBits (f : FloatFmt) (neg : Bool) : Nat :=
  b2n neg * 2 ^ (f.expBits + f.manBits) + (2 ^ f.expBits - 1) * 2 ^ f.manBits

/-- The value that an encoding stands for (R121: subnormals have their exact values). -/
def decodeF (f : FloatFmt) (n : Nat) : FVal :=
  let neg := bit n (f.expBits + f.manBits)
  let ex := bits n f.manBits f.expBits
  let man := bits n 0 f.manBits
  let top := 2 ^ f.expBits - 1
  if f.spec = .ieee ∧ ex = top then (if man = 0 then .inf neg else .nan)
  else if f.spec = .e4m3 ∧ ex = top ∧ man = 2 ^ f.manBits - 1 then .nan
  else if ex = 0 then .fin neg man f.qmin
  else .fin neg (2 ^ f.manBits + man) (f.qmin + (ex : Int) - 1)

/-! ### Exact dyadic arithmetic -/

/-- Floor of the base 2 logarithm of m × 2^e, for m ≠ 0. -/
def log2F (m : Nat) (e : Int) : Int := (m.log2 : Int) + e

/-- n × 2^e1 as a multiple of 2^e0, for e0 ≤ e1. -/
def scaleTo (n : Int) (e1 e0 : Int) : Int := n * ((2 ^ (e1 - e0).toNat : Nat) : Int)

/-- Comparison of two magnitudes m1 × 2^e1 ≤ m2 × 2^e2. -/
def magLe (m1 : Nat) (e1 : Int) (m2 : Nat) (e2 : Int) : Bool :=
  let e0 := min e1 e2
  decide (m1 * 2 ^ (e1 - e0).toNat ≤ m2 * 2 ^ (e2 - e0).toNat)

/-- The signed integer of a finite value. -/
def sgn (neg : Bool) (m : Nat) : Int := if neg then -(m : Int) else (m : Int)

/-- Exact sum of two finite values; an exact zero is +0 unless both are −0 (IEEE 754, round to nearest). -/
def addFin (n1 : Bool) (m1 : Nat) (e1 : Int) (n2 : Bool) (m2 : Nat) (e2 : Int) : FVal :=
  let e0 := min e1 e2
  let s := scaleTo (sgn n1 m1) e1 e0 + scaleTo (sgn n2 m2) e2 e0
  if s = 0 then .fin (n1 && n2 && m1 == 0 && m2 == 0) 0 e0
  else .fin (decide (s < 0)) s.natAbs e0

/-- Exact sum under the IEEE rules for special values. -/
def fAdd : FVal → FVal → FVal
  | .nan, _ => .nan
  | _, .nan => .nan
  | .inf a, .inf b => if a = b then .inf a else .nan
  | .inf a, _ => .inf a
  | _, .inf b => .inf b
  | .fin a m e, .fin b m' e' => addFin a m e b m' e'

/-- Negation. -/
def fNeg : FVal → FVal
  | .nan => .nan
  | .inf a => .inf (!a)
  | .fin a m e => .fin (!a) m e

/-- Exact product. -/
def fMul : FVal → FVal → FVal
  | .nan, _ => .nan
  | _, .nan => .nan
  | .inf a, .inf b => .inf (a != b)
  | .inf a, .fin b m _ => if m = 0 then .nan else .inf (a != b)
  | .fin a m _, .inf b => if m = 0 then .nan else .inf (a != b)
  | .fin a m e, .fin b m' e' => .fin (a != b) (m * m') (e + e')

/-- Absolute value. -/
def fAbs : FVal → FVal
  | .nan => .nan
  | .inf _ => .inf false
  | .fin _ m e => .fin false m e

/-- Whether a value is an infinity or a NaN. -/
def FVal.nonFinite : FVal → Bool
  | .fin _ _ _ => false
  | _ => true

/-- Whether a value is a zero of either sign. -/
def FVal.isZero : FVal → Bool
  | .fin _ 0 _ => true
  | _ => false

/-- Order on values with +0 above −0 (R162, R177); NaN is handled by the caller. -/
def fLe : FVal → FVal → Bool
  | .inf true, _ => true
  | _, .inf false => true
  | .inf false, _ => false
  | _, .inf true => false
  | .fin a m e, .fin b m' e' =>
    if a && !b then true else if !a && b then false
    else if a then magLe m' e' m e else magLe m e m' e'
  | _, _ => false

/-- Larger of two, NaN if either is NaN (R162). -/
def fMax : FVal → FVal → FVal
  | .nan, _ => .nan
  | _, .nan => .nan
  | x, y => if fLe x y then y else x

/-- Smaller of two, NaN if either is NaN (R162). -/
def fMin : FVal → FVal → FVal
  | .nan, _ => .nan
  | _, .nan => .nan
  | x, y => if fLe x y then x else y

/-! ### Rounding -/

/-- The rounding modes of R169; SR carries its Grain output. -/
inductive Rnd where
  | rne
  | rtz
  | sr (u : Nat)
  deriving DecidableEq, Repr

/-- Rounds the magnitude m × 2^e to a multiple k × 2^q; answers k (R169). -/
def roundAt (r : Rnd) (m : Nat) (e q : Int) : Nat :=
  if q ≤ e then m * 2 ^ (e - q).toNat
  else
    let d := (q - e).toNat
    let lo := m >>> d
    let rem := m - lo * 2 ^ d
    match r with
    | .rne => if 2 * rem > 2 ^ d ∨ (2 * rem = 2 ^ d ∧ lo % 2 = 1) then lo + 1 else lo
    | .rtz => lo
    | .sr u => if u < rem * 2 ^ 32 / 2 ^ d then lo + 1 else lo

/-- The exponent of the unit in the last place that rounding m × 2^e into f uses, the exponent range unbounded above. -/
def FloatFmt.quantum (f : FloatFmt) (m : Nat) (e : Int) : Int :=
  if m = 0 then f.qmin else max f.qmin (log2F m e - (f.manBits : Int))

/-- What one rounding did. -/
structure Rounded where
  /-- The encoding written. -/
  bits : Nat
  /-- The rounding, with its exponent range unbounded above (R169), changed the value (R194 INEXACT); the limits of R171 do not. -/
  inexact : Bool
  /-- The value was clamped (R171, R621). -/
  clamped : Bool
  deriving DecidableEq, Repr

/-- The encoding of k × 2^q, a magnitude inside the finite range of f. -/
def encodeMag (f : FloatFmt) (neg : Bool) (k : Nat) (q : Int) : Nat :=
  let s := b2n neg * 2 ^ (f.expBits + f.manBits)
  if k = 0 then s
  else
    -- normalise k to at most manBits + 1 bits
    let up := k.log2 - f.manBits
    let k := k >>> up
    let q := q + (up : Int)
    if k < 2 ^ f.manBits then s + k * 2 ^ (q - f.qmin).toNat
    else s + ((q - f.qmin).toNat + 1) * 2 ^ f.manBits + (k - 2 ^ f.manBits)

/-- One rounding of a finite value into a floating format (R169, R621, R171). -/
def roundFin (f : FloatFmt) (r : Rnd) (neg : Bool) (m : Nat) (e : Int) : Rounded :=
  let q := f.quantum m e
  let k := roundAt r m e q
  let inex := !(magLe k q m e && magLe m e k q)
  let mx := f.maxFin
  if magLe k q mx.1 mx.2 then ⟨encodeMag f neg k q, inex, false⟩
  else if f.spec = .ieee ∧ r = .rne then ⟨f.infBits neg, inex, false⟩
  else ⟨encodeMag f neg mx.1 mx.2, inex, true⟩

/-- One rounding of any value into a floating format (R171). -/
def roundF (f : FloatFmt) (r : Rnd) : FVal → Rounded
  | .nan => ⟨f.canonNaN, false, false⟩
  | .inf neg =>
    if f.spec = .ieee then ⟨f.infBits neg, false, false⟩
    else ⟨encodeMag f neg f.maxFin.1 f.maxFin.2, false, true⟩
  | .fin neg m e => roundFin f r neg m e

/-- One rounding of a finite value into an MX element: beyond range it is the largest finite element, in a format with ∞ as
well (R172). -/
def roundMx (f : FloatFmt) (r : Rnd) : FVal → Rounded
  | .fin neg m e =>
    let u := roundFin f r neg m e
    if u.bits = f.infBits neg ∧ f.spec = .ieee then ⟨encodeMag f neg f.maxFin.1 f.maxFin.2, u.inexact, true⟩ else u
  | x => roundF f r x

/-- One rounding of a value into a w-bit two's complement integer (R171). -/
def roundToInt (w : Nat) (r : Rnd) : FVal → Rounded
  | .nan => ⟨0, false, false⟩
  | .inf neg => ⟨if neg then 2 ^ (w - 1) else 2 ^ (w - 1) - 1, false, true⟩
  | .fin neg m e =>
    let k := roundAt r m e 0
    let inex := !(magLe k 0 m e && magLe m e k 0)
    let x := sgn neg k
    if x < -((2 ^ (w - 1) : Nat) : Int) then ⟨2 ^ (w - 1), inex, true⟩
    else if x ≥ ((2 ^ (w - 1) : Nat) : Int) then ⟨2 ^ (w - 1) - 1, inex, true⟩
    else ⟨wrapInt w x, inex, false⟩

/-- Round to nearest even into f and read the encoding back as a value (R161: the sign of a zero is kept). -/
def rnd (f : FloatFmt) (x : FVal) : FVal := decodeF f (roundF f .rne x).bits

/-- The encoding of a value under round to nearest even (R161). -/
def enc (f : FloatFmt) (x : FVal) : Nat := (roundF f .rne x).bits

/-! ### Operations whose exact result is no dyadic number: enough bits and a sticky bit, one rounding -/

/-- a / b of two finite non-zero magnitudes to at least `p` bits, the last bit sticky. -/
def divMag (p : Nat) (m1 : Nat) (e1 : Int) (m2 : Nat) (e2 : Int) : Nat × Int :=
  let s := p + m2.log2 + 2
  let n := m1 * 2 ^ s
  let qt := n / m2
  (2 * qt + b2n (n % m2 != 0), e1 - e2 - (s : Int) - 1)

/-- Quotient under the IEEE rules, ready for one rounding to a format of at most 64 significand bits. -/
def fDiv : FVal → FVal → FVal
  | .nan, _ => .nan
  | _, .nan => .nan
  | .inf _, .inf _ => .nan
  | .inf a, .fin b _ _ => .inf (a != b)
  | .fin a _ _, .inf b => .fin (a != b) 0 0
  | .fin a m e, .fin b m' e' =>
    if m' = 0 then (if m = 0 then .nan else .inf (a != b))
    else if m = 0 then .fin (a != b) 0 0
    else
      let r := divMag 80 m e m' e'
      .fin (a != b) r.1 r.2

/-- √(m × 2^e) to 80 bits or more, the last bit sticky. -/
def sqrtMag (m : Nat) (e : Int) : Nat × Int :=
  let s : Nat := 164 + (e % 2).toNat
  let n := m * 2 ^ s
  let r := isqrt n
  (2 * r + b2n (r * r != n), (e - (s : Int)) / 2 - 1)

/-- Square root under the IEEE rules (√−0 is −0). -/
def fSqrt : FVal → FVal
  | .nan => .nan
  | .inf a => if a then .nan else .inf false
  | .fin a m e =>
    if m = 0 then .fin a 0 e
    else if a then .nan
    else let r := sqrtMag m e; .fin false r.1 r.2

/-- 1/√x: 1/√(m × 2^e) to 80 bits or more, the last bit sticky. -/
def rsqrtMag (m : Nat) (e : Int) : Nat × Int :=
  -- make the exponent even, then floor √(2^(2K) / m)
  let o := (e % 2).toNat
  let m := m * 2 ^ o
  let e := e - (o : Int)
  let k := 90 + m.log2
  let n := 2 ^ (2 * k) / m
  let r := isqrt n
  (2 * r + b2n (r * r * m != 2 ^ (2 * k)), -(e / 2) - (k : Int) - 1)

/-- Reciprocal square root (R164: IEEE 754-2019 rSqrt). -/
def fRsqrt : FVal → FVal
  | .nan => .nan
  | .inf a => if a then .nan else .fin false 0 0
  | .fin a m e =>
    if m = 0 then .inf a
    else if a then .nan
    else let r := rsqrtMag m e; .fin false r.1 r.2

/-- The MAX, MIN partial identities. -/
def fPosInf : FVal := .inf false
def fNegInf : FVal := .inf true
def fPosZero : FVal := .fin false 0 0
def fOne : FVal := .fin false 1 0

/-- 2^x as a value. -/
def fPow2 (x : Int) : FVal := .fin false 1 x

/-- A natural number as a value. -/
def fNat (n : Nat) : FVal := .fin false n 0

/-- An integer as a value. -/
def fInt (x : Int) : FVal := .fin (decide (x < 0)) x.natAbs 0

end Sys2Proof.Machine
end

