-- ==== Sys2Proof/Machine/Stats.lean ====
section
/-! DEFINITION. Increments into VC1 (R279, R282), and what an operation's written elements do to the statistics: Patina
counts (R219 to R222) and hardware votes (R209). -/

namespace Sys2Proof.Machine

/-- An item for the SYU enters VC1 with a stamp (R279, R315). -/
def State.sendSyuAt (s : State) (stamp : Nat) (src : Src) (ctx : Nat) (who : Option Who) (hostCmd : Option (Nat × Nat)) (tag : Nat)
    (b : SyuBody) : State :=
  { s with
    nextId := s.nextId + 1
    syu := { s.syu with inbound := s.syu.inbound ++
      [{ id := s.nextId, src := src, ctx := ctx, who := who, hostCmd := hostCmd, tag := tag, body := b, stamp := stamp }] } }

/-- An item for the SYU is injected here and now. -/
def State.sendSyu (s : State) (src : Src) (ctx : Nat) (who : Option Who) (hostCmd : Option (Nat × Nat)) (tag : Nat) (b : SyuBody) :
    State :=
  s.sendSyuAt s.stampNow src ctx who hostCmd tag b

/-! ### Tags (R219, R240) -/

def Tile.tag (t : Tile) (n : Nat) : Nat := mget 0 t.cfg.tags n
def tagId (e : Nat) : Nat := bits e 32 12
def tagClass (e : Nat) : Nat := bits e 44 2

/-- The first tag entry that covers a line. -/
def Tile.tagOf (t : Tile) (l : Nat) : Option Nat := ((List.range 16).map t.tag).find? fun e => regCovers e l

/-- What the statistics see of one written element (R220). -/
structure Elem where
  zero : Bool
  sat : Bool
  nonfin : Bool
  deriving DecidableEq, Repr

/-- Counts of one line's elements added (R220). -/
def Patina.add (p : Patina) (es : List Elem) : Patina :=
  { total := p.total + es.length
    zero := p.zero + (es.filter fun e => e.zero).length
    saturated := p.saturated + (es.filter fun e => e.sat).length
    nonfinite := p.nonfinite + (es.filter fun e => e.nonfin).length }

/-- The counts of the written lines `l`, `l + 1`, …, each with its elements. -/
def Tile.countLines (t : Tile) (l : Nat) : List (List Elem) → Tile
  | [] => t
  | es :: rest =>
    let t1 := match t.tagOf l with
      | some e => if tagClass e ≤ 1 then { t with patina := mmod {} t.patina (tagId e) fun p => p.add es } else t
      | none => t
    t1.countLines (l + 1) rest

/-- A non-finite element lies in a line of a GRAD entry (R209). -/
def Tile.votes (t : Tile) (l : Nat) : List (List Elem) → Bool
  | [] => false
  | es :: rest =>
    ((match t.tagOf l with | some e => decide (tagClass e = 1) | none => false) && es.any fun e => e.nonfin) || t.votes (l + 1) rest

/-- The step to which the tile's votes and counts go, while its gate is on (R207). -/
def Tile.voteStep (t : Tile) : Option Nat :=
  match t.gate with
  | .off => none
  | .opened => some t.gateStep
  | _ => some (t.gateStep + 1)

/-- The counter of a vote: NF0 for an even step, NF1 for an odd one (R205, R209). -/
def State.voteCounter (s : State) (o : Op) : Option Nat :=
  (s.tile o.tile).voteStep.map fun n => bits (s.tel o.ctx).gateCfg (if n % 2 = 0 then 16 else 32) 16

/-- The hardware vote: a CINC of 1 (R209). -/
def State.castVote (s : State) (o : Op) : State :=
  match s.voteCounter o with
  | none => s
  | some vid => s.sendSyu (.tile o.tile) o.ctx none none 0 (.inc vid 1)

/-- The counts of an operation as the digest takes them (R472): for each written line of an entry, the tensor as target, and what the
line adds. -/
def Tile.digestCounts (t : Tile) (th l : Nat) : List (List Elem) → Tile
  | [] => t
  | es :: rest =>
    let p := ({} : Patina).add es
    let t1 := match t.tagOf l with
      | some e =>
        if tagClass e ≤ 1 then
          (t.digestBytes th (tagId e) 8).digestBytes th (packElems 64 [p.total, p.zero, p.saturated, p.nonfinite]) 32
        else t
      | none => t
    t1.digestCounts th (l + 1) rest

/-- The counter of a vote as the digest takes it: an operation that a rerun still skips voted in the run before, perhaps for an earlier
step than that to which the gate now stands (R222, R474). -/
def State.countedVote (s : State) (o : Op) : Option Nat :=
  let th := s.thread o.tile o.thread
  if !o.fill && decide (0 < th.suppressCount) then mget none th.votes th.countOps else s.voteCounter o

/-- The vote of an operation as the digest takes it: the counter, and its increment of 1. -/
def State.digestVote (s : State) (o : Op) : State :=
  match s.countedVote o with
  | some vid =>
    (s.modTile o.tile fun t => (t.digestBytes o.thread (counterAddr vid) 8).digestBytes o.thread 1 1).modThread o.tile o.thread fun t =>
      { t with votes := mset none t.votes t.countOps (some vid) }
  | none => s

/-- An operation that R222 counts: `true` when the rerun still skips it; never for fill work. -/
def State.counted (s : State) (o : Op) : Bool × State :=
  let th := s.thread o.tile o.thread
  if o.fill then (false, s)
  else if 0 < th.suppressCount then
    (true, s.modThread o.tile o.thread fun t => { t with countOps := t.countOps + 1, suppressCount := t.suppressCount - 1 })
  else (false, s.modThread o.tile o.thread fun t => { t with countOps := t.countOps + 1 })

/-- The statistics of an operation that has written the lines from `l` on (R209, R220): nothing while the rerun still skips
the operations counted before (R222); a pool tile keeps its counts and casts no vote (R469). The digest takes them in every run, so that
the digest of a rerun and that of a shadow run have the same items (R472, R474, R478). -/
def State.stats (s : State) (o : Op) (l : Nat) (es : List (List Elem)) : State :=
  let on := (s.tile o.tile).voteStep.isSome
  let vote := (s.tile o.tile).votes l es
  let s0 := if on then s.modTile o.tile fun t => t.digestCounts o.thread l es else s
  let s1 := if vote then s0.digestVote o else s0
  match s1.counted o with
  | (true, s2) => s2
  | (false, s2) =>
    let s3 := if on then s2.modTile o.tile fun t => t.countLines l es else s2
    if vote && (s.tile o.tile).shadow.isNone then s3.castVote o else s3

/-- Pending counts leave in VC1 for the TEL block, and the tile's counts are zero (R221). -/
def State.sendPatina (s : State) (t c : Nat) : State :=
  let tile := s.tile t
  if tile.patina.isEmpty then s
  else
    { s.modTile t (fun x => { x with patina := [] }) with
      nextId := s.nextId + 1
      telItems := s.telItems ++ [{ id := s.nextId, tile := t, ctx := c, body := .counts (tile.voteStep.getD 0) tile.patina, stamp := s.stampNow }] }

end Sys2Proof.Machine
end

