-- ==== Sys2Proof/Machine/Mxe.lean ====
section
/-! DEFINITION. The matrix engine: formats and panels (R121 to R123), the exact accumulator (R130, R131), FP32 accumulation
(R134), sliced FP64 (R135, R136), special values (R139 to R141), and the operations MZERO, MMA, MSF64, MRD, MSAVE and
MRESTORE (R124). -/

namespace Sys2Proof.Machine

/-! ### Formats and panels -/

/-- A format code that is listed (R121). -/
def mxListed (c : Nat) : Bool := decide (c = 0) || (decide (2 ≤ c) && decide (c ≤ 11))
def groupE (c : Nat) : Bool := decide (c = 0) || (decide (2 ≤ c) && decide (c ≤ 9))
def isMx (c : Nat) : Bool := decide (4 ≤ c) && decide (c ≤ 9)

/-- The pair is supported (R128). -/
def pairOk (a b : Nat) : Bool := (groupE a && groupE b) || (decide (a = b) && (decide (a = 10) || decide (a = 11)))

/-- Bits of an element. -/
def mxeElemBits (c : Nat) : Nat :=
  match c with
  | 6 | 7 => 6 | 8 => 4 | 10 | 11 => 16 | _ => 8

/-- Lines of a k-block (R122); code 16 stands for the FP64 panels of MSF64. -/
def blockLines (c : Nat) : Nat :=
  match c with
  | 4 | 5 | 9 => 9 | 6 | 7 => 7 | 8 => 5 | 10 | 11 => 16 | 16 => 64 | _ => 8

/-- Value of an element encoding (R121). -/
def mxeElem (c n : Nat) : FVal :=
  match c with
  | 0 => fInt (sext 8 n)
  | 2 | 4 => decodeF fp8e4m3 n
  | 3 | 5 => decodeF fp8e5m2 n
  | 6 => decodeF fp6e3m2 n
  | 7 => decodeF fp6e2m3 n
  | 8 => decodeF fp4e2m1 n
  | 9 => match fInt (sext 8 n) with
    | .fin s m e => .fin s m (e - 6)
    | x => x
  | 10 => decodeF bf16 n
  | _ => decodeF fp16 n

/-- The E8M0 scale of vector `v` of the k-block `k` in an MX format: the exponent, or `none` for NaN (R123). -/
def mxScale (c k v : Nat) : Option Int :=
  if isMx c then
    let s := bits k (512 * (blockLines c - 1) + 8 * v) 8
    if s = 255 then none else some ((s : Int) - 127)
  else some 0

/-- Vector `v` of the k-block `k`: its 32 elements, NaN throughout under a NaN scale (R122, R123). -/
def mxeVec (c k v : Nat) : List FVal :=
  let w := mxeElemBits c
  let lo := if 10 ≤ c then 512 * v else 32 * w * v
  match mxScale c k v with
  | none => List.replicate 32 .nan
  | some _ => (unpackElems w k lo 32).map (mxeElem c)

/-- The 16 vectors of a k-block. -/
def mxeVecs (c k : Nat) : List (List FVal) := (List.range 16).map (mxeVec c k)
def mxeScales (c k : Nat) : List Int := (List.range 16).map fun v => (mxScale c k v).getD 0

/-- The k-block `n` of a panel at tile offset `a`. -/
def Tile.kblock (t : Tile) (c a n : Nat) : Nat := memRead t.mem (a + 64 * blockLines c * n) (64 * blockLines c)

/-! ### The exact accumulator -/

/-- Class of a value: 0 finite, 1 +∞, 2 −∞, 3 NaN (R117). -/
def fClass : FVal → Nat
  | .fin _ _ _ => 0
  | .inf neg => if neg then 2 else 1
  | .nan => 3

/-- Two classes meet at one entry (R139). -/
def joinClass (a b : Nat) : Nat := if a = 0 then b else if b = 0 then a else if a = b then a else 3

/-- Rows of the loop at the top of R131: the sum moves down while its magnitude is at least 2^120. -/
def settle : Nat → Int → Int → Bool → Int × Int × Bool
  | 0, v, w, st => (v, w, st)
  | n + 1, v, w, st =>
    if 2 ^ 120 ≤ v.natAbs then settle n (v / 256) (w + 8) (st || decide (v % 256 ≠ 0)) else (v, w, st)

/-- W as its 16 bits hold it (R117); outside their range it is a free value. DESIGN CHOICE, log entry 136. -/
def fitWindow (w : Int) : Int := if -32768 ≤ w ∧ w ≤ 32767 then w else (Config.windowOut w).toInt

/-- A non-zero finite contribution sgn × m × 2^e (R131). -/
def EaEntry.applyFin (x : EaEntry) (neg : Bool) (m : Nat) (e : Int) : EaEntry :=
  let h : Int := log2F m e + 1
  let w0 : Int := if x.wset then x.w else h - 104
  let d : Nat := if w0 + 104 < h then 8 * ceilDiv (h - w0 - 104).toNat 8 else 0
  let st1 := x.sticky || decide (x.v % ((2 ^ d : Nat) : Int) ≠ 0)
  let v1 : Int := x.v / ((2 ^ d : Nat) : Int)
  let w1 : Int := w0 + (d : Int)
  let q : Int := if w1 ≤ e then sgn neg m * ((2 ^ (e - w1).toNat : Nat) : Int) else sgn neg m / ((2 ^ (w1 - e).toNat : Nat) : Int)
  let drop : Bool := !decide (w1 ≤ e) && decide (sgn neg m % ((2 ^ (w1 - e).toNat : Nat) : Int) ≠ 0)
  match settle 17 (v1 + q) w1 (st1 || drop) with
  | (v, w, st) => { x with v := v, w := fitWindow w, wset := true, sticky := st }

/-- A contribution to an entry (R130, R131, R139, R140). -/
def EaEntry.apply (x : EaEntry) (c : FVal) : EaEntry :=
  match c with
  | .fin neg m e => if x.cls ≠ 0 || decide (m = 0) then x else x.applyFin neg m e
  | c => { x with cls := joinClass x.cls (fClass c) }

/-- The value that MRD reads of a finite entry (R133, R141). -/
def EaEntry.value (x : EaEntry) : FVal :=
  match x.cls with
  | 1 => .inf false
  | 2 => .inf true
  | 3 => .nan
  | _ =>
    if x.sticky then .fin (decide (4 * x.v + 1 < 0)) (4 * x.v + 1).natAbs (x.w - 2)
    else .fin (decide (x.v < 0)) x.v.natAbs x.w

/-- Exact sum of products of two vectors (R130). -/
def dotExact : List FVal → List FVal → FVal
  | [], _ => fPosZero
  | _, [] => fPosZero
  | a :: as, b :: bs => fAdd (fMul a b) (dotExact as bs)

/-- A value times 2^k. -/
def fScale (k : Int) : FVal → FVal
  | .fin s m e => .fin s m (e + k)
  | x => x

/-! ### Sliced FP64 -/

/-- Unbiased exponent of a finite non-zero FP64 value (R135). -/
def expo64 : FVal → Option Int
  | .fin _ m e => if m = 0 then none else some (max (-1022) (log2F m e))
  | _ => none

/-- The exponent of a vector (R135). -/
def vecExp (xs : List FVal) : Int :=
  xs.foldl (fun a x => match expo64 x with | some k => max a k | none => a) (-1022)

/-- Slices i, i − 1, …, 1 of n, and what remains for slice 0; the list is slice 0 first (R135). -/
def slicesFrom : Nat → Int → List Int → List Int
  | 0, n, acc => n :: acc
  | i + 1, n, acc =>
    let s := (n + 128) % 256 - 128
    slicesFrom i ((n - s) / 256) (s :: acc)

/-- The seven slices of an element of a vector with exponent `e` (R135). -/
def slices (e : Int) (x : FVal) : List Int :=
  match x with
  | .fin neg m ex => slicesFrom 6 (sgn neg (roundAt .rne m (ex + 53 - e) 0)) []
  | _ => slicesFrom 6 0 []

/-- Σ over i + j ≤ 6 of s_A[i] × s_B[j] × 2^(8(12 − i − j)) (R136). -/
def sliceDot (a b : List Int) : Int :=
  (List.range 7).foldl (fun acc i =>
    (List.range (7 - i)).foldl (fun acc j =>
      acc + (a[i]?.getD 0) * (b[j]?.getD 0) * ((2 ^ (8 * (12 - i - j)) : Nat) : Int)) acc) 0

/-- Sum of the slice products of two vectors. -/
def sliceSum : List (List Int) → List (List Int) → Int
  | a :: as, b :: bs => sliceDot a b + sliceSum as bs
  | _, _ => 0

/-- The contribution of a k-block to an entry of MSF64 (R136, R139). -/
def sf64Contribution (xs ys : List FVal) (ex ey : Int) (sx sy : List (List Int)) : FVal :=
  let cls := (List.zipWith (fun a b => fClass (fMul a b)) xs ys).foldl joinClass 0
  match cls with
  | 0 => fScale (ex + ey - 106) (fInt (sliceSum sx sy))
  | 1 => .inf false
  | 2 => .inf true
  | _ => .nan

/-! ### FP32 accumulation (R134) -/

/-- One level of the tree: neighbours added and rounded. -/
def treeLevel : List FVal → List FVal
  | a :: b :: rest => rnd fp32 (fAdd a b) :: treeLevel rest
  | xs => xs

/-- The tree of 32 products. -/
def treeSum (xs : List FVal) : FVal :=
  (treeLevel (treeLevel (treeLevel (treeLevel (treeLevel xs))))).headD fPosZero

/-! ### Blocks -/

def Tile.block (t : Tile) (b : Nat) : Block := mget {} t.blocks b
def Tile.setBlock (t : Tile) (b : Nat) (v : Block) : Tile := { t with blocks := mset {} t.blocks b v }
def Block.ent (b : Block) (i : Nat) : EaEntry := mget {} b.ea i
def Block.setEnt (b : Block) (i : Nat) (x : EaEntry) : Block := { b with ea := mset {} b.ea i x }
def Block.f (b : Block) (i : Nat) : Nat := mget 0 b.f32 i
def Block.setF (b : Block) (i v : Nat) : Block := { b with f32 := mset 0 b.f32 i v }

/-- Every entry of a block updated by its index. -/
def Block.each (b : Block) (f : Nat → Block → Block) : Block := (List.range 256).foldl (fun b i => f i b) b

/-- Some entry has STICKY set (EA); some entry is non-finite (R145). -/
def Block.anySticky (b : Block) : Bool := !b.f32mode && b.ea.any fun kv => kv.2.sticky
def Block.anyNonfinite (b : Block) : Bool :=
  if b.f32mode then b.f32.any fun kv => (decodeF fp32 kv.2).nonFinite else b.ea.any fun kv => decide (kv.2.cls ≠ 0)

/-- The block of an operation whose accumulator index field is `f` (R116). -/
def mxeBlock (o : Op) (f : Nat) : Nat := 4 * o.thread + f % 4

/-- The flags after an accumulating operation (R145). -/
def accFlags (b : Block) : FlagSet := { inexact := some b.anySticky, nonfinite := some b.anyNonfinite }

def State.setFlags (s : State) (o : Op) (u : FlagSet) : State := s.modRegs o fun r => { r with flags := r.flags.apply u }

/-- The residue modulo 127 of what entry `n` holds: of V, or of the significand of an FP32 value (R147). -/
def Block.residue (b : Block) (n : Nat) : Nat :=
  if b.f32mode then (match decodeF fp32 (b.f n) with | .fin _ m _ => m % 127 | _ => 0) else ((b.ent n).v % 127).toNat

/-- The residue stored with entry `n`. -/
def Block.stored (b : Block) (n : Nat) : Nat := (b.residue n + mget 0 b.res n) % 127

/-- Every entry of the block agrees with its stored residue. -/
def Block.sound (b : Block) : Bool := b.res.all fun kv => decide (b.stored kv.1 = b.residue kv.1)

/-- Rows of R147 that the operations run: an MMA or MSF64 decodes its operands, forms sums, and applies them to stored entries; MRD converts
them; MSAVE and MRESTORE move them. DEDUCED, log entry 145. -/
def stagesEa : List Nat := [1, 2, 4, 7]
def stagesF32 : List Nat := [1, 5, 7]
def stagesSf64 : List Nat := [1, 2, 3, 4, 7]
def stagesRead : List Nat := [6, 7]
def stagesMove : List Nat := [7]
def Block.stagesAdd (b : Block) : List Nat := if b.f32mode then [5, 7] else [4, 7]

/-- What the residue checks of an operation meet (R147): a stored entry of the block `reads`, or a mismatch in a stage that it runs (an
input from the physical world). -/
def mxeCheck (s : State) (o : Op) (reads : Option Nat) (stages : List Nat) (e : Eff) : Eff :=
  if !(reads.all fun n => ((s.tile o.tile).block n).sound) then .detect (o.det (.residue false 7) 0)
  else match (s.tile o.tile).err.mxeUpset with
    | some stage => if stage ∈ stages then .detect (o.det (.residue false stage) 0) else e
    | none => e

/-! ### MZERO -/

/-- What MZERO leaves in a block (R124). -/
def mzeroBlock (fmt len : Nat) : Block :=
  match fmt with
  | 0 => {}
  | 1 => ({} : Block).each fun i b => b.setEnt i { w := sext 16 len, wset := true }
  | _ => { f32mode := true }

def mzeroSpec : OpSpec :=
  { enc := fun _ o => { opd := .idx 2, fields := decide (wFmt o.w < 3) && decide (wAux o.w = 0) &&
                          (decide (wFmt o.w = 1) || decide (wLen o.w = 0)) }
    effect := fun s o => mxeCheck s o none [] (.done (s.modTile o.tile fun t =>
      t.setBlock (mxeBlock o (wOpd o.w)) (mzeroBlock (wFmt o.w) (wLen o.w)))) }

def execMzero (tile thread : Nat) (w : BitVec 128) (s : State) : Host.Outcome State Fault Refusal :=
  runOp (.mzero tile thread w) tile thread w mzeroSpec s

/-! ### MMA -/

/-- One k-block into an EA block (R130, R131). -/
def mmaEa (ca cb ka kb : Nat) (b : Block) : Block :=
  let va := mxeVecs ca ka
  let vb := mxeVecs cb kb
  let sa := mxeScales ca ka
  let sb := mxeScales cb kb
  b.each fun n b =>
    let i := n / 16
    let j := n % 16
    let c := fScale ((sa[i]?.getD 0) + (sb[j]?.getD 0)) (dotExact (va[i]?.getD []) (vb[j]?.getD []))
    b.setEnt n ((b.ent n).apply c)

/-- One k-block into an F32 block (R134). -/
def mmaF32 (c ka kb : Nat) (b : Block) : Block :=
  let va := mxeVecs c ka
  let vb := mxeVecs c kb
  b.each fun n b =>
    let q := treeSum (List.zipWith (fun x y => rnd fp32 (fMul x y)) (va[n / 16]?.getD []) (vb[n % 16]?.getD []))
    b.setF n (enc fp32 (fAdd (decodeF fp32 (b.f n)) q))

/-- The k-blocks of an MMA in ascending order. -/
def mmaBlocks (t : Tile) (ca cb aa ab : Nat) : Nat → Nat → Block → Block
  | 0, _, b => b
  | n + 1, k, b =>
    let ka := t.kblock ca aa k
    let kb := t.kblock cb ab k
    mmaBlocks t ca cb aa ab n (k + 1) (if ca < 10 then mmaEa ca cb ka kb b else mmaF32 ca ka kb b)

def mmaSpec : OpSpec :=
  { enc := fun s o =>
      let ca := wFmt o.w
      let cb := wAux o.w
      { opd := .idx 2, opa := .mem, opb := .mem, needLen := true
        fields := decide (cb < 16) && pairOk ca cb &&
          decide (((s.tile o.tile).block (mxeBlock o (wOpd o.w))).f32mode = !groupE ca) }
    accs := fun _ o =>
      let na := wLen o.w * blockLines (wFmt o.w)
      let nb := wLen o.w * blockLines (wAux o.w % 16)
      [{ fld := 1, foot := 64 * na, reach := .tile na 64 true false, consumer := 1 },
       { fld := 2, foot := 64 * nb, reach := .tile nb 64 true false, consumer := 1 }]
    effect := fun s o =>
      let t := s.tile o.tile
      let n := mxeBlock o (wOpd o.w)
      let b := { mmaBlocks t (wFmt o.w) (wAux o.w) o.a o.b (wLen o.w) 0 (t.block n) with touched := true }
      mxeCheck s o (some n) (if wFmt o.w < 10 then stagesEa else stagesF32) (.done ((s.modTile o.tile fun t => t.setBlock n b).setFlags o (accFlags b))) }

def execMma (tile thread : Nat) (w : BitVec 128) (s : State) : Host.Outcome State Fault Refusal :=
  runOp (.mma tile thread w) tile thread w mmaSpec s

/-! ### MSF64 -/

/-- The vectors of an FP64 k-block (R122). -/
def sf64Vecs (k : Nat) : List (List FVal) := (List.range 16).map fun v => (unpackElems 64 k (2048 * v) 32).map (decodeF fp64)

/-- One k-block of MSF64 (R135, R136). -/
def msf64Block (ka kb : Nat) (b : Block) : Block :=
  let va := sf64Vecs ka
  let vb := sf64Vecs kb
  let ea := va.map vecExp
  let eb := vb.map vecExp
  let sa := va.map fun xs => xs.map (slices (vecExp xs))
  let sb := vb.map fun xs => xs.map (slices (vecExp xs))
  b.each fun n b =>
    let i := n / 16
    let j := n % 16
    let c := sf64Contribution (va[i]?.getD []) (vb[j]?.getD []) (ea[i]?.getD 0) (eb[j]?.getD 0) (sa[i]?.getD []) (sb[j]?.getD [])
    b.setEnt n ((b.ent n).apply c)

/-- The k-blocks of an MSF64 in ascending order. -/
def msf64Blocks (t : Tile) (aa ab : Nat) : Nat → Nat → Block → Block
  | 0, _, b => b
  | n + 1, k, b => msf64Blocks t aa ab n (k + 1) (msf64Block (t.kblock 16 aa k) (t.kblock 16 ab k) b)

def msf64Spec : OpSpec :=
  { enc := fun s o =>
      { opd := .idx 2, opa := .mem, opb := .mem, needLen := true
        fields := decide (wFmt o.w = 0) && decide (wAux o.w = 0) && !((s.tile o.tile).block (mxeBlock o (wOpd o.w))).f32mode }
    accs := fun _ o =>
      [{ fld := 1, foot := 4096 * wLen o.w, reach := .tile (64 * wLen o.w) 64 true false, consumer := 1 },
       { fld := 2, foot := 4096 * wLen o.w, reach := .tile (64 * wLen o.w) 64 true false, consumer := 1 }]
    effect := fun s o =>
      let t := s.tile o.tile
      let n := mxeBlock o (wOpd o.w)
      let b := { msf64Blocks t o.a o.b (wLen o.w) 0 (t.block n) with touched := true }
      mxeCheck s o (some n) stagesSf64 (.done ((s.modTile o.tile fun t => t.setBlock n b).setFlags o (accFlags b))) }

def execMsf64 (tile thread : Nat) (w : BitVec 128) (s : State) : Host.Outcome State Fault Refusal :=
  runOp (.msf64 tile thread w) tile thread w msf64Spec s

/-! ### MRD (R142) -/

/-- Size of an output element in bytes, by FMT. -/
def mrdSize (fmt : Nat) : Nat := match fmt with | 1 => 8 | 2 | 3 => 2 | _ => 4

/-- The value that entry `n` of a block reads as. -/
def Block.value (b : Block) (n : Nat) : FVal := if b.f32mode then decodeF fp32 (b.f n) else (b.ent n).value

/-- One output of MRD. -/
def mrdOut (fmt : Nat) (r : Rnd) (x : FVal) : Rounded :=
  match fmt with
  | 0 => roundF fp32 r x
  | 1 => roundF fp64 r x
  | 2 => roundF bf16 r x
  | 3 => roundF fp16 r x
  | _ => roundToInt 32 r x

/-- The output is non-finite, or came from a non-finite entry for an integer (R145, R220). -/
def mrdNonfinite (fmt : Nat) (x : FVal) (out : Rounded) : Bool :=
  match fmt with
  | 0 => (decodeF fp32 out.bits).nonFinite
  | 1 => (decodeF fp64 out.bits).nonFinite
  | 2 => (decodeF bf16 out.bits).nonFinite
  | 3 => (decodeF fp16 out.bits).nonFinite
  | _ => x.nonFinite

/-- The output is a zero of either sign. -/
def mrdZero (fmt : Nat) (out : Rounded) : Bool := decide (out.bits % 2 ^ (8 * mrdSize fmt - (if fmt = 4 then 0 else 1)) = 0)

/-- Elements gathered into lines of `per` each. -/
def chunks {α : Type} (per : Nat) : Nat → List α → List (List α)
  | 0, _ => []
  | n + 1, xs => xs.take per :: chunks per n (xs.drop per)

def mrdEffect (s : State) (o : Op) : Eff :=
  let t := s.tile o.tile
  let n := mxeBlock o (wOpa o.w)
  let b := t.block n
  let fmt := wFmt o.w
  let sz := mrdSize fmt
  let r : Rnd := if bit (wAux o.w) 0 then .rtz else .rne
  let vals := (List.range 256).map b.value
  let outs := vals.map (mrdOut fmt r)
  let els : List Elem := List.zipWith (fun x u => ⟨mrdZero fmt u, u.clamped, mrdNonfinite fmt x u⟩) vals outs
  let lines := (chunks (64 / sz) (4 * sz) (outs.map fun u => u.bits)).map fun xs => (packElems (8 * sz) xs, false)
  let s1 := s.opLines o (o.d / 64) lines
  let s2 := s1.setFlags o { empty := some (!b.touched), inexact := some b.anySticky, saturated := some (els.any fun e => e.sat),
                            nonfinite := some (els.any fun e => e.nonfin) }
  let s3 := if bit (wAux o.w) 1 then s2.modTile o.tile fun t => t.setBlock n (mzeroBlock (if b.f32mode then 2 else 0) 0) else s2
  mxeCheck s o (some n) stagesRead (.done (s3.stats o (o.d / 64) (chunks (64 / sz) (4 * sz) els)))

def mrdSpec : OpSpec :=
  { enc := fun _ o =>
      { opd := .mem, opa := .idx 2, fields := decide (wFmt o.w < 5) && decide (wAux o.w < 4) && decide (wLen o.w = 4 * mrdSize (wFmt o.w)) }
    accs := fun _ o => [{ fld := 0, foot := 64 * wLen o.w, reach := .tile (wLen o.w) 64 false true }]
    effect := mrdEffect }

def execMrd (tile thread : Nat) (w : BitVec 128) (s : State) : Host.Outcome State Fault Refusal :=
  runOp (.mrd tile thread w) tile thread w mrdSpec s

/-! ### MSAVE and MRESTORE (R143, R144) -/

/-- The 16-byte word of entry `n`. -/
def Block.saveWord (b : Block) (n : Nat) : Nat := if b.f32mode then b.f n else wrapInt 128 (b.ent n).v

/-- The meta word of entry `n`. -/
def Block.saveMeta (b : Block) (n : Nat) : Nat :=
  if b.f32mode then fClass (decodeF fp32 (b.f n)) * 2 ^ 16 + 2 ^ 20 + b2n b.touched * 2 ^ 21
  else
    let x := b.ent n
    wrapInt 16 x.w + x.cls * 2 ^ 16 + b2n x.sticky * 2 ^ 18 + b2n x.wset * 2 ^ 19 + b2n b.touched * 2 ^ 21

/-- The 80 lines of a saved block. -/
def Block.save (b : Block) : List (Nat × Bool) :=
  ((chunks 4 64 ((List.range 256).map b.saveWord)).map fun xs => (packElems 128 xs, false)) ++
    (chunks 16 16 ((List.range 256).map b.saveMeta)).map fun xs => (packElems 32 xs, false)

/-- The saved entry `n` in a saved area given as a blob. -/
def savedEnt (blob n : Nat) : EaEntry :=
  let m := bits blob (32768 + 32 * n) 32
  { v := sext 128 (bits blob (128 * n) 128), w := sext 16 (bits m 0 16), cls := bits m 16 2, sticky := bit m 18, wset := bit m 19 }

/-- An FP32 encoding as the MXE writes it: every NaN canonical (R140). -/
def canonF32 (n : Nat) : Nat := if decodeF fp32 n = .nan then fp32.canonNaN else n

/-- MRESTORE without ADD: the load (R143). -/
def Block.load (b : Block) (blob : Nat) : Block :=
  let b1 := { b with touched := bit blob (32768 + 21), res := [] }
  if b.f32mode then b1.each fun n b => b.setF n (canonF32 (bits blob (128 * n) 32))
  else b1.each fun n b => b.setEnt n (savedEnt blob n)

/-- The saved entry as a contribution (R144). Its CLASS acts before its STICKY, which an entry that is not finite does not take (R140): R144
gives no order of the two (DESIGN CHOICE, log entry 183). -/
def EaEntry.addSaved (x y : EaEntry) : EaEntry :=
  let x1 :=
    match y.cls with
    | 0 => if y.wset && decide (y.v ≠ 0) then x.apply (.fin (decide (y.v < 0)) y.v.natAbs y.w) else x
    | 1 => x.apply (.inf false)
    | 2 => x.apply (.inf true)
    | _ => x.apply .nan
  if y.sticky && decide (x1.cls = 0) then { x1 with sticky := true } else x1

/-- MRESTORE with ADD (R144). -/
def Block.addSaved (b : Block) (blob : Nat) : Block :=
  if b.f32mode then
    b.each fun n b => b.setF n (enc fp32 (fAdd (decodeF fp32 (b.f n)) (decodeF fp32 (bits blob (128 * n) 32))))
  else b.each fun n b => b.setEnt n ((b.ent n).addSaved (savedEnt blob n))

def msaveSpec : OpSpec :=
  { enc := fun _ o => { opd := .mem, opa := .idx 2, fields := decide (wFmt o.w = 0) && decide (wAux o.w = 0) && decide (wLen o.w = 80) }
    accs := fun _ o => [{ fld := 0, foot := 64 * wLen o.w, reach := .tile (wLen o.w) 64 false true }]
    effect := fun s o => mxeCheck s o (some (mxeBlock o (wOpa o.w))) stagesMove (.done (s.opLines o (o.d / 64) ((s.tile o.tile).block (mxeBlock o (wOpa o.w))).save)) }

def execMsave (tile thread : Nat) (w : BitVec 128) (s : State) : Host.Outcome State Fault Refusal :=
  runOp (.msave tile thread w) tile thread w msaveSpec s

def mrestoreEffect (s : State) (o : Op) : Eff :=
  let t := s.tile o.tile
  let n := mxeBlock o (wOpd o.w)
  let blob := memRead t.mem o.a 5120
  if bit (wAux o.w) 0 then
    let b := { (t.block n).addSaved blob with touched := true }
    mxeCheck s o (some n) (t.block n).stagesAdd (.done ((s.modTile o.tile fun t => t.setBlock n b).setFlags o (accFlags b)))
  else mxeCheck s o none stagesMove (.done (s.modTile o.tile fun t => t.setBlock n ((t.block n).load blob)))

def mrestoreSpec : OpSpec :=
  { enc := fun _ o => { opd := .idx 2, opa := .mem, fields := decide (wFmt o.w = 0) && decide (wAux o.w < 2) && decide (wLen o.w = 80) }
    accs := fun _ o => [{ fld := 1, foot := 64 * wLen o.w, reach := .tile (wLen o.w) 64 true false, consumer := 1 }]
    effect := mrestoreEffect }

def execMrestore (tile thread : Nat) (w : BitVec 128) (s : State) : Host.Outcome State Fault Refusal :=
  runOp (.mrestore tile thread w) tile thread w mrestoreSpec s

end Sys2Proof.Machine
end

