-- ==== Sys2Proof/Machine/Transc.lean ====
section
/-! DEFINITION. The functions EXP, LOG, TANH, SIGMOID and ERF of R162: "the exact function value correctly rounded".
Each is enclosed in an interval of fixed-point numbers with p fraction bits; both ends are rounded to FP32, and when they
agree that is the answer; otherwise p grows. The exact cases (R164) are answered before. The enclosure's half width is
2^(−p) by construction: the working precision carries 400 guard bits. No value other than the exact cases lies on a rounding boundary
(Lindemann: the functions are transcendental at non-zero algebraic arguments), so the growth ends; the fuel is a bound on
it (DEDUCED). -/

namespace Sys2Proof.Machine

/-- Fixed-point product with w fraction bits. -/
def fxMul (w : Nat) (a b : Int) : Int := a * b / ((2 ^ w : Nat) : Int)

/-- Σ_{i<n} t_i with t_0 = t and t_{i+1} = t_i × r / (i + 1): the exponential series. -/
def expSeries (w : Nat) (r : Int) : Nat → Nat → Int → Int → Int
  | 0, _, _, acc => acc
  | n + 1, i, t, acc =>
    if t = 0 then acc
    else expSeries w r n (i + 1) (fxMul w t r / ((i : Int) + 1)) (acc + t)

/-- Σ_{i} z^(2i+1)/(2i+1): atanh z, with z2 = z². -/
def atanhSeries (w : Nat) (z2 : Int) : Nat → Nat → Int → Int → Int
  | 0, _, _, acc => acc
  | n + 1, i, t, acc =>
    if t = 0 then acc
    else atanhSeries w z2 n (i + 1) (fxMul w t z2) (acc + t / (2 * (i : Int) + 1))

/-- ln 2 with w fraction bits: 2 atanh(1/3). -/
def ln2Fx (w : Nat) : Int :=
  let z : Int := ((2 ^ w : Nat) : Int) / 3
  2 * atanhSeries w (fxMul w z z) w 0 z 0

/-- Σ (−1)^i (1/k)^(2i+1)/(2i+1): arctan(1/k). -/
def atanInvSeries (k : Int) : Nat → Nat → Int → Int → Int
  | 0, _, _, acc => acc
  | n + 1, i, t, acc =>
    if t = 0 then acc
    else atanInvSeries k n (i + 1) (t / (k * k))
      (if i % 2 = 0 then acc + t / (2 * (i : Int) + 1) else acc - t / (2 * (i : Int) + 1))

/-- π with w fraction bits (Machin). -/
def piFx (w : Nat) : Int :=
  let one : Int := ((2 ^ w : Nat) : Int)
  16 * atanInvSeries 5 w 0 (one / 5) 0 - 4 * atanInvSeries 239 w 0 (one / 239) 0

/-- A dyadic number as fixed point with w fraction bits, rounded down. -/
def toFx (w : Nat) (x : Int) (e : Int) : Int :=
  let s := e + (w : Int)
  if 0 ≤ s then x * ((2 ^ s.toNat : Nat) : Int) else x / ((2 ^ (-s).toNat : Nat) : Int)

/-- e^x with w fraction bits, x fixed point with |x| < 256. -/
def expFx (w : Nat) (x : Int) : Int :=
  let l2 := ln2Fx w
  let k := x / l2
  let r := x - k * l2
  let y := expSeries w r (w + 8) 0 ((2 ^ w : Nat) : Int) 0
  if 0 ≤ k then y * ((2 ^ k.toNat : Nat) : Int) else y / ((2 ^ (-k).toNat : Nat) : Int)

/-- ln of m × 2^e, m ≠ 0, with w fraction bits. -/
def lnFx (w : Nat) (m : Nat) (e : Int) : Int :=
  let l := m.log2
  let one : Int := ((2 ^ w : Nat) : Int)
  let y := toFx w (m : Int) (-(l : Int))
  let z := (y - one) * one / (y + one)
  ((l : Int) + e) * ln2Fx w + 2 * atanhSeries w (fxMul w z z) w 0 z 0

/-- Σ 2^i x^(2i+1) / (2i+1)!!: the positive series of erf. -/
def erfSeries (w : Nat) (x2 : Int) : Nat → Nat → Int → Int → Int
  | 0, _, _, acc => acc
  | n + 1, i, t, acc =>
    if t = 0 then acc
    else erfSeries w x2 n (i + 1) (2 * fxMul w t x2 / (2 * (i : Int) + 3)) (acc + t)

/-- erf x for 0 ≤ x < 4 with w fraction bits. -/
def erfFx (w : Nat) (x : Int) : Int :=
  let one : Int := ((2 ^ w : Nat) : Int)
  let x2 := fxMul w x x
  let s := erfSeries w x2 (8 * w) 0 x 0
  let rootPi : Int := (isqrt ((piFx w).toNat * 2 ^ w) : Nat)
  2 * fxMul w s (expFx w (-x2)) * one / rootPi

/-- tanh x for 0 ≤ x < 64 with w fraction bits. -/
def tanhFx (w : Nat) (x : Int) : Int :=
  let one : Int := ((2 ^ w : Nat) : Int)
  let t := expFx w (-2 * x)
  (one - t) * one / (one + t)

/-- 1/(1 + e^(−x)) for |x| < 256 with w fraction bits. -/
def sigmoidFx (w : Nat) (x : Int) : Int :=
  let one : Int := ((2 ^ w : Nat) : Int)
  one * one / (one + expFx w (-x))

/-- Rounds the value enclosed by f p with error below 2^(−p), p growing until both ends round alike. -/
def roundEnclosed (f : Nat → Int) : Nat → Nat → FVal
  | 0, p =>
    let v := f (p + 400)
    .fin (decide (v < 0)) v.natAbs (-((p + 400 : Nat) : Int))
  | n + 1, p =>
    let w := p + 400
    let v := f w
    let d : Int := ((2 ^ 400 : Nat) : Int)
    let lo := v - d
    let hi := v + d
    let fl := fun (x : Int) => FVal.fin (decide (x < 0)) x.natAbs (-(w : Int))
    if enc fp32 (fl lo) = enc fp32 (fl hi) then fl v else roundEnclosed f n (2 * p)

/-- The doublings of the precision that the enclosures may take, from 256 bits on. -/
def enclosureFuel : Nat := 6

/-- e^x (R162, R164). -/
def fExp : FVal → FVal
  | .nan => .nan
  | .inf a => if a then .fin false 0 0 else .inf false
  | .fin a m e =>
    if m = 0 then fOne
    else if magLe 128 0 m e then (if a then .fin false 1 (-200) else .fin false 1 200)
    else roundEnclosed (fun w => expFx w (toFx w (sgn a m) e)) enclosureFuel 256

/-- ln x (R162, R164). -/
def fLog : FVal → FVal
  | .nan => .nan
  | .inf a => if a then .nan else .inf false
  | .fin a m e =>
    if m = 0 then .inf true
    else if a then .nan
    else if magLe m e 1 0 && magLe 1 0 m e then .fin false 0 0
    else roundEnclosed (fun w => lnFx w m e) enclosureFuel 256

/-- tanh x (R162, R164). -/
def fTanh : FVal → FVal
  | .nan => .nan
  | .inf a => .fin a 1 0
  | .fin a m e =>
    if m = 0 then .fin a 0 e
    else if magLe 64 0 m e then .fin a 1 0
    else match roundEnclosed (fun w => tanhFx w (toFx w (m : Int) e)) enclosureFuel 256 with
      | .fin _ k q => .fin a k q
      | v => v

/-- 1/(1 + e^(−x)) (R162, R164). -/
def fSigmoid : FVal → FVal
  | .nan => .nan
  | .inf a => if a then .fin false 0 0 else fOne
  | .fin a m e =>
    if m = 0 then .fin false 1 (-1)
    else if magLe 200 0 m e then (if a then .fin false 1 (-200) else fOne)
    else roundEnclosed (fun w => sigmoidFx w (toFx w (sgn a m) e)) enclosureFuel 256

/-- erf x (R162, R164). -/
def fErf : FVal → FVal
  | .nan => .nan
  | .inf a => .fin a 1 0
  | .fin a m e =>
    if m = 0 then .fin a 0 e
    else if magLe 4 0 m e then .fin a 1 0
    else match roundEnclosed (fun w => erfFx w (toFx w (m : Int) e)) enclosureFuel 256 with
      | .fin _ k q => .fin a k q
      | v => v

end Sys2Proof.Machine
end

