-- ==== Sys2Proof/Machine/Vxe.lean ====
section
/-! DEFINITION. The vector engine (R152 to R198): element-wise arithmetic, conversions, reductions, norm accumulators,
the optimiser update, the Grain generator, and the operand cache. Every source line is read before the operation writes
(DEDUCED from R85). -/

namespace Sys2Proof.Machine

/-! ### Formats and operands -/

/-- The format of a "format" field: 0 FP32, 1 FP64, 2 BF16, 3 FP16 (R155). -/
def vFmt (c : Nat) : FloatFmt := match c with | 0 => fp32 | 1 => fp64 | 2 => bf16 | _ => fp16

/-- The format in which the arithmetic is done (R163). -/
def vArith (c : Nat) : FloatFmt := if c = 1 then fp64 else fp32

/-- Elements per line. -/
def vPer (c : Nat) : Nat := 512 / (vFmt c).width

/-- A result into the operation's format (R161, R163). -/
def vEnc (c : Nat) (x : FVal) : Nat := enc (vFmt c) (rnd (vArith c) x)

/-- Elements of `n` lines from line `l` on. -/
def Tile.velems (t : Tile) (c l n : Nat) : List FVal :=
  (List.range n).flatMap fun j => (unpackElems (vFmt c).width (t.line (l + j)) 0 (vPer c)).map (decodeF (vFmt c))

/-- Operand-cache entry `i` of a thread, and its absolute number (R158). -/
def cacheNo (o : Op) (i : Nat) : Nat := 16 * o.thread + i % 16
def Tile.entry (t : Tile) (n : Nat) : Nat := mget 0 t.cache n
def Tile.setEntry (t : Tile) (n v : Nat) : Tile :=
  { t with cache := mset 0 t.cache n v, err := { t.err with badCache := mset false t.err.badCache n false } }

/-- A cache operand field that R156 allows for the format. -/
def cacheOk (c f : Nat) : Bool :=
  decide (bits f 10 14 = 0) && (if bit f 4 then decide (bits f 5 5 < vPer c) else decide (bits f 5 5 = 0))

/-- The elements that a cache operand supplies for `n` lines (R156). -/
def Tile.centry (t : Tile) (o : Op) (c f n : Nat) : List FVal :=
  let xs := (unpackElems (vFmt c).width (t.entry (cacheNo o (bits f 0 4))) 0 (vPer c)).map (decodeF (vFmt c))
  let one := if bit f 4 then List.replicate (vPer c) (xs[bits f 5 5]?.getD fPosZero) else xs
  (List.replicate n one).flatten

/-- A source operand: lines of tile memory or a cache operand. -/
def Tile.vsrc (t : Tile) (o : Op) (cached : Bool) (f ea c n : Nat) : List FVal :=
  if cached then t.centry o c f n else t.velems c (ea / 64) n

/-- The residue modulo 127 of a partial, and the one stored with it (R196). -/
def Norm.residue (a : Norm) (n : Nat) : Nat := match decodeF fp64 (mget 0 a.parts n) with | .fin _ m _ => m % 127 | _ => 0
def Norm.stored (a : Norm) (n : Nat) : Nat := (a.residue n + mget 0 a.res n) % 127

/-- Every partial agrees with its stored residue. -/
def Norm.sound (a : Norm) : Bool := a.res.all fun kv => decide (a.stored kv.1 = a.residue kv.1)

/-- Rows of R196 that an operation runs besides the cache's parity: 1 decode and conversion, 2 addition, multiplication and fused
multiply-add, 3 DIV and SQRT, 4 RSQRT to ERF, 5 reductions and norm accumulators, 6 the optimiser update, 7 Grain. VOCL, VOCS and VNORM CLEAR
run none. DEDUCED, log entry 145. -/
def stagesTap (tap : Bool) : List Nat := if tap then [2, 5] else []
def stagesVew (o : Op) : List Nat :=
  (match bits (wAux o.w) 0 4 with | 0 | 1 | 2 => [1, 2] | 3 | 9 => [1, 3] | 4 | 5 | 6 | 7 | 8 => [1] | _ => [1, 4]) ++ stagesTap (bit (wAux o.w) 4)
def stagesVfma (o : Op) : List Nat := [1, 2] ++ stagesTap (bit (wAux o.w) 4)
def stagesVcvt (o : Op) : List Nat := if bits (wAux o.w) 4 2 = 2 then [1, 7] else [1]
def stagesVred (o : Op) : List Nat := match bits (wAux o.w) 0 3 with | 0 | 1 => [1, 2, 5] | 6 | 7 => [1, 2, 3, 5] | _ => [1, 5]
def stagesAcc : List Nat := [1, 2, 5]
def stagesNormRead : List Nat := [2, 5]
def stagesVopt (o : Op) : List Nat := [1, 6] ++ stagesTap (bit (wAux o.w) 4)
def stagesVgrn (o : Op) : List Nat := if bits (wFmt o.w) 0 2 = 2 then [1, 2, 7] else [7]

/-- The checks of an operation that reads the cache entries `es` and the norm accumulators `ns`: parity first (R160), then the stored
residues of the partials and a mismatch in a row of R196 that it runs (an input from the physical world), then `e`. -/
def vxeCheck (s : State) (o : Op) (es ns stages : List Nat) (e : Eff) : Eff :=
  match es.find? fun n => mget false (s.tile o.tile).err.badCache n with
  | some n => .detect (o.det .cache n)
  | none =>
    if !(ns.all fun n => (mget {} (s.tile o.tile).norms n).sound) then .detect (o.det (.residue true 5) 0)
    else match (s.tile o.tile).err.vxeUpset with
      | some stage => if stage ∈ stages then .detect (o.det (.residue true stage) 0) else e
      | none => e

/-- Lines of packed elements. -/
def vLines (c : Nat) (n : Nat) (xs : List Nat) : List (Nat × Bool) :=
  (chunks (vPer c) n xs).map fun ys => (packElems (vFmt c).width ys, false)

/-- What the statistics see of an element written in format `c`. -/
def vElem (c n : Nat) : Elem := ⟨(decodeF (vFmt c) n).isZero, false, (decodeF (vFmt c) n).nonFinite⟩

/-! ### Norm accumulators (R179, R180) -/

/-- Absolute number of norm accumulator `i` of an operation's thread. -/
def normNo (o : Op) (i : Nat) : Nat := 4 * o.thread + i % 4
def Tile.norm (t : Tile) (o : Op) (i : Nat) : Norm := mget {} t.norms (4 * o.thread + i % 4)
def Tile.setNorm (t : Tile) (o : Op) (i : Nat) (v : Norm) : Tile := { t with norms := mset {} t.norms (4 * o.thread + i % 4) v }

/-- The square of element `n` of an operation into its lane. The spec names the NONFINITE bit without its condition: a non-finite element sets
it, a partial that overflows does not. DESIGN CHOICE, log entry 138. -/
def Norm.tap (a : Norm) (n : Nat) (x : FVal) : Norm :=
  { parts := mmod 0 a.parts (n % 16) fun p => enc fp64 (fAdd (fMul x x) (decodeF fp64 p))
    count := (a.count + 1) % 2 ^ 64
    nonfinite := a.nonfinite || x.nonFinite }

/-- The squares of consecutive elements. -/
def Norm.taps (a : Norm) : Nat → List FVal → Norm
  | _, [] => a
  | n, x :: xs => (a.tap n x).taps (n + 1) xs

/-- The pairwise tree of R134 and R174 over a list whose length is a power of two up to 16. -/
def pairLevel {α : Type} (f : α → α → α) : List α → List α
  | a :: b :: rest => f a b :: pairLevel f rest
  | xs => xs

def pairTree {α : Type} (f : α → α → α) (d : α) (xs : List α) : α :=
  (pairLevel f (pairLevel f (pairLevel f (pairLevel f xs)))).headD d

/-- The sum that VNORM READ reports (R181). -/
def Norm.sum (a : Norm) : FVal :=
  if a.count = 0 then fPosZero
  else pairTree (fun x y => rnd fp64 (fAdd x y)) fPosZero ((List.range 16).map fun i => decodeF fp64 (mget 0 a.parts i))

/-- The line that VNORM READ writes (R181). -/
def Norm.readLine (a : Norm) : Nat :=
  enc fp64 a.sum + a.count * 2 ^ 64 + (b2n (decide (a.count = 0)) + 2 * b2n a.nonfinite) * 2 ^ 128

/-! ### VEW and VFMA -/

/-- The functions of R162 before rounding. -/
def vewFn (fn : Nat) (a b : FVal) : FVal :=
  match fn with
  | 0 => fAdd a b | 1 => fAdd a (fNeg b) | 2 => fMul a b | 3 => fDiv a b | 4 => fMax a b | 5 => fMin a b
  | 6 => fAbs a | 7 => fNeg a | 8 => fMax a fPosZero | 9 => fSqrt a | 10 => fRsqrt a | 11 => fExp a | 12 => fLog a
  | 13 => fTanh a | 14 => fSigmoid a | _ => fErf a

/-- Entries that the cache operands of VEW and VFMA read. -/
def vewEntries (o : Op) : List Nat :=
  (if bit (wFmt o.w) 2 then [cacheNo o (bits (wOpa o.w) 0 4)] else []) ++
    (if bit (wFmt o.w) 3 then [cacheNo o (bits (wOpb o.w) 0 4)] else [])

/-- The norm accumulator that a VEW or VFMA updates (R180). -/
def tapNorms (o : Op) : List Nat := if bit (wAux o.w) 4 then [normNo o (bits (wAux o.w) 5 2)] else []

/-- The norm accumulators that a VOPT updates (R186). -/
def optNorms (o : Op) : List Nat := if bit (wAux o.w) 4 then [normNo o 0, normNo o 1, normNo o 2] else []

/-- The source operands of VEW and VFMA. -/
def vewAccs (o : Op) (two : Bool) : List OpAcc :=
  let n := wLen o.w
  (if bit (wFmt o.w) 2 then [] else [{ fld := 1, foot := 64 * n, reach := .tile n 64 true false, consumer := 2 }]) ++
    (if bit (wFmt o.w) 3 || !two then [] else [{ fld := 2, foot := 64 * n, reach := .tile n 64 true false, consumer := 2 }])

/-- Elements written at OPD, with flags, taps and statistics (R180, R194, R209, R220). -/
def vewWrite (s : State) (o : Op) (stages : List Nat) (outs : List Nat) : Eff :=
  let c := bits (wFmt o.w) 0 2
  let els := outs.map (vElem c)
  let s1 := s.opLines o (o.d / 64) (vLines c (wLen o.w) outs)
  let s2 := s1.setFlags o { nonfinite := some (els.any fun e => e.nonfin) }
  let acc := bits (wAux o.w) 5 2
  let s3 := if bit (wAux o.w) 4 then
      s2.modTile o.tile fun t => t.setNorm o acc ((t.norm o acc).taps 0 (outs.map (decodeF (vFmt c))))
    else s2
  vxeCheck s o (vewEntries o) (tapNorms o) stages (.done (s3.stats o (o.d / 64) (chunks (vPer c) (wLen o.w) els)))

def vewEffect (s : State) (o : Op) : Eff :=
  let t := s.tile o.tile
  let c := bits (wFmt o.w) 0 2
  let fn := bits (wAux o.w) 0 4
  let n := wLen o.w
  let xa := t.vsrc o (bit (wFmt o.w) 2) (wOpa o.w) o.a c n
  let xb := if fn < 6 then t.vsrc o (bit (wFmt o.w) 3) (wOpb o.w) o.b c n else xa
  vewWrite s o (stagesVew o) (List.zipWith (fun a b => vEnc c (vewFn fn a b)) xa xb)

def vewSpec : OpSpec :=
  { enc := fun _ o =>
      let c := bits (wFmt o.w) 0 2
      let fn := bits (wAux o.w) 0 4
      let two := decide (fn < 6)
      { opd := .mem
        opa := if bit (wFmt o.w) 2 then .judged (cacheOk c (wOpa o.w)) else .mem
        opb := if !two then .none else if bit (wFmt o.w) 3 then .judged (cacheOk c (wOpb o.w)) else .mem
        fields := !bit (wAux o.w) 7 && !(decide (c = 1) && decide (10 ≤ fn)) && (two || !bit (wFmt o.w) 3)
        needLen := true }
    accs := fun _ o =>
      { fld := 0, foot := 64 * wLen o.w, reach := .tile (wLen o.w) 64 false true } :: vewAccs o (decide (bits (wAux o.w) 0 4 < 6))
    effect := vewEffect }

def execVew (tile thread : Nat) (w : BitVec 128) (s : State) : Host.Outcome State Fault Refusal :=
  runOp (.vew tile thread w) tile thread w vewSpec s

/-- round(a × b + d), the product negated with NEGP (R165). -/
def vfmaFn (neg : Bool) (a b d : FVal) : FVal := fAdd (if neg then fNeg (fMul a b) else fMul a b) d

def vfmaEffect (s : State) (o : Op) : Eff :=
  let t := s.tile o.tile
  let c := bits (wFmt o.w) 0 2
  let n := wLen o.w
  let xa := t.vsrc o (bit (wFmt o.w) 2) (wOpa o.w) o.a c n
  let xb := t.vsrc o (bit (wFmt o.w) 3) (wOpb o.w) o.b c n
  let xd := t.velems c (o.d / 64) n
  vewWrite s o (stagesVfma o) (List.zipWith (fun ab d => vEnc c (vfmaFn (bit (wAux o.w) 0) ab.1 ab.2 d)) (xa.zip xb) xd)

def vfmaSpec : OpSpec :=
  { enc := fun _ o =>
      let c := bits (wFmt o.w) 0 2
      { opd := .mem
        opa := if bit (wFmt o.w) 2 then .judged (cacheOk c (wOpa o.w)) else .mem
        opb := if bit (wFmt o.w) 3 then .judged (cacheOk c (wOpb o.w)) else .mem
        fields := !bit (wAux o.w) 7 && decide (bits (wAux o.w) 1 3 = 0)
        needLen := true }
    accs := fun _ o =>
      { fld := 0, foot := 64 * wLen o.w, reach := .tile (wLen o.w) 64 true true, consumer := 2 } :: vewAccs o true
    effect := vfmaEffect }

def execVfma (tile thread : Nat) (w : BitVec 128) (s : State) : Host.Outcome State Fault Refusal :=
  runOp (.vfma tile thread w) tile thread w vfmaSpec s

/-! ### Conversions (R166 to R173) -/

/-- Element width of a vector format code. -/
def vcBits (c : Nat) : Nat :=
  match c with
  | 0 | 10 => 32 | 1 => 64 | 2 | 3 => 16 | 6 | 7 => 6 | 8 => 4 | _ => 8

/-- Lines of a conversion unit (R167). -/
def vcLines (c : Nat) (mx : Bool) : Nat := vcBits c + b2n mx

/-- The floating format of a code; the integer codes have none. -/
def vcFloat (c : Nat) : Option FloatFmt :=
  match c with
  | 0 => some fp32 | 1 => some fp64 | 2 => some bf16 | 3 => some fp16 | 4 => some fp8e4m3 | 5 => some fp8e5m2
  | 6 => some fp6e3m2 | 7 => some fp6e2m3 | 8 => some fp4e2m1 | _ => none

/-- Value of an element; code 9 with the MX flag is MXINT8 (R166). -/
def vcElem (c : Nat) (mx : Bool) (n : Nat) : FVal :=
  match vcFloat c with
  | some f => decodeF f n
  | none => if c = 9 then (if mx then fScale (-6) (fInt (sext 8 n)) else fInt (sext 8 n)) else fInt (sext 32 n)

/-- Element `i` of a source unit (R167, R173). -/
def vcSource (c : Nat) (mx : Bool) (unit i : Nat) : FVal :=
  let x := vcElem c mx (bits unit (vcBits c * i) (vcBits c))
  if mx then
    let sc := bits unit (512 * vcBits c + 8 * (i / 32)) 8
    if sc = 255 then .nan else fScale ((sc : Int) - 127) x
  else x

/-- One rounding into a destination element (R169, R171, R172, R621). -/
def vcRound (c : Nat) (mx : Bool) (r : Rnd) (x : FVal) : Rounded :=
  match vcFloat c with
  | some f => if mx then roundMx f r x else roundF f r x
  | none => if c = 9 then roundToInt 8 r (if mx then fScale 6 x else x) else roundToInt 32 r x

/-- emax of an MX element format (R166). -/
def vcEmax (c : Nat) : Int := match c with | 4 => 8 | 5 => 15 | 6 => 4 | 7 => 2 | 8 => 2 | _ => 0

/-- A converted element: what was written and what the flags and the statistics see of it. -/
structure Conv where
  out : Rounded
  elem : Elem
  deriving DecidableEq, Repr

/-- One element into a format without the MX flag. -/
def vcPlain (c : Nat) (r : Rnd) (x : FVal) : Conv :=
  let u := vcRound c false r x
  let y := vcElem c false u.bits
  ⟨u, ⟨y.isZero, u.clamped, match vcFloat c with | some _ => y.nonFinite | none => x.nonFinite⟩⟩

/-- The scale exponent of a vector of finite values (R172). -/
def vcScaleExp (c : Nat) (xs : List FVal) : Int :=
  let logs := xs.filterMap fun x => match x with | .fin _ m e => if m = 0 then none else some (log2F m e) | _ => none
  let x : Int := match logs with | [] => -127 | l :: ls => ls.foldl max l - vcEmax c
  min (max x (-127)) 127

/-- One 32-element vector into an MX format: its scale and its elements (R172). -/
def vcVector (c : Nat) (rs : List Rnd) (xs : List FVal) : Nat × List Conv :=
  if xs.any FVal.nonFinite then (255, xs.map fun _ => ⟨⟨0, false, false⟩, ⟨false, false, true⟩⟩)
  else
    let e := vcScaleExp c xs
    ((e + 127).toNat, List.zipWith (fun r x =>
      let u := vcRound c true r (fScale (-e) x)
      ⟨u, ⟨(vcElem c true u.bits).isZero, u.clamped, false⟩⟩) rs xs)

/-- One unit: its elements and, for an MX destination, its scale line, whose bytes 16 to 63 are written as zero. DESIGN CHOICE, log entry
137. -/
def vcUnit (c : Nat) (mx : Bool) (rs : List Rnd) (xs : List FVal) : List Conv × List Nat :=
  if mx then
    let vs := (List.range 16).map fun v => vcVector c ((rs.drop (32 * v)).take 32) ((xs.drop (32 * v)).take 32)
    (vs.flatMap fun v => v.2, [packElems 8 (vs.map fun v => v.1)])
  else (List.zipWith (fun r x => vcPlain c r x) rs xs, [])

/-- The elements that begin in each of the `w` element lines of a unit, and none in the scale line (R220). -/
def vcElemLines (w : Nat) (mx : Bool) (els : List Elem) : List (List Elem) :=
  ((List.range w).map fun j => (els.drop (ceilDiv (512 * j) w)).take (ceilDiv (512 * (j + 1)) w - ceilDiv (512 * j) w)) ++
    (if mx then [[]] else [])

/-- The fields of a Grain descriptor (R188). -/
def gdStep (d : Nat) : Nat := bits d 0 64
def gdTensor (d : Nat) : Nat := bits d 64 32
def gdBase (d : Nat) : Nat := bits d 96 32
def gdDrop (d : Nat) : Nat := bits d 128 32
def gdKeep (d : Nat) : Nat := bits d 160 32

/-- The Grain output at element `n` of an operation (R170, R191). -/
def Tile.draw (t : Tile) (d n : Nat) : Nat := grain t.cfg.seed (gdStep d) (gdTensor d) ((gdBase d + n) % 2 ^ 32)

/-- The element base advanced by `n` (R189). -/
def Tile.advanceBase (t : Tile) (e n : Nat) : Tile :=
  { t with cache := mset 0 t.cache e (setBits (t.entry e) 96 32 ((gdBase (t.entry e) + n) % 2 ^ 32)) }

/-- The units of a VCVT: source values, converted elements and scale lines (R167 to R173). -/
def vcvtUnits (t : Tile) (o : Op) : List (List FVal × List Conv × List Nat) :=
  let sc := wFmt o.w
  let smx := bit (wAux o.w) 6
  let mode := bits (wAux o.w) 4 2
  let d := t.entry (cacheNo o (wOpb o.w))
  let sl := vcLines sc smx
  (List.range (wLen o.w)).map fun u =>
    let blob := memRead t.mem (o.a + 64 * sl * u) (64 * sl)
    let xs := (List.range 512).map (vcSource sc smx blob)
    let rs := (List.range 512).map fun i => match mode with | 0 => Rnd.rne | 1 => .rtz | _ => .sr (t.draw d (512 * u + i))
    (xs, vcUnit (bits (wAux o.w) 0 4) (bit (wAux o.w) 7) rs xs)

/-- The lines that the units of format `dc` are written as. -/
def vcvtLines (dc : Nat) (us : List (List FVal × List Conv × List Nat)) : List (Nat × Bool) :=
  (us.flatMap fun u => unpackElems 512 (packElems (vcBits dc) (u.2.1.map fun x => x.out.bits)) 0 (vcBits dc) ++ u.2.2).map fun v => (v, false)

/-- The flags that the units set (R194). -/
def vcvtFlags (us : List (List FVal × List Conv × List Nat)) : FlagSet :=
  let cs := us.flatMap fun u => u.2.1
  { inexact := some (cs.any fun x => x.out.inexact), saturated := some (cs.any fun x => x.out.clamped),
    nonfinite := some ((us.any fun u => u.1.any FVal.nonFinite) || cs.any fun x => x.elem.nonfin) }

def vcvtEffect (s : State) (o : Op) : Eff :=
  let us := vcvtUnits (s.tile o.tile) o
  let dc := bits (wAux o.w) 0 4
  let mode := bits (wAux o.w) 4 2
  let e := cacheNo o (wOpb o.w)
  let s2 := (s.opLines o (o.d / 64) (vcvtLines dc us)).setFlags o (vcvtFlags us)
  let s3 := if mode = 2 then s2.modTile o.tile fun t => t.advanceBase e (512 * wLen o.w) else s2
  vxeCheck s o (if mode = 2 then [e] else []) [] (stagesVcvt o)
    (.done (s3.stats o (o.d / 64) (us.flatMap fun u => vcElemLines (vcBits dc) (bit (wAux o.w) 7) (u.2.1.map fun x => x.elem))))

def vcvtSpec : OpSpec :=
  { enc := fun _ o =>
      let sc := wFmt o.w
      let dc := bits (wAux o.w) 0 4
      let mode := bits (wAux o.w) 4 2
      { opd := .mem, opa := .mem, opb := if mode = 2 then .idx 4 else .none
        fields := decide (sc ≤ 10) && decide (dc ≤ 10) && decide (mode ≠ 3) &&
          (!bit (wAux o.w) 6 || (decide (4 ≤ sc) && decide (sc ≤ 9))) && (!bit (wAux o.w) 7 || (decide (4 ≤ dc) && decide (dc ≤ 9)))
        needLen := true }
    accs := fun _ o =>
      let nd := wLen o.w * vcLines (bits (wAux o.w) 0 4) (bit (wAux o.w) 7)
      let ns := wLen o.w * vcLines (wFmt o.w) (bit (wAux o.w) 6)
      [{ fld := 0, foot := 64 * nd, reach := .tile nd 64 false true },
       { fld := 1, foot := 64 * ns, reach := .tile ns 64 true false, consumer := 2 }]
    effect := vcvtEffect }

def execVcvt (tile thread : Nat) (w : BitVec 128) (s : State) : Host.Outcome State Fault Refusal :=
  runOp (.vcvt tile thread w) tile thread w vcvtSpec s

/-! ### Reductions (R174 to R178) -/

/-- A partial of a lane or of the tree: `none` is empty (R174). -/
def foldPart {α : Type} (f : α → α → α) : Option α → Option α → Option α
  | none, y => y
  | x, none => x
  | some x, some y => some (f x y)

/-- The reduction of R174 of the included elements, each with its position: `first` starts an empty lane, `fold` goes on,
`join` combines two partials. -/
def reduceWith {α β : Type} (lanes : Nat) (first : β → α) (fold : α → β → α) (join : α → α → α) (xs : List (Nat × β)) : Option α :=
  let lane := fun i => (xs.filter fun x => decide (x.1 % lanes = i)).foldl
    (fun acc x => match acc with | none => some (first x.2) | some p => some (fold p x.2)) none
  pairTree (foldPart join) none ((List.range lanes).map lane)

/-- Of two candidates (value, index), the one that MAX (`hi`) or MIN keeps: the first NaN, or the larger or smaller value,
and among equals the smaller index (R177). -/
def pickExtreme (hi : Bool) (x y : FVal × Nat) : FVal × Nat :=
  let low := if x.2 ≤ y.2 then x else y
  if x.1 = .nan then (if y.1 = .nan then low else x)
  else if y.1 = .nan then y
  else if fLe x.1 y.1 && fLe y.1 x.1 then low
  else if fLe x.1 y.1 = hi then y else x

/-- What a reduction yields: value, variance, index (R176). -/
def vredValue (fn : Nat) (f : FloatFmt) (lanes : Nat) (xs : List (Nat × FVal)) : FVal × FVal × Nat :=
  let r := rnd f
  let sum := reduceWith lanes id (fun p x => r (fAdd p x)) (fun a b => r (fAdd a b)) xs
  let mean := match sum with | none => fPosZero | some v => r (fDiv v (fNat xs.length))
  match fn with
  | 0 => (sum.getD fPosZero, fPosZero, 0xFFFFFFFF)
  | 1 => ((reduceWith lanes id (fun p x => r (fMul p x)) (fun a b => r (fMul a b)) xs).getD fOne, fPosZero, 0xFFFFFFFF)
  | 6 => (mean, fPosZero, 0xFFFFFFFF)
  | 7 =>
    let sq := reduceWith lanes (fun x => let d := r (fAdd x (fNeg mean)); r (fAdd (fMul d d) fPosZero))
      (fun p x => let d := r (fAdd x (fNeg mean)); r (fAdd (fMul d d) p)) (fun a b => r (fAdd a b)) xs
    (mean, (match sq with | none => fPosZero | some v => r (fDiv v (fNat xs.length))), 0xFFFFFFFF)
  | _ =>
    let hi := decide (fn = 2) || decide (fn = 4)
    match reduceWith lanes id (pickExtreme hi) (pickExtreme hi) (xs.map fun x => (x.1, (x.2, x.1))) with
    | none => (.inf hi, fPosZero, 0xFFFFFFFF)
    | some (v, i) => (v, fPosZero, if fn = 4 || fn = 5 then i else 0xFFFFFFFF)

/-- Mask lines of a reduction of `n` elements (R175). -/
def maskLines (n : Nat) : Nat := ceilDiv n 512

def vredEffect (s : State) (o : Op) : Eff :=
  let t := s.tile o.tile
  let c := bits (wFmt o.w) 0 2
  let fn := bits (wAux o.w) 0 3
  let f := vArith c
  let all := t.velems c (o.a / 64) (wLen o.w)
  let mask := if wOpb o.w = noneForm then none else some (memRead t.mem o.b (64 * maskLines all.length))
  let limit := if bit (wAux o.w) 6 then some (o.pre.getK (bits (wAux o.w) 3 3)) else none
  let xs := ((List.range all.length).zip all).filter fun x =>
    (match mask with | none => true | some m => bit m x.1) && (match limit with | none => true | some k => decide (x.1 < k))
  match vredValue fn f (if c = 1 then 4 else 16) xs with
  | (v, q, i) =>
    let status := b2n xs.isEmpty + 2 * b2n (xs.any fun x => x.2.nonFinite)
    let line := enc f v + (if fn = 7 then enc f q else 0) * 2 ^ 64 + i * 2 ^ 128 + xs.length * 2 ^ 160 + status * 2 ^ 192
    let s1 := s.opLine o (o.d / 64) line false
    vxeCheck s o [] [] (stagesVred o) (.done (s1.setFlags o { empty := some xs.isEmpty, nonfinite := some (v.nonFinite || q.nonFinite) }))

def vredSpec : OpSpec :=
  { enc := fun _ o =>
      { opd := .mem, opa := .mem, opb := .memOrNone, fields := decide (wFmt o.w < 4) && decide (wAux o.w < 128), needLen := true }
    accs := fun _ o =>
      let m := maskLines (wLen o.w * vPer (bits (wFmt o.w) 0 2))
      [{ fld := 0, foot := 64, reach := .tile 1 64 false true },
       { fld := 1, foot := 64 * wLen o.w, reach := .tile (wLen o.w) 64 true false, consumer := 2 }] ++
      (if wOpb o.w = noneForm then [] else [{ fld := 2, foot := 64 * m, reach := .tile m 64 true false, consumer := 2 }])
    effect := vredEffect }

def execVred (tile thread : Nat) (w : BitVec 128) (s : State) : Host.Outcome State Fault Refusal :=
  runOp (.vred tile thread w) tile thread w vredSpec s

/-! ### VNORM -/

/-- Fields that every function of VNORM shares (R155). -/
def vnormFields (o : Op) (fn len : Nat) : Bool :=
  decide (bits (wFmt o.w) 0 2 = fn) && (decide (fn = 0) || decide (wFmt o.w < 4)) && decide (wAux o.w < 4) &&
    (decide (fn = 0) || decide (wLen o.w = len))

/-- VNORM ACC (R180); its row also takes the words whose FMT names no function, which are illegal. -/
def vnormAccSpec : OpSpec :=
  { enc := fun _ o => { opa := .mem, fields := vnormFields o 0 0, needLen := true }
    accs := fun _ o => [{ fld := 1, foot := 64 * wLen o.w, reach := .tile (wLen o.w) 64 true false, consumer := 2 }]
    effect := fun s o => vxeCheck s o [] [normNo o (wAux o.w)] stagesAcc (.done (s.modTile o.tile fun t =>
      t.setNorm o (wAux o.w) ((t.norm o (wAux o.w)).taps 0 (t.velems (bits (wFmt o.w) 2 2) (o.a / 64) (wLen o.w))))) }

def execVnormAcc (tile thread : Nat) (w : BitVec 128) (s : State) : Host.Outcome State Fault Refusal :=
  runOp (.vnormAcc tile thread w) tile thread w vnormAccSpec s

/-- The report of a VNORM READ into a CALIPERS line (R224): layer and quantity. -/
def Tile.caliper (t : Tile) (l : Nat) : Option (Nat × Nat) :=
  match t.tagOf l with
  | some e =>
    let x := l - regBase e
    if tagClass e = 2 && decide (x % 8 ≤ 4) then some (tagId e + x / 8, x % 8) else none
  | none => none

/-- The report leaves in VC1, once over reruns (R106, R222: DEDUCED), and never from a pool tile. -/
def State.reportCaliper (s : State) (o : Op) (l x count : Nat) (nonfinite : Bool) : State :=
  match (s.tile o.tile).caliper l with
  | none => s
  | some (layer, q) =>
    let item (t : Tile) : Tile :=
      (t.digestBytes o.thread (layer + q * 2 ^ 32) 8).digestBytes o.thread (x + count * 2 ^ 64 + b2n nonfinite * 2 ^ 128) 17
    match (s.modTile o.tile item).counted o with
    | (true, s1) => s1
    | (false, s1) =>
      if (s.tile o.tile).shadow.isSome then s1
      else { s1 with nextId := s1.nextId + 1, telItems := s1.telItems ++
        [{ id := s1.nextId, tile := o.tile, ctx := o.ctx, body := .calipers layer q x count nonfinite, stamp := s1.stampNow }] }

def vnormReadEffect (s : State) (o : Op) : Eff :=
  let a := (s.tile o.tile).norm o (wAux o.w)
  let x := enc fp64 a.sum
  let e := decide (a.count = 0)
  let s1 := s.opLine o (o.d / 64) a.readLine false
  let s2 := s1.setFlags o { empty := some e, nonfinite := some a.sum.nonFinite }
  let s3 := s2.modTile o.tile fun t => t.setNorm o (wAux o.w) {}
  vxeCheck s o [] [normNo o (wAux o.w)] stagesNormRead (.done (s3.reportCaliper o (o.d / 64) x a.count a.nonfinite))

def vnormReadSpec : OpSpec :=
  { enc := fun _ o => { opd := .mem, fields := vnormFields o 1 1 }
    accs := fun _ _ => [{ fld := 0, foot := 64, reach := .tile 1 64 false true }]
    effect := vnormReadEffect }

def execVnormRead (tile thread : Nat) (w : BitVec 128) (s : State) : Host.Outcome State Fault Refusal :=
  runOp (.vnormRead tile thread w) tile thread w vnormReadSpec s

def vnormClearSpec : OpSpec :=
  { enc := fun _ o => { fields := vnormFields o 2 0 }
    effect := fun s o => vxeCheck s o [] [] [] (.done (s.modTile o.tile fun t => t.setNorm o (wAux o.w) {})) }

def execVnormClear (tile thread : Nat) (w : BitVec 128) (s : State) : Host.Outcome State Fault Refusal :=
  runOp (.vnormClear tile thread w) tile thread w vnormClearSpec s

/-! ### Optimiser (R182 to R186) -/

/-- The hyper-parameters of an entry (R183). -/
structure Hyper where
  eta : FVal
  b1 : FVal
  o1 : FVal
  b2 : FVal
  o2 : FVal
  eps : FVal
  lam : FVal
  c1 : FVal
  c2 : FVal
  gam : FVal
  s : Int
  deriving DecidableEq, Repr

def hyperOf (e : Nat) : Hyper :=
  let x := fun i => decodeF fp32 (bits e (32 * i) 32)
  { eta := x 0, b1 := x 1, o1 := x 2, b2 := x 3, o2 := x 4, eps := x 5, lam := x 6, c1 := x 7, c2 := x 8, gam := x 9
    s := min (max (sext 32 (bits e 320 32)) (-64)) 64 }

/-- sign(t) of Lion (R184). -/
def fSign : FVal → FVal
  | .nan => .nan
  | .inf a => .fin a 1 0
  | .fin a m _ => if m = 0 then fPosZero else .fin a 1 0

/-- The new state of one element. -/
structure OptOut where
  m : FVal
  v : FVal
  w : FVal
  /-- us × 2^−S. -/
  step : FVal
  deriving DecidableEq, Repr

/-- The update of R184 for one element with gs. -/
def optElem (alg : Nat) (h : Hyper) (gs w m v : FVal) : OptOut :=
  let r := rnd fp32
  let gm := r (fAdd (fMul h.b1 m) (match alg with | 0 => gs | _ => r (fMul h.o1 gs)))
  let v' := r (fAdd (fMul h.b2 v) (r (fMul h.o2 (r (fMul gs gs)))))
  let dir := match alg with
    | 0 => gm
    | 1 => r (fDiv (r (fMul gm h.c1)) (r (fAdd (r (fSqrt (r (fMul v' h.c2)))) h.eps)))
    | _ => fSign gm
  let m' := match alg with | 2 => r (fAdd (fMul h.b2 m) (r (fMul h.o2 gs))) | _ => gm
  let u := r (fAdd (fMul h.lam w) dir)
  let us := r (fMul h.eta u)
  let st := fScale (-h.s) us
  { m := m', v := if alg = 1 then v' else v, w := r (fAdd w (fNeg st)), step := st }

/-- Lines of the gradient and of the state operand (R182). -/
def optGradLines (o : Op) : Nat := if bit (wFmt o.w) 2 then wLen o.w / 2 else wLen o.w
def optMomentLines (o : Op) : Nat := if bit (wFmt o.w) 3 then wLen o.w / 2 else wLen o.w
def optStateLines (o : Op) : Nat := if bits (wFmt o.w) 0 2 = 1 then 2 * optMomentLines o else optMomentLines o

/-- The update pass writes: the gate reads COMMIT or is off (R207). -/
def GateSt.writes : GateSt → Bool
  | .commit => true
  | .off => true
  | _ => false

/-- NONFINITE_AFTER_COMMIT (R216). -/
def State.nonfiniteAfterCommit (s : State) (o : Op) (line : Nat) : State :=
  if (s.tile o.tile).shadow.isSome then s
  else (s.noteThread o.tile o.thread o.fill).raise
    { code := 0x0404, locValid := true, ctx := o.ctx, tile := o.tile, superstep := s.superstepOf o.tile
      addr := tileAddr o.tile (64 * line), opIndex := o.idx, detail := (s.tile o.tile).gateStep % 2 ^ 32 }

/-- The update pass of a VOPT whose gradients are finite and whose gate lets it write (R184, R186). Where its operands overlap, the state
lines are written after the parameter lines (DESIGN CHOICE, log entry 185). -/
def optUpdate (s : State) (o : Op) (h : Hyper) (gs : List FVal) : State :=
  let t := s.tile o.tile
  let alg := bits (wFmt o.w) 0 2
  let sc := if bit (wFmt o.w) 3 then 2 else 0
  let n := wLen o.w
  let k := optMomentLines o
  let ws := t.velems 0 (o.d / 64) n
  let ms := t.velems sc (o.b / 64) k
  let vs := if alg = 1 then t.velems sc (o.b / 64 + k) k else ms
  let outs := List.zipWith (fun gw mv => optElem alg h gw.1 gw.2 mv.1 mv.2) (gs.zip ws) (ms.zip vs)
  let mOut := outs.map fun x => vEnc sc x.m
  let vOut := if alg = 1 then outs.map fun x => vEnc sc x.v else []
  let wOut := outs.map fun x => vEnc 0 x.w
  let s1 := s.opLines o (o.d / 64) (vLines 0 n wOut)
  let s2 := s1.opLines o (o.b / 64) (vLines sc k mOut ++ (if alg = 1 then vLines sc k vOut else []))
  let bad := ((mOut ++ vOut).any fun x => (decodeF (vFmt sc) x).nonFinite) || wOut.any fun x => (decodeF fp32 x).nonFinite
  let s3 := s2.setFlags o { nonfinite := some bad }
  if bit (wAux o.w) 4 then
    s3.modTile o.tile fun t =>
      ((t.setNorm o 0 ((t.norm o 0).taps 0 ws)).setNorm o 1 ((t.norm o 1).taps 0 gs)).setNorm o 2
        ((t.norm o 2).taps 0 (outs.map fun x => x.step))
  else s3

def voptEffect (s : State) (o : Op) : Eff :=
  let t := s.tile o.tile
  let e := cacheNo o (bits (wAux o.w) 0 4)
  let h := hyperOf (t.entry e)
  let gc := if bit (wFmt o.w) 2 then 2 else 0
  let gs := (t.velems gc (o.a / 64) (optGradLines o)).map fun g => rnd fp32 (fMul h.gam g)
  vxeCheck s o [e] (optNorms o) (stagesVopt o) (.done (
    match gs.findIdx? FVal.nonFinite with
    | some n =>
      let s1 := s.setFlags o { nonfinite := some true }
      if t.gate = .commit then s1.nonfiniteAfterCommit o (o.a / 64 + n / vPer gc) else s1
    | none => if t.gate.writes then optUpdate s o h gs else s.setFlags o { nonfinite := some false }))

def voptSpec : OpSpec :=
  { enc := fun _ o =>
      { opd := .mem, opa := .mem, opb := .mem
        fields := decide (bits (wFmt o.w) 0 2 ≠ 3) && decide (wAux o.w < 32) &&
          !(decide (4 ≤ wFmt o.w) && decide (wLen o.w % 2 = 1))
        needLen := true }
    accs := fun _ o =>
      [{ fld := 0, foot := 64 * wLen o.w, reach := .tile (wLen o.w) 64 true true, consumer := 2 },
       { fld := 1, foot := 64 * optGradLines o, reach := .tile (optGradLines o) 64 true false, consumer := 2 },
       { fld := 2, foot := 64 * optStateLines o, reach := .tile (optStateLines o) 64 true true, consumer := 2 }]
    hold := fun s o => decide ((s.tile o.tile).gate = .opened) || decide ((s.tile o.tile).gate = .wait)
    effect := voptEffect }

def execVopt (tile thread : Nat) (w : BitVec 128) (s : State) : Host.Outcome State Fault Refusal :=
  runOp (.vopt tile thread w) tile thread w voptSpec s

/-! ### Grain (R188 to R192) -/

/-- Elements of a VGRN (R191). -/
def vgrnCount (o : Op) : Nat :=
  wLen o.w * (match bits (wFmt o.w) 0 2 with | 2 => vPer (bits (wFmt o.w) 2 2) | 3 => 512 | _ => 16)

/-- The lines that a VGRN writes (R191). -/
def vgrnLines (t : Tile) (o : Op) (d : Nat) : List (Nat × Bool) :=
  let us := (List.range (vgrnCount o)).map (t.draw d)
  let n := wLen o.w
  match bits (wFmt o.w) 0 2 with
  | 0 => (chunks 16 n us).map fun xs => (packElems 32 xs, false)
  | 1 => vLines 0 n (us.map fun u => enc fp32 (.fin false (u / 256) (-24)))
  | 2 =>
    let c := bits (wFmt o.w) 2 2
    vLines c n (List.zipWith (fun u x => vEnc c (fMul x (if gdDrop d ≤ u then decodeF fp32 (gdKeep d) else fPosZero))) us
      (t.velems c (o.a / 64) n))
  | _ => (chunks 512 n us).map fun xs => (packElems 1 (xs.map fun u => b2n (decide (gdDrop d ≤ u))), false)

def vgrnSpec : OpSpec :=
  { enc := fun _ o =>
      let drop := decide (bits (wFmt o.w) 0 2 = 2)
      { opd := .mem, opa := if drop then .mem else .none, opb := .idx 4
        fields := decide (wAux o.w = 0) && (if drop then decide (bits (wFmt o.w) 2 2 ≠ 1) else decide (wFmt o.w < 4))
        needLen := true }
    accs := fun _ o =>
      { fld := 0, foot := 64 * wLen o.w, reach := .tile (wLen o.w) 64 false true } ::
      (if bits (wFmt o.w) 0 2 = 2 then [{ fld := 1, foot := 64 * wLen o.w, reach := .tile (wLen o.w) 64 true false, consumer := 2 }]
       else [])
    effect := fun s o =>
      let t := s.tile o.tile
      let e := cacheNo o (wOpb o.w)
      vxeCheck s o [e] [] (stagesVgrn o) (.done ((s.opLines o (o.d / 64) (vgrnLines t o (t.entry e))).modTile o.tile fun t =>
        t.advanceBase e (vgrnCount o))) }

def execVgrn (tile thread : Nat) (w : BitVec 128) (s : State) : Host.Outcome State Fault Refusal :=
  runOp (.vgrn tile thread w) tile thread w vgrnSpec s

/-! ### The operand cache (R159) -/

/-- Entries `n`, `n + 1`, … take the lines given. -/
def Tile.setEntries (t : Tile) (n : Nat) : List Nat → Tile
  | [] => t
  | v :: vs => (t.setEntry n v).setEntries (n + 1) vs

def voclSpec : OpSpec :=
  { enc := fun _ o =>
      { opd := .idx 4, opa := .mem, fields := decide (wFmt o.w = 0) && decide (wAux o.w = 0) && decide (wOpd o.w + wLen o.w ≤ 16)
        needLen := true }
    accs := fun _ o => [{ fld := 1, foot := 64 * wLen o.w, reach := .tile (wLen o.w) 64 true false, consumer := 2 }]
    effect := fun s o => vxeCheck s o [] [] [] (.done (s.modTile o.tile fun t =>
      t.setEntries (cacheNo o (wOpd o.w)) ((List.range (wLen o.w)).map fun j => t.line (o.a / 64 + j)))) }

def execVocl (tile thread : Nat) (w : BitVec 128) (s : State) : Host.Outcome State Fault Refusal :=
  runOp (.vocl tile thread w) tile thread w voclSpec s

def vocsSpec : OpSpec :=
  { enc := fun _ o =>
      { opd := .mem, opa := .idx 4, fields := decide (wFmt o.w = 0) && decide (wAux o.w = 0) && decide (wOpa o.w + wLen o.w ≤ 16)
        needLen := true }
    accs := fun _ o => [{ fld := 0, foot := 64 * wLen o.w, reach := .tile (wLen o.w) 64 false true }]
    effect := fun s o =>
      let es := (List.range (wLen o.w)).map fun j => cacheNo o (wOpa o.w) + j
      vxeCheck s o es [] [] (.done (s.opLines o (o.d / 64) (es.map fun n => ((s.tile o.tile).entry n, false)))) }

def execVocs (tile thread : Nat) (w : BitVec 128) (s : State) : Host.Outcome State Fault Refusal :=
  runOp (.vocs tile thread w) tile thread w vocsSpec s

end Sys2Proof.Machine
end

