-- ==== Sys2Proof/Machine/Exchange.lean ====
section
/-! DEFINITION. TBAR, HALT and EXPT (R88, R89), the exchange list and the fill list at entry to the exchange phase (R242 to
R244, R263, R268), and the events of a SEND (R245 to R251). -/

namespace Sys2Proof.Machine

/-! ### Entry to the exchange phase -/

/-- A record of the exchange port or of a list, at thread 0's EXPT (R251, R274). -/
def State.xRec (s : State) (t code addr detail : Nat) : FaultRec :=
  { code := code, ctxFatal := true, locValid := true, ctx := s.tileCtx t, tile := t, superstep := s.superstepOf t, addr := addr
    opIndex := (s.tile t).xOp, detail := detail }

/-- The record is written, of thread 0's main stream (R273). -/
def State.xFault (s : State) (t code addr detail : Nat) : State := (s.noteThread t 0 false).raise (s.xRec t code addr detail)

/-- A logical tile of the same sync group as tile `t`. -/
def State.sameGroup (s : State) (t u : Nat) : Bool :=
  decide (u < 5760) && decide ((s.tset (tsetOf u)).owner = (s.tset (tsetOf t)).owner) &&
    decide ((s.tset (tsetOf u)).group = (s.tset (tsetOf t)).group)

/-- The entry that a 16-byte word holds (R242). -/
def xEntOf (w : Nat) : XEnt :=
  if bits w 0 4 = 1 then
    { send := true, len := bits w 8 16, line := bits w 24 15, dest := bits w 40 56, peer := gTile (bits w 40 56)
      route := bits w 96 13, st := .waiting }
  else
    { send := false, len := bits w 8 16, line := bits w 24 15, dest := 0, peer := bits w 40 13, route := 0, st := .waiting }

/-- Every reserved bit of an entry is zero (R242). -/
def xReservedOk (w : Nat) : Bool :=
  decide (bits w 4 4 = 0) && !bit w 39 && (if bits w 0 4 = 1 then decide (bits w 109 19 = 0) else decide (bits w 53 75 = 0))

/-- The lines of an entry at its own tile. -/
def XEnt.lines (e : XEnt) : List Nat := (List.range e.len).map fun j => e.line + j

/-- The first test of R244 that an entry fails: code, Detail without the index, address. Of the three parts of its first test the one
with the lowest reason is reported (DESIGN CHOICE, log entry 143). For a test of local lines the address is that of the entry's first line
(DESIGN CHOICE, log entry 186). -/
def State.xTest (s : State) (t w : Nat) : Option (Nat × Nat × Nat) :=
  let e := xEntOf w
  let tile := s.tile t
  let here := tileAddr t (64 * e.line)
  if !(decide (bits w 0 4 = 1) || decide (bits w 0 4 = 2)) then some (0x0201, 1 * 2 ^ 16, noAddr)
  else if e.len = 0 || decide (32768 < e.len) then some (0x0201, 2 * 2 ^ 16, noAddr)
  else if !xReservedOk w then some (0x0201, 3 * 2 ^ 16, noAddr)
  else if e.send && !(decide (gSpace e.dest = 1) && gZeroOk e.dest) then some (0x0202, 1 * 2 ^ 16, e.dest)
  else if e.send && !s.sameGroup t e.peer then some (0x0202, 2 * 2 ^ 16, e.dest)
  else if e.send && decide (0x200000 < gOff e.dest + 64 * e.len) then some (0x0202, 3 * 2 ^ 16, e.dest)
  else if 32768 < e.line + e.len then some (0x0202, 3 * 2 ^ 16, here)
  else if e.send && decide (e.dest % 64 ≠ 0) then some (0x0202, 4 * 2 ^ 16, e.dest)
  else if !e.lines.all tile.powered then some (0x0202, 7 * 2 ^ 16, here)
  else if e.send && !e.lines.all tile.xtx then some (0x0202, 5 * 2 ^ 16, here)
  else if !e.send && !e.lines.all tile.xrx then some (0x0202, 6 * 2 ^ 16, here)
  else if !e.send && !s.sameGroup t e.peer then some (0x0202, 2 * 2 ^ 16, noAddr)
  else if e.send && decide (6144 ≤ e.route) then some (0x0202, 8 * 2 ^ 16, e.dest)
  else none

/-- What reading a list at entry meets. -/
inductive ListRead (α : Type) where
  | ok (x : α)
  /-- A parity error in a line. -/
  | parity (line : Nat)
  /-- A record: code, address, Detail. -/
  | bad (code addr detail : Nat)

/-- The lines of a list, as a read by thread 0: R97, parity, poison (R482). -/
def State.listLines (s : State) (t ea lines : Nat) : Option (ListRead Unit) :=
  let tile := s.tile t
  let ls := (List.range lines).map fun j => ea / 64 + j
  match tile.checkLines t 0 ea lines 64 true false false with
  | some c => some (.bad c.code c.addr c.detail)
  | none =>
    match ls.find? tile.parityBad with
    | some l => some (.parity l)
    | none => (ls.find? tile.poisoned).map fun l => .bad 0x0901 (tileAddr t (64 * l)) (l + 5 * 2 ^ 15)

/-- Word `i` of a list at tile offset `ea`. -/
def Tile.listWord (t : Tile) (ea i : Nat) : Nat := memRead t.mem (ea + 16 * i) 16

/-- The exchange list of thread 0's EXPT, all its entries tested in order (R244). -/
def State.readXList (s : State) (t : Nat) : ListRead (List XEnt) :=
  let tile := s.tile t
  if tile.xLen = 0 then .ok []
  else
    match s.listLines t tile.xAddr (ceilDiv tile.xLen 4) with
    | some (.parity l) => .parity l
    | some (.bad c a d) => .bad c a d
    | _ =>
      let ws := (List.range tile.xLen).map (tile.listWord tile.xAddr)
      match (List.range tile.xLen).zip ws |>.find? fun iw => (s.xTest t iw.2).isSome with
      | some (i, w) =>
        match s.xTest t w with
        | some (c, d, a) => .bad c a (i + d)
        | none => .ok []
      | none => .ok (ws.map xEntOf)

/-- The test of R263 that a word of a fill list fails: its lowest reason (DESIGN CHOICE, log entry 143). -/
def fillTest (header : Bool) (w : Nat) : Option Nat :=
  if header then
    if bits w 0 4 ≠ 15 then some 1 else if bits w 8 16 = 0 then some 2
    else if bits w 4 4 ≠ 0 || decide (bits w 24 104 ≠ 0) then some 3 else none
  else
    if bits w 0 4 ≠ 3 then some 1 else if bits w 8 16 = 0 then some 2
    else if bits w 6 2 ≠ 0 || bit w 39 || decide (bits w 96 32 ≠ 0) then some 3 else none

def fillEntOf (w : Nat) : FillEnt := { thread := bits w 4 2, ops := bits w 8 16, startLine := bits w 24 15, a1 := bits w 40 56 }

/-- The fill list that thread 0's EXPT names (R263); `none` is NONE. -/
def State.readFill (s : State) (t : Nat) : ListRead (Option FillList) :=
  let tile := s.tile t
  match tile.xFill with
  | none => .ok none
  | some ea =>
    match s.listLines t ea 1 with
    | some (.parity l) => .parity l
    | some (.bad c a d) => .bad c a d
    | _ =>
      let h := tile.listWord ea 0
      match fillTest true h with
      | some r => .bad 0x0206 (tileAddr t ea) (r * 2 ^ 16)
      | none =>
        let n := bits h 8 16
        match s.listLines t ea (ceilDiv (16 * (n + 1)) 64) with
        | some (.parity l) => .parity l
        | some (.bad c a d) => .bad c a d
        | _ =>
          let ws := (List.range n).map fun i => tile.listWord ea (i + 1)
          match (List.range n).zip ws |>.find? fun iw => (fillTest false iw.2).isSome with
          | some (i, w) => .bad 0x0206 (tileAddr t (ea + 16 * (i + 1))) (i + ((fillTest false w).getD 0) * 2 ^ 16)
          | none => .ok (some { addr := ea, ents := ws.map fillEntOf })

/-- Moving to the fill list that the EXPT names (R268). -/
def Tile.nameFill (t : Tile) (n : Option FillList) : Tile :=
  if t.fillList.map (fun f => f.addr) = n.map (fun f => f.addr) then t
  else ({ t with fillNext := n, fillSwap := true } : Tile).fillView

/-- Entries on their way: a SEND between request and receipt. -/
def Tile.sendsActive (t : Tile) : Nat := (t.xList.filter fun e => e.send && decide (e.st = .active)).length

def Tile.setXEnt (t : Tile) (i : Nat) (st : XEntSt) : Tile :=
  { t with xList := (List.range t.xList.length).zip t.xList |>.map fun ie => if ie.1 = i then { ie.2 with st := st } else ie.2 }

/-- The request of SEND entry `i` of tile `t` (R247). -/
def requestOf (id t i : Nat) (e : XEnt) : XSend :=
  { id := id, sender := t, ent := i, dstTile := e.peer, route := e.route, len := e.len, offset := gOff e.dest, recv := 0
    receiver := 0, lines := [], landed := 0, meshBad := false, stage := .request }

/-- SEND entries in list order, up to eight between request and receipt (R245), while the port runs (R102 Orders 1 and 6). -/
def State.issueSends (s : State) (t : Nat) : State :=
  if !(s.tile t).portRuns then s
  else ((List.range (s.tile t).xList.length).zip (s.tile t).xList).foldl (fun s ie =>
    if ie.2.send && decide (ie.2.st = .waiting) && decide ((s.tile t).sendsActive < 8) then
      { s.modTile t (fun x => x.setXEnt ie.1 .active) with
        nextId := s.nextId + 1
        xsends := s.xsends ++ [requestOf s.nextId t ie.1 ie.2] }
    else s) s

def State.xsend (s : State) (x : Nat) : Option XSend := s.xsends.find? fun y => decide (y.id = x)
def State.setXsend (s : State) (x : XSend) : State :=
  { s with xsends := s.xsends.map fun y => if y.id = x.id then x else y }
def State.dropXsend (s : State) (x : Nat) : State := { s with xsends := s.xsends.filter fun y => !decide (y.id = x) }

/-- A new packet of the SEND leaves: it stands behind every packet that left before it. -/
def State.moveXsend (s : State) (x : XSend) : State := { s.dropXsend x.id with xsends := (s.dropXsend x.id).xsends ++ [x] }

/-- A request at a receiver in its exchange phase or behind it (R249). -/
def State.matchReq (s : State) (x : XSend) : State :=
  let t := s.tile x.dstTile
  let addr := tileAddr x.dstTile x.offset
  let mine := (List.range t.xList.length).zip t.xList |>.filter fun ie => !ie.2.send && decide (ie.2.peer = x.sender)
  match mine.find? fun ie => decide (ie.2.st = .waiting) with
  | none =>
    s.xFault x.dstTile 0x0203 addr (x.sender + min mine.length 0xFFFF * 2 ^ 16)
  | some (i, e) =>
    let dl := decide (e.len ≠ x.len)
    let dof := decide (64 * e.line ≠ x.offset)
    if dl || dof then s.xFault x.dstTile 0x0204 addr (i + b2n dl * 2 ^ 16 + b2n dof * 2 ^ 17)
    else (s.modTile x.dstTile fun t => t.setXEnt i .active).moveXsend { x with recv := i, receiver := x.dstTile, stage := .grant }

/-- The requests that the tile held while it computed, oldest first (R247). -/
def State.matchHeld (s : State) (t : Nat) : State :=
  let ids := (s.tile t).held
  ids.foldl (fun s x => match s.xsend x with | some y => s.matchReq y | none => s) (s.modTile t fun x => { x with held := [] })

/-- The registers and the loop state of a thread in its digest at EXPT (R472), as lines. R472 gives no layout for them (DESIGN CHOICE,
log entry 35). -/
def RegSet.stateLines (r : RegSet) : List Nat :=
  [packElems 32 ((List.range 8).map fun i => r.getK i) + r.flags.nibble * 2 ^ 256
      + packElems 1 ((List.range 8).map fun i => b2n (r.getP i)) * 2 ^ 264 + r.pos * 2 ^ 272,
    packElems 64 ((List.range 8).map fun i => r.getA i), packElems 64 ((List.range 8).map fun i => r.getA (8 + i))] ++
    r.loops.map fun l => packElems 64 [l.ctr, l.start, l.stop]

/-- The state of thread `th` in its digest at EXPT (R472): registers and loop state, then the accumulator blocks as MSAVE writes them, the
operand-cache entries as VOCS does, and the norm accumulators as VNORM READ does. -/
def Tile.stateItems (t : Tile) (th : Nat) : List Nat :=
  (t.thread th).main.stateLines ++
    (List.range 4).flatMap (fun i => (t.block (4 * th + i)).save.map fun x => x.1) ++
    (List.range 16).map (fun i => mget 0 t.cache (16 * th + i)) ++
    (List.range 4).map fun i => (mget ({} : Norm) t.norms (4 * th + i)).readLine

/-- The digest of the four threads, 32 bytes (R472). -/
def Tile.finalDigest (t : Tile) : Nat :=
  packElems 64 ((List.range 4).map fun th =>
    crcOut (crcBytes (mget crcInit t.digest.rem th) (packElems 512 (t.stateItems th)) (64 * (t.stateItems th).length)))

/-! #### The entry of the trace buffer (R468, R470, R472)

DESIGN CHOICE (log entry 152) of the layout: the lines of tile memory from line 0 of the entry, their parity bits from line 32,768, the
configuration from line 33,792, thread n from line 34,816 + 1,024 n, the digests at lines 49,152 to 49,154, the input log from
line 65,536. -/

/-- The parity bits of lines 32 `j` to 32 `j` + 31: of each 32-bit word, as they are stored (R100). -/
def Tile.parityLine (t : Tile) (j : Nat) : Nat :=
  packElems 1 ((List.range 512).map fun w =>
    b2n ((List.range 32).foldl (fun p b => p != bit (t.narrow (4 * (512 * j + w)) 4) b) (mget false t.err.badWords (512 * j + w))))

/-- TIL_BANK_PWR, the tile gate and the Grain seed; the region table; the Patina tag table. -/
def Tile.cfgLines (t : Tile) : List Nat :=
  let gate := match t.gate with | .opened => 0 | .wait => 1 | .commit => 2 | .skip => 3 | .off => 4
  packElems 64 [t.cfg.bankPwr, gate, t.gateStep, t.cfg.seed % 2 ^ 64, t.cfg.seed / 2 ^ 64] ::
    (chunks 8 4 ((List.range 32).map fun n => mget 0 t.cfg.regions n) ++ chunks 8 2 ((List.range 16).map fun n => mget 0 t.cfg.tags n)).map
      (packElems 64)

/-- A register set with tickets, loop state and stream position. -/
def RegSet.imageLines (r : RegSet) : List Nat :=
  packElems 64 [packElems 1 ((List.range 8).map fun i => b2n (r.busy i)), r.fetched, r.loops.length] ::
    (r.stateLines ++ r.loops.map fun l => b2n l.looped + 2 * b2n l.nested)

/-- The parts of a norm accumulator. -/
def Norm.imageLines (a : Norm) : List Nat :=
  let p := (List.range 16).map fun i => mget 0 a.parts i
  [packElems 64 (p.take 8), packElems 64 (p.drop 8), a.count + b2n a.nonfinite * 2 ^ 64]

/-- Thread `th` as the state image holds it: its registers and its fill set, blocks, operand cache and norm accumulators, each with the
place of its first line. -/
def Tile.threadImage (t : Tile) (th : Nat) : List (Nat × List Nat) :=
  let x := t.thread th
  [(0, x.main.imageLines), (32, x.fill.imageLines), (64, [b2n (decide (x.st = .halted)) + 2 * b2n x.fillOn + 4 * x.fillEntry])] ++
    ((List.range 4).map fun i => (128 + 80 * i, (t.block (4 * th + i)).save.map fun y => y.1)) ++
    [(512, (List.range 16).map fun i => mget 0 t.cache (16 * th + i)),
      (576, (List.range 4).flatMap fun i => (mget ({} : Norm) t.norms (4 * th + i)).imageLines)]

/-- The bytes of an entry of the log: kind, thread and offset or ticket in four bytes, then the line or the step. -/
def LogEnt.code : LogEnt → Nat
  | .line n v p _ => 64 * n + b2n p * 2 ^ 27 + v % 2 ^ 512 * 2 ^ 32
  | .ticket th k fill _ => k + b2n fill * 2 ^ 8 + th * 2 ^ 24 + 2 ^ 28
  | .cread th _ l v => 64 * l + th * 2 ^ 24 + 2 ^ 29 + v % 2 ^ 512 * 2 ^ 32
  | .decision c n => b2n c + 3 * 2 ^ 28 + n % 2 ^ 32 * 2 ^ 32
  | .stale _ _ => 0

/-- The log as lines. -/
def logLines (es : List LogEnt) : List Nat :=
  let blob := es.foldr (fun e acc => e.code + 2 ^ (8 * e.bytes) * acc) 0
  (List.range (((es.map LogEnt.bytes).sum + 63) / 64)).map fun i => bits blob (512 * i) 512

/-- The capture of a sample in its entry: the powered banks, parity, configuration and threads of its image, and its log. -/
def State.putCapture (s : State) (x : Sample) : State :=
  let y := x.image
  let put (s : State) (l : Nat) (vs : List Nat) : State := s.putTrace x.tile x.entry l (vs.map fun v => (v, false))
  let s1 := (List.range 32).foldl (fun s b =>
    if bit y.cfg.bankPwr b then
      s.putTrace x.tile x.entry (1024 * b) ((List.range 1024).map fun j => (y.line (1024 * b + j), y.poisoned (1024 * b + j)))
    else s) s
  let s2 := put (put s1 32768 ((List.range 1024).map y.parityLine)) 33792 y.cfgLines
  let s3 := (List.range 4).foldl (fun s th => (y.threadImage th).foldl (fun s z => put s (34816 + 1024 * th + z.1) z.2) s) s2
  put s3 65536 (logLines x.log)

/-- The digest of run `k` (0 the sampled tile, 1 the pool tile, 2 the arbiter), which tile `t` has formed. -/
def State.putDigest (s : State) (x : Sample) (t k d : Nat) : State := s.putTrace t x.entry (49152 + k) [(d, false)]

/-- The sampled tile writes its capture and its digest at its exchange point (R469 Orders 2 and 3). -/
def State.endCapture (s : State) (t : Nat) : State :=
  match (s.tile t).cap with
  | none => s
  | some i =>
    let d := (s.tile t).finalDigest
    let s1 := { s.modTile t (fun x => { x with cap := none, digest := {} }) with
      ras := { s.ras with samples := s.ras.samples.map fun y => if y.id = i then { y with own := some d } else y } }
    match s.ras.samples.find? fun y => decide (y.id = i) with
    | some x => (s1.putCapture x).putDigest x t 0 d
    | none => s1

/-- A shadow run has reached its exchange point: its digest stands in the entry, and the pool tile is cleared (R469, R471). -/
def State.endShadow (s : State) (t i : Nat) : State :=
  let d := (s.tile t).finalDigest
  let s1 := { s.setTile t { cfg := {}, err := (s.tile t).err } with
    ras := { s.ras with samples := s.ras.samples.map fun y =>
      if y.id = i then (if y.arbiter = some t then { y with arbDigest := some d } else { y with poolDigest := some d }) else y } }
  match s.ras.samples.find? fun y => decide (y.id = i) with
  | some x => s1.putDigest x t (if x.arbiter = some t then 2 else 1) d
  | none => s1

/-- A detection at a list line or a source line of the exchange port. -/
def State.xParity (s : State) (t line : Nat) : State :=
  s.detect t { kind := .parity, place := line, thread := 0, opIndex := (s.tile t).xOp, fill := false }

/-- The list is loaded, or stands from before a rerun (R102 Order 6). Where the fill list fails as well, the fault is the exchange list's
(DESIGN CHOICE, log entry 187). -/
def State.loadLists (s : State) (t : Nat) : State :=
  if (s.tile t).xLoaded then (s.issueSends t).matchHeld t
  else
    match s.readXList t with
    | .parity l => s.xParity t l
    | .bad c a d => s.xFault t c a d
    | .ok xs =>
      match s.readFill t with
      | .parity l => s.xParity t l
      | .bad c a d => s.xFault t c a d
      | .ok f =>
        let s1 := s.modTile t fun x => ({ x with xList := xs, xLoaded := true } : Tile).nameFill f
        (s1.issueSends t).matchHeld t

/-- Thread 0 has halted: both lists are empty (R89), already in the superstep in which it halts, for which no EXPT names any (DESIGN
CHOICE, log entry 133). A record of the exchange port then names its HALT (DESIGN CHOICE, log entry 141). -/
def Tile.emptyIfHalted (t : Tile) : Tile :=
  if (t.thread 0).st = .halted then { t with xLen := 0, xDrain := false, xFill := none, xOp := (t.thread 0).waitOp } else t

/-- The tile enters its exchange phase (Order 3 of the superstep, R244). -/
def State.enterExchange (s : State) (t : Nat) : State :=
  match (s.tile t).shadow with
  | some i => s.endShadow t i
  | none =>
    let s1 := (s.endCapture t).modTile t fun x => ({ x with phase := .exchange } : Tile).emptyIfHalted
    let g := (s.tset (tsetOf t)).group
    (s1.setGroup g { s1.group g with lastEntry := s.now }).loadLists t

/-! ### TBAR, HALT, EXPT -/

def Tile.threadsAt (t : Tile) (st : ThreadSt) : Nat :=
  (List.range 4).foldl (fun m i => if (t.thread i).st = st then m + 2 ^ i else m) 0

/-- A thread has arrived: the barrier opens, the exchange phase begins, or the threads disagree (R88). -/
def State.arrive (s : State) (t : Nat) : State :=
  let tile := s.tile t
  let b := tile.threadsAt .atBarrier
  let x := tile.threadsAt .atExchange
  let h := tile.threadsAt .halted
  if b + x + h ≠ 15 then s
  else if b = 0 then s.enterExchange t
  else if x = 0 then
    s.modTile t fun y => { y with threads := mvals {} (fun _ th => if th.st = .atBarrier then { th with st := .issuing } else th) y.threads }
  else
    match tile.shadow with
    | some i => s.missSample t i
    | none =>
      let named := (List.range 4).filter fun i => !decide ((tile.thread i).st = .halted)
      (named.foldl (fun y i => y.noteThread t i false) s).raiseAll (named.map fun i =>
        { code := 0x010A, ctxFatal := true, locValid := true, ctx := s.tileCtx t, tile := t, superstep := s.superstepOf t,
          opIndex := (tile.thread i).waitOp, detail := b + x * 2 ^ 4 })

/-- An operation that a fill segment may not hold (R266). -/
def fillIllegal (s : State) (o : Op) : Option Chk :=
  if o.fill then
    some ⟨0x0207, noAddr, wCls o.w + wOp o.w * 2 ^ 4 + (match (s.tile o.tile).fillCur o.thread with | some (i, _) => i | none => 0) * 2 ^ 12⟩
  else none

/-- Tickets of the thread are idle and no line is still to be written for it (R88). -/
def Tile.quiet (t : Tile) (th : Nat) (r : RegSet) : Bool := r.ticketsIdle && !t.pendingLines.any fun p => decide (p.2.1 = th)

def quiet (s : State) (o : Op) : Bool := (s.tile o.tile).quiet o.thread (s.regs o)

/-- The thread stops at `o` in state `st`, behind the operation. -/
def State.park (s : State) (o : Op) (st : ThreadSt) : State :=
  ((s.advance o 1).modThread o.tile o.thread fun t => { t with st := st, waitOp := o.idx }).arrive o.tile

def tbarSpec : OpSpec :=
  { enc := fun _ o => { tkt := .notAllowed, fields := noFields' o.w, always := true }
    own := fillIllegal
    hold := fun s o => !quiet s o
    effect := fun s o => .done (s.park o .atBarrier)
    jumps := true }
where
  noFields' (w : Nat) : Bool := decide (wFmt w = 0) && decide (wLen w = 0) && decide (wAux w = 0)

def execTbar (tile thread : Nat) (w : BitVec 128) (s : State) : Host.Outcome State Fault Refusal :=
  runOp (.tbar tile thread w) tile thread w tbarSpec s

/-- HALT in the body of a loop (R79). -/
def haltOwn (s : State) (o : Op) : Option Chk :=
  match fillIllegal s o with
  | some c => some c
  | none =>
    match (s.regs o).loops with
    | l :: _ => some ⟨0x0108, noAddr, l.ctr + 4 * 8⟩
    | [] => none

def haltSpec : OpSpec :=
  { enc := fun _ o => { tkt := .notAllowed, fields := tbarSpec.noFields' o.w, always := true }
    own := haltOwn
    hold := fun s o => !quiet s o
    effect := fun s o => .done (s.park o .halted)
    jumps := true }

def execHalt (tile thread : Nat) (w : BitVec 128) (s : State) : Host.Outcome State Fault Refusal :=
  runOp (.halt tile thread w) tile thread w haltSpec s

/-- EXPT names an exchange list: thread 0 with LEN and OPA. -/
def exptList (o : Op) : Bool := decide (o.thread = 0) && decide (wLen o.w ≠ 0) && decide (wOpa o.w ≠ noneForm)

/-- The operands of EXPT that R89, R243 and the text before R242 forbid: BARRIER_MISMATCH with bit 8. -/
def exptOwn (s : State) (o : Op) : Option Chk :=
  match fillIllegal s o with
  | some c => some c
  | none =>
    let ok := if o.thread = 0 then decide (wLen o.w = 0) == decide (wOpa o.w = noneForm)
      else decide (wLen o.w = 0) && decide (wOpa o.w = noneForm) && decide (wOpb o.w = noneForm) && decide (wAux o.w = 0)
    if ok then none
    else some ⟨0x010A, noAddr, (s.tile o.tile).threadsAt .atBarrier + (s.tile o.tile).threadsAt .atExchange * 2 ^ 4 + 2 ^ 8⟩

/-- What thread 0's EXPT names (R89). -/
def Tile.nameLists (t : Tile) (o : Op) : Tile :=
  if o.thread = 0 then
    { t with xAddr := o.a, xLen := wLen o.w, xDrain := bit (wAux o.w) 0, xOp := o.idx
             xFill := if wOpb o.w = noneForm then none else some o.b }
  else t

/-- R622 leaves OPA and OPB of threads 1 to 3 to R89, which `exptOwn` tests. -/
def exptSpec : OpSpec :=
  { enc := fun _ o =>
      { tkt := .notAllowed, opa := if o.thread = 0 then .memOrNone else .any, opb := if o.thread = 0 then .directOrNone else .any
        fields := decide (wFmt o.w = 0) && decide (wAux o.w < 2), always := true }
    accs := fun _ o =>
      if exptList o then
        [{ fld := 1, foot := 64 * ceilDiv (wLen o.w) 4, reach := .tile (ceilDiv (wLen o.w) 4) 64 true false, consumer := 5 }]
      else []
    own := exptOwn
    hold := fun s o => !quiet s o
    effect := fun s o => .done ((s.modTile o.tile fun t => t.nameLists o).park o .atExchange)
    jumps := true }

def execExpt (tile thread : Nat) (w : BitVec 128) (s : State) : Host.Outcome State Fault Refusal :=
  runOp (.expt tile thread w) tile thread w exptSpec s

/-! ### The events of a SEND (R247) -/

/-- The sites between which the packet of a SEND travels: requests and data to ROUTE, grants, receipts and refusals from it; none while
the receiver holds the request. -/
def XSend.way (x : XSend) (p : Pln) : Option (Nat × Nat) :=
  match x.stage with
  | .request => some (p.siteOf x.sender, x.route)
  | .data => some (p.siteOf x.sender, x.route)
  | .held => none
  | .grant => some (x.route, p.siteOf x.sender)
  | .receipt => some (x.route, p.siteOf x.sender)
  | .refusal => some (x.route, p.siteOf x.sender)

/-- No packet between the same two sites has left before it and has not arrived (R51). -/
def State.xFirst (s : State) (x : XSend) : Bool :=
  !(s.xsends.takeWhile fun y => !decide (y.id = x.id)).any fun y => (y.way s.pln).isSome && decide (y.way s.pln = x.way s.pln)

/-- The request reaches the site of ROUTE now. -/
def State.canRequest (s : State) (x : Nat) : Bool :=
  match s.xsend x with
  | none => false
  | some y =>
    decide (y.stage = .request) && s.xFirst y && !s.pln.fatal &&
      (decide (s.pln.logicalAt y.route ≠ some y.dstTile) || (s.tile y.dstTile).portMatches
        || decide ((s.tile y.dstTile).held.length < 64))

/-- What the receiving site does with it (R249, R579): a tile whose list does not stand, or whose port a detection has stopped, holds
it. -/
def State.request (s : State) (x : Nat) : State :=
  match s.xsend x with
  | none => s
  | some y =>
    if s.pln.logicalAt y.route ≠ some y.dstTile then s.moveXsend { y with stage := .refusal }
    else if !(s.tile y.dstTile).portMatches then
      (s.setXsend { y with stage := .held }).modTile y.dstTile fun t => { t with held := t.held ++ [x] }
    else s.matchReq y

def execExchangeRequest (x : Nat) (s : State) : Host.Outcome State Fault Refusal :=
  whenever (.exchangeRequest x) (s.canRequest x) s (s.request x)

/-- The grant reaches a sender whose port runs. -/
def State.canGrant (s : State) (x : Nat) : Bool :=
  match s.xsend x with
  | none => false
  | some y => decide (y.stage = .grant) && s.xFirst y && s.tileRuns y.sender &&
      (s.tile y.sender).portRuns

/-- The sender reads the lines and sends them, with their poison marks (R247, R251). -/
def State.grant (s : State) (x : Nat) : State :=
  match s.xsend x with
  | none => s
  | some y =>
    let t := s.tile y.sender
    match t.xList[y.ent]? with
    | none => s
    | some e =>
      match e.lines.find? t.parityBad with
      | some l => s.xParity y.sender l
      | none => s.moveXsend { y with lines := e.lines.map fun l => (t.line l, t.poisoned l), stage := .data }

def execExchangeGrant (x : Nat) (s : State) : Host.Outcome State Fault Refusal :=
  whenever (.exchangeGrant x) (s.canGrant x) s (s.grant x)

def State.canLand (s : State) (x : Nat) : Bool :=
  match s.xsend x with
  | none => false
  | some y => decide (y.stage = .data) && s.xFirst y && s.tileRuns y.receiver

/-- MESH_PARITY (R485): one record for an entry, a message or a descriptor. -/
def State.meshParity (s : State) (ctx tile line carrier addr : Nat) : State :=
  s.raise { code := 0x0B0A, ctx := ctx, tile := tile, superstep := if tile < 5760 then s.superstepOf tile else 0xFFFFFFFFFFFFFFFF,
            addr := addr, detail := line + carrier * 2 ^ 15 }

/-- The next line lands; the last one completes the RECV and returns the receipt (R247, R248). A buffer that the receiver's compute phase
also reads or writes holds undefined content (R252): the lines land as sent all the same (DESIGN CHOICE, log entry 168). -/
def State.land (s : State) (x : Nat) (parity : Bool) : State :=
  match s.xsend x with
  | none => s
  | some y =>
    match y.lines with
    | [] => s
    | (v, p) :: rest =>
      let l := y.offset / 64 + y.landed
      let s1 := s.landLine y.receiver l v (p || parity) false
      let s2 := if parity && !y.meshBad then
          s1.meshParity (s.tileCtx y.receiver) y.receiver l 1 (tileAddr y.receiver (64 * l)) else s1
      let y' := { y with lines := rest, landed := y.landed + 1, meshBad := y.meshBad || parity }
      if rest.isEmpty then
        (s2.modTile y.receiver fun t => t.setXEnt y.recv .done).moveXsend { y' with stage := .receipt }
      else s2.setXsend y'

def execExchangeDataArrival (x : Nat) (parity : Bool) (s : State) : Host.Outcome State Fault Refusal :=
  whenever (.exchangeDataArrival x parity) (s.canLand x) s (s.land x parity)

def State.canReceipt (s : State) (x : Nat) : Bool :=
  match s.xsend x with
  | none => false
  | some y => (decide (y.stage = .receipt) || decide (y.stage = .refusal)) && s.tileRuns y.sender &&
      s.xFirst y

/-- The SEND is complete, or was refused at a site that is not its destination (R247, R579). -/
def State.receipt (s : State) (x : Nat) : State :=
  match s.xsend x with
  | none => s
  | some y =>
    let s1 := s.dropXsend x
    if y.stage = .receipt then (s1.modTile y.sender fun t => t.setXEnt y.ent .done).issueSends y.sender
    else s1.xFault y.sender 0x0202 (tileAddr y.dstTile y.offset) (y.ent + 8 * 2 ^ 16)

def execExchangeReceipt (x : Nat) (s : State) : Host.Outcome State Fault Refusal :=
  whenever (.exchangeReceipt x) (s.canReceipt x) s (s.receipt x)

/-- A RECV of a tile in its exchange phase whose sender has signalled can never be satisfied (R250). -/
def State.isShort (s : State) (t i : Nat) : Bool :=
  s.tileRuns t && decide ((s.tile t).phase = .exchange) && (s.tile t).xLoaded &&
    match (s.tile t).xList[i]? with
    | some e => !e.send && decide (e.st = .waiting) && decide ((s.tile e.peer).phase = .signalled)
    | none => false

def State.short (s : State) (t i : Nat) : State :=
  match (s.tile t).xList[i]? with
  | some e => s.xFault t 0x0205 noAddr (i + e.peer * 2 ^ 16)
  | none => s

def execExchangeShort (tile entry : Nat) (s : State) : Host.Outcome State Fault Refusal :=
  whenever (.exchangeShort tile entry) (s.isShort tile entry) s (s.short tile entry)

end Sys2Proof.Machine
end

