-- ==== Sys2Proof/Machine/Fabric.lean ====
section
/-! DEFINITION. Order behind writes and behind items of the same source (R51, R53, R210, R282, R348), and the remote increments
that it holds (R284): what the families of events share. -/

namespace Sys2Proof.Machine

/-! ### Order behind writes -/

/-- The source has an HBM write before item `id` whose acknowledgement has not arrived (R348). -/
def State.hbmBehind (s : State) (src : Src) (id : Nat) : Bool :=
  s.hbm.accs.any fun a => a.write && decide (a.src = src) && decide (a.id < id)

/-- The source has a write to a peer before item `id` that the peer has not answered, through a port other than `k` (R53, R284). -/
def State.peerBehind (s : State) (src : Src) (id k : Nat) : Bool :=
  s.lnk.waiting.any fun w => decide (w.src = src) && decide (w.token < id) && decide (w.port ≠ k) &&
    match w.use with
    | .dmaWrite _ _ _ => true
    | .collWrite _ => true
    | _ => false

/-- The operation is one of the thread. -/
def Who.sameThread (w v : Who) : Bool := decide (v.tile = w.tile) && decide (v.thread = w.thread)

/-- The item is a registration of a CWATCH of the thread, before item `id`. -/
def SyuItem.watchOf (x : SyuItem) (w : Who) (id : Nat) : Bool :=
  decide (x.id < id) && (match x.body with | .reg _ => true | _ => false) && (match x.who with | some v => w.sameThread v | none => false)

/-- A watch of a CWATCH of the thread, registered before item `id`. -/
def WReg.watchOf (r : WReg) (w : Who) (item id : Nat) : Bool :=
  decide (item < id) && match r.dest with | .cwatch v _ => w.sameThread v | _ => false

/-- A CWATCH of the thread issued before item `id` still owes its notification line. -/
def Syu.watchBehind (y : Syu) (w : Who) (id : Nat) : Bool :=
  (y.inbound.any fun x => x.watchOf w id) || (y.accepted.any fun x => x.watchOf w id) ||
    (y.watches.any fun x => x.reg.watchOf w x.item id) || y.notifs.any fun n => n.reg.watchOf w n.item id

/-- A MOPEN or an MSEND of the thread issued before item `id` still owes its handle line or status word. -/
def Rmn.replyBehind (m : Rmn) (w : Who) (id : Nat) : Bool :=
  (m.items.any fun x => decide (x.id < id) && (match x.body with | .connect _ _ => true | .message _ _ _ _ _ => true | _ => false) &&
    (match x.who with | some v => w.sameThread v | none => false)) ||
  (m.placing.any fun p => decide (p.item < id) && (match p.who with | some v => w.sameThread v | none => false)) ||
  m.replies.any fun r => decide (r.item < id) && w.sameThread r.who

/-- Tile memory still waits for a write of an asynchronous operation that the thread issued before item `id`: HRD, CREAD, CWATCH,
MOPEN or MSEND (R282). -/
def State.threadBehind (s : State) (w : Option Who) (id : Nat) : Bool :=
  match w with
  | none => false
  | some w =>
    (s.hbm.ops.any fun o => decide (o.id < id) && match o.kind with | .hrd v _ => w.sameThread v | _ => false) ||
    ((s.tile w.tile).pendingLines.any fun p => decide (p.2.1 = w.thread) && decide (p.1 < id)) ||
    s.syu.watchBehind w id || s.rmn.replyBehind w id

/-- Counts or a report that the tile sent before item `id` have not reached the TEL block (R53, R210). -/
def State.telBehind (s : State) (src : Src) (id : Nat) : Bool :=
  match src with
  | .tile t => s.telItems.any fun x => decide (x.tile = t) && decide (x.id < id)
  | _ => false

/-- The port that a remote increment takes; 7, none, for every other item. -/
def SyuItem.port (i : SyuItem) : Nat := match i.body with | .remote a _ => gPort a | _ => 7

/-- The item is an increment of virtual counter `a` or `b` by source `src`, before item `id`. -/
def SyuItem.voteOf (x : SyuItem) (src : Src) (id a b : Nat) : Bool :=
  decide (x.src = src) && decide (x.id < id) && match x.body with | .inc v _ => decide (v = a) || decide (v = b) | _ => false

/-- A contribution to GATE that a vote of the same source precedes: the vote has not been applied yet (R210). -/
def State.voteBehind (s : State) (i : SyuItem) (vid : Nat) : Bool :=
  let g := (s.tel i.ctx).gateCfg
  decide (vid = bits g 0 16) &&
    ((s.syu.inbound.any fun x => x.voteOf i.src i.id (bits g 16 16) (bits g 32 16)) ||
      s.syu.accepted.any fun x => x.voteOf i.src i.id (bits g 16 16) (bits g 32 16))

/-- The source's fabric port holds the item (R53, R210, R282, R348). Registrations, reads and timeout requests are not held. -/
def State.holdsItem (s : State) (i : SyuItem) : Bool :=
  match i.body with
  | .inc v _ =>
    s.hbmBehind i.src i.id || s.peerBehind i.src i.id 7 || s.telBehind i.src i.id || s.threadBehind i.who i.id || s.voteBehind i v
  | .remote a _ =>
    s.hbmBehind i.src i.id || s.peerBehind i.src i.id (gPort a) || s.telBehind i.src i.id || s.threadBehind i.who i.id
  | _ => false

/-- The slice of the SYU that holds a virtual counter: counter block `b` lies in slice `b` mod 64 (R314). -/
def State.counterSlice (s : State) (c vid : Nat) : Nat := mget 0 (s.ctx c).pblocks (vid / 256) % 64

/-- The slice of the SYU at which an item acts. -/
def State.syuSlice (s : State) (i : SyuItem) : Nat := s.counterSlice i.ctx i.vid

/-- Two items take the same way: to the same slice of the SYU, or out through the same port (R51). -/
def State.sameWay (s : State) (i j : SyuItem) : Bool :=
  decide (j.port = i.port) && (decide (i.port ≠ 7) || decide (s.syuSlice j = s.syuSlice i))

/-- No item of the same source lies before it on the same way (R51). -/
def State.firstOfSource (s : State) (i : SyuItem) : Bool :=
  !s.syu.inbound.any fun j => decide (j.src = i.src) && decide (j.id < i.id) && s.sameWay i j

/-- A remote increment leaves (R284). -/
def State.sendRemote (s : State) (i : SyuItem) (a n : Nat) : State :=
  let s1 := { s with syu := { s.syu with inbound := s.syu.inbound.filter fun j => !decide (j.id = i.id) } }
  s1.sendPeer (gPort a) i.ctx i.src 4 n (bits a 0 40 + 3 * 2 ^ 52)
    (match i.src with | .coll _ => 0 | _ => 1) 0 [] (.inc i.who a)

/-- The remote increments that nothing holds any more leave, in order. -/
def State.flushRemote (s : State) : State :=
  s.syu.inbound.foldl (fun s i =>
    match i.body with
    | .remote a n => if s.holdsItem i || !s.firstOfSource i then s else s.sendRemote i a n
    | _ => s) s

end Sys2Proof.Machine
end

