-- ==== Sys2Proof/Machine/Rmn.lean ====
section
/-! DEFINITION. Routed messages (R309 to R341): the MSG operations, the decision points, placement into rings, ring headers,
replies, releases, reset and hold. -/

namespace Sys2Proof.Machine

/-! ### Queues (R310 to R312, R319) -/

/-- The queue's ring lies in a tile's memory. -/
def Queue.onTile (q : Queue) : Bool := decide (q.ownerKind = 0)

/-- The owning tile, which the queue address names (R311). -/
def Queue.tile (q : Queue) : Nat := gTile q.addr

/-- The position of the body's start (R311, R329). -/
def Queue.body (q : Queue) : Nat := (if q.onTile then gOff q.addr else q.addr) + 64

def Queue.size (q : Queue) : Nat := 2 ^ q.l

/-- The hub slice of a queue in HBM (R314). -/
def Queue.slice (q : Queue) : Nat := gFrame q.addr % 64

/-- ROUTE of a handle: the site of the owning tile, or 0x1800 + hub slice (R319). -/
def State.routeOf (s : State) (q : Queue) : Nat := if q.onTile then s.pln.siteOf q.tile else 0x1800 + q.slice

/-- The route of a request to a queue address (R314). -/
def State.routeOfAddr (s : State) (a : Nat) : Nat := if gSpace a = 1 then s.pln.siteOf (gTile a) else 0x1800 + gFrame a % 64

/-- ROUTE names a router (R325). -/
def routeOk (r : Nat) : Bool := decide (r < 0x1840)

/-- The OPEN or CLOSED queue of a context at a queue address (R322). -/
def State.queueAt (s : State) (c a : Nat) : Option (Nat × Queue) :=
  s.rmn.queues.find? fun kv => decide (kv.2.ctx = c) && decide (kv.2.state ≠ 0) && decide (kv.2.addr = a)

def State.modQueue (s : State) (n : Nat) (f : Queue → Queue) : State := s.setQueue n (f (s.queue n))

/-- RMN_STORAGE_UNCORRECTABLE (R339), of the context that holds the descriptor. -/
def State.rmnError (s : State) (n : Nat) : Option FaultRec :=
  if mget none s.rmn.badQueues n = some true && decide ((s.queue n).ctx ≠ 0x1F) then
    some { code := 0x0B08, ctxFatal := true, ctx := (s.queue n).ctx, detail := n }
  else none

/-- A single-bit error of a descriptor is corrected on read and counted (R278, R339). -/
def State.rmnFix (s : State) (n : Nat) : State :=
  if mget none s.rmn.badQueues n = some false then
    { s with rmn := { s.rmn with badQueues := mset none s.rmn.badQueues n none }
             ras := { s.ras with secdedRmn := satAdd s.ras.secdedRmn 1 0xFFFFFFFF } }
  else s

/-- What an agent does with a descriptor that it has read: nothing but the record when the descriptor's storage is uncorrectable. -/
def State.withQueue (s : State) (n : Nat) (k : State → State) : State :=
  match s.rmnError n with
  | some r => s.raise r
  | none => k (s.rmnFix n)

/-! ### Ring contents (R328, R329, R332) -/

/-- The header line of a message record (R329). -/
def recordHead (here next lines tile thread kind seq epoch : Nat) : Nat :=
  here + next * 2 ^ 64 + 1 * 2 ^ 128 + lines * 2 ^ 144 + tile * 2 ^ 160 + (thread % 4 + kind % 8 * 16) * 2 ^ 176
    + seq % 2 ^ 64 * 2 ^ 192 + epoch % 2 ^ 32 * 2 ^ 256

/-- The header line of a pad (R329). -/
def padHead (body lines : Nat) : Nat := body + 2 * 2 ^ 128 + lines * 2 ^ 144

/-- Messages at the front of a ring, in ring order, whose placement is complete (R332). -/
def completeRun : List RingRec → Nat
  | [] => 0
  | r :: rs => if !r.complete then 0 else b2n (!r.pad) + completeRun rs

/-- The ring header with COUNT `n` (R332). -/
def Queue.header (q : Queue) (n : Nat) : Nat :=
  (q.body + q.rd % q.size) + n * 2 ^ 64 + q.released % 2 ^ 64 * 2 ^ 128 + q.epoch * 2 ^ 192 + q.state * 2 ^ 224
    + q.refusedReset * 2 ^ 256

/-- What the placement rule answers (R328): a refusal, or the pad's bytes, the record's position and the new WR. -/
inductive Place where
  | refused (result : Nat)
  | at_ (pad pos wr : Nat)
  deriving DecidableEq, Repr

/-- The placement rule for a message of `n` payload lines (R328). -/
def Queue.place (q : Queue) (n : Nat) : Place :=
  let s := (n + 1) * 64
  let free := q.size - (q.wr + 2 ^ 32 - q.rd) % 2 ^ 32
  let p := q.wr % q.size
  let t := q.size - p
  if free < s then .refused 2
  else if s ≤ t then .at_ 0 p ((q.wr + s) % 2 ^ 32)
  else if s + t ≤ free then .at_ t 0 ((q.wr + t + s) % 2 ^ 32)
  else .refused 3

/-- The first `n` messages of a ring with every pad before the last of them: their bytes, and the ring without them (R333). -/
def popRecs : List RingRec → Nat → Nat × List RingRec
  | rs, 0 => (0, rs)
  | [], _ + 1 => (0, [])
  | r :: rs, n + 1 =>
    if r.pad then ((popRecs rs (n + 1)).1 + r.bytes, (popRecs rs (n + 1)).2)
    else ((popRecs rs n).1 + r.bytes, (popRecs rs n).2)

def bytesOf (rs : List RingRec) : Nat := rs.foldl (fun n r => n + r.bytes) 0

/-- Records and pads that end at or before the new RD leave (R334, R339): `left` bytes stay held. -/
def dropReleased (left : Nat) : List RingRec → List RingRec
  | [] => []
  | r :: rs => if left ≤ bytesOf rs then dropReleased left rs else r :: rs

/-- Space released by messages: RD and the count of released messages of the epoch (R332, R333, R367). -/
def Queue.release (q : Queue) (n : Nat) : Queue :=
  { q with rd := (q.rd + (popRecs q.recs n).1) % 2 ^ 32, recs := (popRecs q.recs n).2, released := q.released + n }

/-- The release of a descriptor's record (R367, R399), from a descriptor whose storage reads right (R339). -/
def State.releaseRecord (s : State) (n : Nat) : State := s.withQueue n fun s => s.modQueue n fun q => q.release 1

/-- RMN_Q_RELEASE of `n` bytes; a value that takes RD past WR is ignored (R339). -/
def Queue.releaseBytes (q : Queue) (n : Nat) : Queue :=
  let held := (q.wr + 2 ^ 32 - q.rd) % 2 ^ 32
  if held < n then q
  else
    let rest := dropReleased (held - n) q.recs
    { q with rd := (q.rd + n) % 2 ^ 32, recs := rest
             released := q.released + (q.recs.filter fun r => !r.pad).length - (rest.filter fun r => !r.pad).length }

/-! ### Writes into rings -/

/-- RING_WRITE_REFUSED (R341). -/
def ringRefused (n ctx : Nat) : FaultRec := { code := 0x0604, ctxFatal := true, ctx := ctx, detail := n }

/-- Lines of a tile-owned ring are written: line number, content, poison; a region check of R98 that fails ends the context. -/
def State.writeRing (s : State) (n : Nat) (xs : List (Nat × Nat × Bool)) : State :=
  let q := s.queue n
  if xs.all fun x => (s.tile q.tile).powered x.1 && (s.tile q.tile).mrx x.1 then
    xs.foldl (fun s x => s.landLine q.tile x.1 x.2.1 x.2.2 false) s
  else s.raise (ringRefused n q.ctx)

/-- The line accesses of a write to given addresses. -/
def writeList (stamp : Nat) (src : Src) (ctx op : Nat) (id idx : Nat) : List (Nat × Nat × Bool) → List Access
  | [] => []
  | (va, v, p) :: rest =>
    { id := id, src := src, ctx := ctx, op := op, idx := idx, vaddr := va, write := true, data := v, poison := p, snap := false
      phys := 0, stage := .toSlice, stamp := stamp } :: writeList stamp src ctx op (id + 1) (idx + 1) rest

/-- A write operation of lines at given addresses leaves its source in VC1. -/
def State.issueWrites (s : State) (kind : MemOpKind) (src : Src) (ctx : Nat) (xs : List (Nat × Nat × Bool)) : State :=
  let op := s.nextId
  { s with
    nextId := s.nextId + 1 + xs.length
    hbm := { s.hbm with
      ops := s.hbm.ops ++ [{ id := op, kind := kind, src := src, ctx := ctx, write := true, left := xs.length, refused := none, meshBad := false }]
      accs := s.hbm.accs ++ writeList s.stampNow src ctx op (op + 1) 0 xs } }

/-- The header of a queue in HBM is written (R332). -/
def State.hbmHeader (s : State) (n : Nat) : State :=
  let q := s.queue n
  s.issueWrites (.ring n none) (.rmn q.slice) q.ctx [(q.addr, q.header (completeRun q.recs), false)]

/-- The header of a tile-owned queue at a release of the tile's group, a pending reset taking effect first (R332, R336). -/
def Queue.atRelease (q : Queue) : Queue :=
  let q1 := if q.resetPending then
      { q with resetPending := false, wr := 0, rd := 0, recs := [], seq := 0, released := 0, state := if q.openAtStart then 2 else 1 }
    else q
  { q1 with listed := completeRun q1.recs, popped := 0 }

/-- The queues that a tile owns, ascending. A descriptor that is still FREE, while its context is Loading, is not one of them (DESIGN CHOICE,
log entry 191). -/
def State.queuesOfTile (s : State) (t : Nat) : List Nat :=
  (s.rmn.queues.filter fun kv => kv.2.onTile && decide (kv.2.tile = t) && decide (kv.2.state ≠ 0) && decide (kv.2.ctx < 16)).map
    fun kv => kv.1

/-- A ring header is written at a release of the tile's group (R332). -/
def State.ringHeader (s : State) (n : Nat) : State :=
  let s1 := s.modQueue n Queue.atRelease
  s1.writeRing n [(gOff (s1.queue n).addr / 64, (s1.queue n).header (s1.queue n).listed, false)]

/-- The ring headers of a tile are written at a release of its group (R332). -/
def State.ringRelease (s : State) (t : Nat) : State :=
  (s.queuesOfTile t).foldl (fun s n => s.withQueue n fun s => s.ringHeader n) s

/-! ### Changes that a tile makes to its own queues (R321, R323, R333) -/

/-- The change takes place at the queue. -/
def Queue.own (q : Queue) : OwnChange → Queue
  | .listen => { q with state := if q.state = 1 then 2 else q.state }
  | .close => { q with state := 1 }

/-- The queue acts on a change; LISTEN then completes (R321). -/
def State.applyOwn (s : State) (n : Nat) (chg : OwnChange) (who : Option Who) : State :=
  s.withQueue n fun s =>
    let s1 := s.modQueue n fun q => q.own chg
    match chg, who with
    | .listen, some w => s1.freeTicket w false
    | _, _ => s1

/-- The tile still has a packet of its own on the way to its own port, behind which its next change goes (R321). -/
def State.ownBehind (s : State) (t site : Nat) : Bool :=
  s.rmn.items.any fun x => decide (x.src = .tile t) && decide (x.dest = site)

/-- A packet for a decision point enters VC1. -/
def State.sendRmn (s : State) (src : Src) (dest ctx : Nat) (who : Option Who) (kind : Nat) (hostCmd : Option (Nat × Nat)) (b : RmnBody) :
    State :=
  { s with
    nextId := s.nextId + 1
    rmn := { s.rmn with items := s.rmn.items ++
      [{ id := s.nextId, src := src, dest := dest, hostCmd := hostCmd, ctx := ctx, who := who, kind := kind, body := b
         stamp := s.stampNow }] } }

/-- A change of an own queue leaves in issue order: at once where nothing of the tile precedes it on the way to its own port, behind
that otherwise (R321). -/
def State.sendOwn (s : State) (t n : Nat) (chg : OwnChange) (who : Option Who) : State :=
  let site := s.routeOf (s.queue n)
  if s.ownBehind t site then s.sendRmn (.tile t) site (s.queue n).ctx who 0 none (.own n chg) else s.applyOwn n chg who

/-- Own changes that no packet of their tile precedes any more take place, in order; `fuel` bounds their number. -/
def State.flushOwn (s : State) : Nat → State
  | 0 => s
  | fuel + 1 =>
    let due (x : RmnItem) : Bool := match x.body with
      | .own _ _ => !s.rmn.items.any fun y => decide (y.id < x.id) && decide (y.src = x.src) && decide (y.dest = x.dest)
      | _ => false
    match s.rmn.items.find? due with
    | none => s
    | some x =>
      let s1 := { s with rmn := { s.rmn with items := s.rmn.items.filter fun y => !decide (y.id = x.id) } }
      (match x.body with | .own n chg => s1.applyOwn n chg x.who | _ => s1).flushOwn fuel

/-- The space that the MPOPs of a superstep hold returns (R333). -/
def Queue.returnPopped (q : Queue) : Queue := { q.release q.popped with listed := q.listed - q.popped, popped := 0 }

/-- The space that a tile's MPOPs hold returns at its signal, whatever of the tile is still on its way to the queue (R101, R333). -/
def State.ringSignal (s : State) (t : Nat) : State :=
  (s.queuesOfTile t).foldl (fun s n =>
    if (s.queue n).popped = 0 then s else s.withQueue n fun s => s.modQueue n Queue.returnPopped) s

/-! ### MOPEN (R318 to R323) -/

/-- The check of a queue address (R43, R318): its reason of R107. A queue lies in space 0x0 or 0x1; an address in another space that is not
reserved is refused with reason 4 (DESIGN CHOICE, log entry 190). -/
def State.checkQueueAddr (s : State) (c a : Nat) : Option Nat :=
  if gReserved a then some 1
  else if !gZeroOk a then some 2
  else if gSpace a = 0 then (if (s.ctx c).fmFrames ≤ gFrame a then some 3 else none)
  else if gSpace a = 1 then
    (if 5760 ≤ gTile a then some 3 else if (s.tset (tsetOf (gTile a))).owner = c then none else some 4)
  else some 4

/-- The tile for which an operation runs: on a pool tile, the sampled one (R471). -/
def State.actsFor (s : State) (t : Nat) : Nat := match s.shadowOf t with | some x => x.tile | none => t

/-- The queue that the issuing tile owns at an address (R318). -/
def State.ownQueue (s : State) (o : Op) (a : Nat) : Option Nat :=
  match s.queueAt o.ctx a with
  | some (n, q) => if q.onTile && decide (q.tile = s.actsFor o.tile) then some n else none
  | none => none

/-- QUEUE_NOT_OWNED, behind the test of R266. -/
def ownTest (op : Nat) (s : State) (o : Op) : Option Chk :=
  match fillIllegal s o with
  | some c => some c
  | none => if (s.ownQueue o o.a).isNone then some ⟨0x0602, o.a, op⟩ else none

def qaddrAcc (s : State) (o : Op) : OpAcc := { fld := 1, foot := 64, reach := .global (s.checkQueueAddr o.ctx o.a) }

def mopenConnectEffect (s : State) (o : Op) : Eff :=
  match s.outside o o.a 0 0 with
  | (sup, s1) =>
    let s2 := s1.asyncTicket o sup
    .done (if sup then s2
           else s2.sendRmn (.tile o.tile) (s.routeOfAddr o.a) o.ctx (some o.who) 0 none (.connect o.a o.d))

def mopenConnectSpec : OpSpec :=
  { enc := fun _ o => { tkt := .required, opd := .mem, opa := .mem
                        fields := decide (wFmt o.w = 0) && decide (wLen o.w = 0) && decide (wAux o.w = 0) }
    accs := fun s o => [{ fld := 0, foot := 64, reach := .tile 1 64 false true }, qaddrAcc s o]
    own := fillIllegal
    effect := mopenConnectEffect }

def execMopenConnect (tile thread : Nat) (w : BitVec 128) (s : State) : Host.Outcome State Fault Refusal :=
  runOp (.mopenConnect tile thread w) tile thread w mopenConnectSpec s

/-- A change of the issuing tile's own queue, unless the rerun or the pool tile suppresses it (R103, R334). -/
def State.ownChange (s : State) (o : Op) (chg : OwnChange) (who : Option Who) : State :=
  match s.ownQueue o o.a with
  | some n => s.sendOwn o.tile n chg who
  | none => s

/-- An MPOP counts against the tile's own listing (R333). -/
def State.ownPop (s : State) (o : Op) (k : Nat) : State :=
  match s.ownQueue o o.a with
  | some n => s.withQueue n fun s => s.modQueue n fun q => { q with popped := q.popped + k }
  | none => s

/-- LISTEN: a CLOSED queue is OPEN; the operation completes when the queue has acted on it (R321, R323). -/
def listenEffect (s : State) (o : Op) : Eff :=
  match s.outside o o.a 1 8 with
  | (sup, s1) =>
    let s2 := s1.asyncTicket o sup
    .done (if sup then s2
           else s2.ownChange o .listen (some o.who))

def mopenListenSpec : OpSpec :=
  { enc := fun _ o => { tkt := .required, opa := .mem, fields := decide (wLen o.w = 0) && decide (wAux o.w = 0) }
    accs := fun s o => [qaddrAcc s o]
    own := ownTest 3
    effect := listenEffect }

def execMopenListen (tile thread : Nat) (w : BitVec 128) (s : State) : Host.Outcome State Fault Refusal :=
  runOp (.mopenListen tile thread w) tile thread w mopenListenSpec s

/-! ### MSEND (R325) -/

/-- Fields of a handle line (R319). -/
def hQueue (h : Nat) : Nat := bits h 0 16
def hRoute (h : Nat) : Nat := bits h 16 16
def hEpoch (h : Nat) : Nat := bits h 32 32
def hAddr (h : Nat) : Nat := bits h 64 64
def hValid (h : Nat) : Bool := decide (bits h 160 8 ≠ 0)

/-- The message of an MSEND leaves, or its INVALID_HANDLE is on its way to the status word (R325). -/
def State.sendMessage (s : State) (o : Op) : State :=
  let h := (s.tile o.tile).line (o.a / 64)
  let pay := (List.range (wLen o.w)).map fun j => ((s.tile o.tile).line (o.b / 64 + j), (s.tile o.tile).poisoned (o.b / 64 + j))
  if hValid h && routeOk (hRoute h) then
    s.sendRmn (.tile o.tile) (hRoute h) o.ctx (some o.who) 0 none (.message (hQueue h) (hRoute h) (hEpoch h) pay o.d)
  else
    { s with
      nextId := s.nextId + 1
      rmn := { s.rmn with replies := s.rmn.replies ++
        [{ id := s.nextId, source := none, who := o.who, ctx := o.ctx, mopen := false, at_ := o.d, value := 7, result := 7,
           item := s.nextId, stamp := s.stampNow }] } }

def msendEffect (s : State) (o : Op) : Eff :=
  let t := s.tile o.tile
  let pay := packElems 512 ((List.range (wLen o.w)).map fun j => t.line (o.b / 64 + j))
  match s.outside o (hAddr (t.line (o.a / 64))) pay (64 * wLen o.w) with
  | (sup, s1) =>
    let s2 := s1.asyncTicket o sup
    .done (if sup then s2 else s2.sendMessage o)

def msendSpec : OpSpec :=
  { enc := fun _ o => { tkt := .required, opd := .mem, opa := .mem, opb := .mem
                        fields := decide (wFmt o.w = 0) && decide (wAux o.w = 0) && decide (1 ≤ wLen o.w) && decide (wLen o.w ≤ 32) }
    accs := fun _ o =>
      [{ fld := 0, foot := 8, reach := .tile 1 8 false true },
       { fld := 1, foot := 64, reach := .tile 1 64 true false, consumer := 6 },
       { fld := 2, foot := 64 * wLen o.w, reach := .tile (wLen o.w) 64 true false }]
    own := fillIllegal
    effect := msendEffect }

def execMsend (tile thread : Nat) (w : BitVec 128) (s : State) : Host.Outcome State Fault Refusal :=
  runOp (.msend tile thread w) tile thread w msendSpec s

/-! ### MPOP and MCLOSE (R323, R324, R333) -/

/-- The count of an MPOP (R318). -/
def mpopCount (s : State) (o : Op) : Nat := if wFmt o.w = 0 then wLen o.w else (s.regs o).getK (wOpb o.w)

/-- The operation is one of those that the rerun or the pool tile suppresses (R103, R469). -/
def State.willSuppress (s : State) (o : Op) : Bool :=
  (s.tile o.tile).shadow.isSome || (!o.fill && decide (0 < (s.thread o.tile o.thread).suppressOut))

/-- MPOP_EXCESS (R333), with the queue address as its Global address (DESIGN CHOICE, log entry 188); a suppressed MPOP releases nothing
and is not tested (R334). -/
def mpopOwn (s : State) (o : Op) : Option Chk :=
  match ownTest 1 s o with
  | some c => some c
  | none =>
    match s.ownQueue o o.a with
    | some n =>
      let q := s.queue n
      if q.listed < q.popped + mpopCount s o && !s.willSuppress o then
        some ⟨0x0603, o.a, mpopCount s o % 2 ^ 16 + (q.listed - q.popped) % 2 ^ 16 * 2 ^ 16⟩
      else none
    | none => none

def mpopEffect (s : State) (o : Op) : Eff :=
  let n := mpopCount s o
  match s.outside o o.a n 8 with
  | (sup, s1) => .done (if sup then s1 else s1.ownPop o n)

def mpopSpec : OpSpec :=
  { enc := fun _ o => { opa := .mem, opb := if wFmt o.w = 1 then .idx 3 else .none
                        fields := decide (wFmt o.w < 2) && decide (wAux o.w = 0) &&
                          (if wFmt o.w = 0 then decide (1 ≤ wLen o.w) else decide (wLen o.w = 0)) }
    accs := fun s o => [qaddrAcc s o]
    own := mpopOwn
    effect := mpopEffect }

def execMpop (tile thread : Nat) (w : BitVec 128) (s : State) : Host.Outcome State Fault Refusal :=
  runOp (.mpop tile thread w) tile thread w mpopSpec s

/-- RELEASE: a release leaves for the queue of a valid handle (R324); with a ROUTE that names no router it has nowhere to go. -/
def releaseEffect (s : State) (o : Op) : Eff :=
  let h := (s.tile o.tile).line (o.a / 64)
  match s.outside o (hAddr h) 0 0 with
  | (sup, s1) =>
    .done (if sup || !(hValid h && routeOk (hRoute h)) then s1
           else s1.sendRmn (.tile o.tile) (hRoute h) o.ctx (some o.who) 0 none (.release (hQueue h) (hEpoch h)))

def mcloseReleaseSpec : OpSpec :=
  { enc := fun _ o => { opa := .mem, fields := decide (wFmt o.w = 0) && decide (wLen o.w = 0) && decide (wAux o.w = 0) }
    accs := fun _ _ => [{ fld := 1, foot := 64, reach := .tile 1 64 true false, consumer := 6 }]
    own := fillIllegal
    effect := releaseEffect }

def execMcloseRelease (tile thread : Nat) (w : BitVec 128) (s : State) : Host.Outcome State Fault Refusal :=
  runOp (.mcloseRelease tile thread w) tile thread w mcloseReleaseSpec s

def closeEffect (s : State) (o : Op) : Eff :=
  match s.outside o o.a 0 8 with
  | (sup, s1) => .done (if sup then s1 else s1.ownChange o .close none)

def mcloseCloseSpec : OpSpec :=
  { enc := fun _ o => { opa := .mem, fields := decide (wLen o.w = 0) && decide (wAux o.w = 0) }
    accs := fun s o => [qaddrAcc s o]
    own := ownTest 2
    effect := closeEffect }

def execMcloseClose (tile thread : Nat) (w : BitVec 128) (s : State) : Host.Outcome State Fault Refusal :=
  runOp (.mcloseClose tile thread w) tile thread w mcloseCloseSpec s

/-! ### Replies (R319 to R321) -/

def State.rmnReply (s : State) (r : Nat) : Option RmnReply := s.rmn.replies.find? fun x => decide (x.id = r)

/-- A reply of the kind arrives: none of its source for the same tile lies before it (R51). -/
def State.canReply (s : State) (r : Nat) (mopen : Bool) : Bool :=
  match s.rmnReply r with
  | none => false
  | some x => decide (x.mopen = mopen) && !s.pln.fatal && !s.rmn.replies.any fun y =>
      decide (y.id < x.id) && decide (y.source = x.source) && decide (y.who.tile = x.who.tile)

def State.dropReply (s : State) (r : Nat) : State :=
  { s with rmn := { s.rmn with replies := s.rmn.replies.filter fun x => !decide (x.id = r) } }

/-- The handle line is written and the ticket becomes idle; increments that waited for the write go on (R282). -/
def State.mopenReply (s : State) (r : Nat) : State :=
  match s.rmnReply r with
  | none => s
  | some x => (((s.dropReply r).landLine x.who.tile (x.at_ / 64) x.value false false).freeTicket x.who false).flushRemote

def execMopenReply (reply : Nat) (s : State) : Host.Outcome State Fault Refusal :=
  whenever (.mopenReply reply) (s.canReply reply true) s (s.mopenReply reply)

/-- The status word is written and the ticket becomes idle; a result other than DELIVERED is counted (R340). -/
def State.msendReply (s : State) (r : Nat) : State :=
  match s.rmnReply r with
  | none => s
  | some x =>
    let s1 := (s.dropReply r).modTile x.who.tile fun t =>
      { t.putNarrow x.at_ 8 x.value with msgRefused := if x.result = 0 then t.msgRefused else satAdd t.msgRefused 1 0xFFFFFFFF }
    let t := s1.tile x.who.tile
    let l := x.at_ / 64
    let s2 := if t.phase = .compute then s1.logInput x.who.tile (.line l (t.line l) (t.poisoned l) false) else s1
    (s2.freeTicket x.who false).flushRemote

def execMsendReply (reply : Nat) (s : State) : Host.Outcome State Fault Refusal :=
  whenever (.msendReply reply) (s.canReply reply false) s (s.msendReply reply)

/-! ### Decision points (R322, R324, R326, R327) -/

def State.rmnItem (s : State) (i : Nat) : Option RmnItem := s.rmn.items.find? fun x => decide (x.id = i)

/-- The packet arrives: none of its source for the same decision point lies before it (R51). -/
def State.rmnFirst (s : State) (x : RmnItem) : Bool :=
  !s.pln.fatal && !s.rmn.items.any fun y => decide (y.id < x.id) && decide (y.src = x.src) && decide (y.dest = x.dest)

/-- The packet has arrived: it is gone, and own changes that waited behind it take place after it (`State.arrived`). -/
def State.dropItem (s : State) (i : Nat) : State :=
  { s with rmn := { s.rmn with items := s.rmn.items.filter fun x => !decide (x.id = i) } }

/-- What follows the arrival of a packet at a decision point (R321). -/
def State.arrived (s : State) : State := s.flushOwn s.rmn.items.length

/-- A reply to item `item` leaves a decision point in VC2, with the item's stamp (R315). -/
def State.sendReply (s : State) (item stamp source ctx : Nat) (who : Who) (mopen : Bool) (at_ value result : Nat) : State :=
  { s with
    nextId := s.nextId + 1
    rmn := { s.rmn with replies := s.rmn.replies ++
      [{ id := s.nextId, source := some source, who := who, ctx := ctx, mopen := mopen, at_ := at_, value := value, result := result
         item := item, stamp := stamp }] } }

def State.canConnect (s : State) (i : Nat) : Bool :=
  match s.rmnItem i with
  | none => false
  | some x => s.rmnFirst x && (match x.body with | .connect _ _ => true | _ => false)

/-- The result of a connect request (R322). -/
def Queue.connectResult (q : Queue) : Nat := if q.state = 1 then 4 else if q.hold || q.resetPending then 1 else 0

/-- The handle line of an OPENED connect (R319). -/
def handleLine (n route epoch addr maxLines : Nat) : Nat :=
  n + route * 2 ^ 16 + epoch * 2 ^ 32 + addr * 2 ^ 64 + 1 * 2 ^ 160 + maxLines * 2 ^ 168

/-- The answer of queue `n` to a connect request (R319, R322). -/
def State.connected (s : State) (x : RmnItem) (w : Who) (line n : Nat) (q : Queue) (a : Nat) : State :=
  let res := q.connectResult
  if res = 0 then
    (s.modQueue n fun q => { q with conns := satAdd q.conns 1 0xFFFF }).sendReply x.id x.stamp x.dest x.ctx w true line
      (handleLine n (s.routeOf q) q.epoch a q.maxLines) 0
  else s.sendReply x.id x.stamp x.dest x.ctx w true line (a * 2 ^ 64 + res * 2 ^ 128) res

def State.connect (s : State) (i : Nat) : State :=
  match s.rmnItem i with
  | none => s
  | some x =>
    let s1 := s.dropItem i
    match x.body, x.who with
    | .connect a line, some w =>
      match s.queueAt x.ctx a with
      | none => s1.sendReply x.id x.stamp x.dest x.ctx w true line (a * 2 ^ 64 + 6 * 2 ^ 128) 6
      | some (n, q) => s1.withQueue n fun s2 => s2.connected x w line n q a
    | _, _ => s1

def execConnectRequest (item : Nat) (s : State) : Host.Outcome State Fault Refusal :=
  whenever (.connectRequest item) (s.canConnect item) s (s.connect item).arrived

def State.canRelease (s : State) (i : Nat) : Bool :=
  match s.rmnItem i with
  | none => false
  | some x => s.rmnFirst x && (match x.body with | .release _ _ => true | _ => false)

/-- A release lowers CONNECTIONS when its epoch is the queue's (R324), wherever the handle's ROUTE led it (DESIGN CHOICE, log entry 189). -/
def State.releaseArrives (s : State) (i : Nat) : State :=
  match s.rmnItem i with
  | none => s
  | some x =>
    let s1 := s.dropItem i
    match x.body with
    | .release n e =>
      let q := s.queue n
      if q.ctx = x.ctx && decide (q.state ≠ 0) then
        s1.withQueue n fun s2 => if q.epoch = e then s2.modQueue n fun q => { q with conns := q.conns - 1 } else s2
      else s1
    | _ => s1

def execQueueReleaseArrival (item : Nat) (s : State) : Host.Outcome State Fault Refusal :=
  whenever (.queueReleaseArrival item) (s.canRelease item) s (s.releaseArrives item).arrived

/-- Messages that the port of a site holds awaiting placement (R327, R340). -/
def State.placingAt (s : State) (site : Nat) : Nat := (s.rmn.placing.filter fun p => decide (p.dest = site)).length

def State.canHead (s : State) (i : Nat) : Bool :=
  match s.rmnItem i with
  | none => false
  | some x => s.rmnFirst x && (decide (0x1800 ≤ x.dest) || decide (s.placingAt x.dest < 8)) &&
      (match x.body with | .message _ _ _ _ _ => true | _ => false)

/-- The first test of R327 that a message fails before the placement rule: its result. -/
def State.headTest (s : State) (x : RmnItem) (n route epoch lines : Nat) : Option Nat :=
  let q := s.queue n
  if !(decide (n < 32768) && decide (q.ctx = x.ctx) && decide (q.state ≠ 0) && decide (s.routeOf q = route)) then some 6
  else if q.epoch ≠ epoch then some 5
  else if q.state ≠ 2 then some 4
  else if q.hold || q.resetPending then some 1
  else if q.maxLines < lines then some 8
  else none

/-- Bytes 4–7 of the status word: the epoch of the queue that answered, zero for NO_QUEUE (R320). -/
def statusWord (result epoch : Nat) : Nat := result + (if result = 6 || result = 7 then 0 else epoch) * 2 ^ 32

/-- The answer to the host interface for the message of a DMA command (R444). -/
def State.answerHost (s : State) (f num result : Nat) (again : RmnItem) : State :=
  match s.cmd f num with
  | none => s
  | some k =>
    if result = 0 then s
    else if result ≤ 3 then s.sendRmn again.src again.dest again.ctx none again.kind again.hostCmd again.body
    else s.complete k 4 0 0

/-- A refusal is counted and answered (R320, R327, R339). -/
def State.refuseMessage (s : State) (x : RmnItem) (n status result : Nat) : State :=
  let s1 := if result = 6 then s else
    s.modQueue n fun q => { q with refused := satAdd q.refused 1 0xFFFFFFFF, refusedReset := satAdd q.refusedReset 1 0xFFFFFFFF }
  match x.who, x.hostCmd with
  | some w, _ => s1.sendReply x.id x.stamp x.dest x.ctx w false status (statusWord result (s.queue n).epoch) result
  | none, some (f, num) => s1.answerHost f num result x
  | none, none => s1

/-- The record of a placed message in the ring, behind its pad (R328, R329). -/
def Queue.record (q : Queue) (pad pos wr n : Nat) (hostCmd : Option (Nat × Nat)) : Queue :=
  let padRec : List RingRec :=
    if pad = 0 then [] else [{ seq := q.seq, bytes := pad, pad := true, pos := q.wr % q.size, complete := true, hostCmd := none }]
  { q with wr := wr, seq := q.seq + 1
           recs := q.recs ++ padRec ++
             [{ seq := q.seq, bytes := (n + 1) * 64, pad := false, pos := pos, complete := false, hostCmd := hostCmd }] }

/-- The placement that follows the decision (R328, R329). -/
def Queue.placing (q : Queue) (n id pad pos : Nat) (x : RmnItem) (pay : List (Nat × Bool)) (status : Nat) : Placing :=
  let s := (pay.length + 1) * 64
  let tile := match x.who with | some w => w.tile | none => 0xFFFF
  let thread := match x.who with | some w => w.thread | none => 0
  { id := id, queue := n, epoch := q.epoch, seq := q.seq, pos := pos,
    head := recordHead (q.body + pos) (q.body + (pos + s) % q.size) (s / 64) tile thread x.kind q.seq q.epoch
    pad := if pad = 0 then none else some (q.wr % q.size, padHead q.body (pad / 64))
    payload := pay, status := status, who := x.who, src := x.src, dest := x.dest, hostCmd := x.hostCmd, ctx := x.ctx, item := x.id
    stamp := x.stamp }

/-- The lines of a placement with their byte positions from the body's start: the pad's header, the record (R329). -/
def Placing.lines (p : Placing) : List (Nat × Nat × Bool) :=
  (match p.pad with | some (at_, h) => [(at_, h, false)] | none => []) ++ (p.pos, p.head, false) ::
    ((List.range p.payload.length).zip p.payload).map fun ip => (p.pos + 64 * (ip.1 + 1), ip.2.1, ip.2.2)

/-- The message is placed; for a ring in HBM its lines leave in VC1 at once (R328, R330). -/
def State.placeMessage (s : State) (x : RmnItem) (n : Nat) (pay : List (Nat × Bool)) (status pad pos wr : Nat) : State :=
  let q := s.queue n
  let p := q.placing n s.nextId pad pos x pay status
  let s1 := { s.modQueue n (fun q => q.record pad pos wr pay.length x.hostCmd) with nextId := s.nextId + 1 }
  let s2 := { s1 with rmn := { s1.rmn with placing := s1.rmn.placing ++ [p] } }
  if q.onTile then s2
  else s2.issueWrites (.ring n (some p.id)) (.rmn q.slice) q.ctx (p.lines.map fun l => (q.body + l.1, l.2))

/-- The decision over a message head: the tests' result, then the place in the ring (R327). -/
def State.headPlaced (s1 : State) (x : RmnItem) (n : Nat) (pay : List (Nat × Bool)) (status : Nat) (res : Option Nat) (p : Place) : State :=
  match res, p with
  | some result, _ => s1.refuseMessage x n status result
  | none, .refused result => s1.refuseMessage x n status result
  | none, .at_ pad pos wr => s1.placeMessage x n pay status pad pos wr

/-- NO_QUEUE comes before an error of the queue's own lines (R327, R340). -/
def State.headDecided (s1 : State) (x : RmnItem) (n : Nat) (pay : List (Nat × Bool)) (status : Nat) (res : Option Nat)
    (bad : Option FaultRec) (p : Place) : State :=
  match bad with
  | some r => if res = some 6 then s1.refuseMessage x n status 6 else s1.raise r
  | none => (s1.rmnFix n).headPlaced x n pay status res p

/-- A message head at its decision point (R327). -/
def State.head (s : State) (i : Nat) : State :=
  match s.rmnItem i with
  | none => s
  | some x =>
    let s1 := s.dropItem i
    match x.body with
    | .message n route epoch pay status =>
      s1.headDecided x n pay status (s.headTest x n route epoch pay.length) (s.rmnError n) ((s.queue n).place pay.length)
    | _ => s1

def execMessageHead (item : Nat) (s : State) : Host.Outcome State Fault Refusal :=
  whenever (.messageHead item) (s.canHead item) s (s.head item).arrived

/-! ### Visibility of a message (R330, R331, R485) -/

def State.placingOf (s : State) (m : Nat) : Option Placing := s.rmn.placing.find? fun p => decide (p.id = m)

/-- The last line of the record is written now: the writes of a ring in HBM are acknowledged; messages of one source to one
decision point arrive in order (R51). -/
def State.canPlaced (s : State) (m : Nat) : Bool :=
  match s.placingOf m with
  | none => false
  | some p => !s.pln.fatal && (if (s.queue p.queue).onTile then
      !s.rmn.placing.any fun y => decide (y.id < p.id) && decide (y.src = p.src) && decide (y.dest = p.dest)
    else !s.hbm.ops.any fun o => decide (o.kind = .ring p.queue (some m)))

/-- The record counts as complete, in its own epoch (R336). -/
def Queue.finish (q : Queue) (p : Placing) : Queue :=
  { q with placed := satAdd q.placed 1 0xFFFFFFFF
           recs := if q.epoch = p.epoch then
               q.recs.map fun r => if r.seq = p.seq && !r.pad then { r with complete := true } else r
             else q.recs }

/-- DELIVERED leaves in VC2 (R320, R330). -/
def State.deliver (s : State) (p : Placing) : State :=
  match p.who with
  | some w => s.sendReply p.item p.stamp p.dest p.ctx w false p.status (statusWord 0 p.epoch) 0
  | none => s

/-- The payload with the lines that failed the parity check of the mesh marked as poison: bit `i` of `bad` is payload line `i`. -/
def Placing.marked (p : Placing) (bad : Nat) : Placing :=
  { p with payload := ((List.range p.payload.length).zip p.payload).map fun ip => (ip.2.1, ip.2.2 || bit bad ip.1) }

/-- The first payload line that failed the check. -/
def Placing.firstBad (p : Placing) (bad : Nat) : Option Nat := firstBelow p.payload.length fun i => bit bad i

/-- A message in a tile's ring becomes visible: the lines are written, MESH_PARITY is recorded once (R485). -/
def State.landMessage (s : State) (p : Placing) (bad : Nat) : State :=
  let q := s.queue p.queue
  let s1 := s.writeRing p.queue ((p.marked bad).lines.map fun l => ((q.body + l.1) / 64, l.2))
  match p.firstBad bad with
  | some i =>
    let l := (q.body + p.pos) / 64 + i + 1
    s1.meshParity p.ctx q.tile l 2 (tileAddr q.tile (64 * l))
  | none => s1

/-- The record of a message counts as complete, the header of a ring in HBM is written, and the sender has its answer (R330, R332). -/
def State.finished (s : State) (p : Placing) : State :=
  let s1 := s.modQueue p.queue fun q => q.finish p
  (if (s.queue p.queue).onTile then s1 else s1.hbmHeader p.queue).deliver p

def State.placed (s : State) (m bad : Nat) : State :=
  match s.placingOf m with
  | none => s
  | some p =>
    let s0 := { s with rmn := { s.rmn with placing := s.rmn.placing.filter fun y => !decide (y.id = m) } }
    let s1 := if (s.queue p.queue).onTile then s0.landMessage p bad else s0
    if (s1.queue p.queue).state = 0 then s1
    else s1.withQueue p.queue fun s => s.finished p

def execMessagePlaced (msg bad : Nat) (s : State) : Host.Outcome State Fault Refusal :=
  whenever (.messagePlaced msg bad) (s.canPlaced msg) s (s.placed msg bad)

/-! ### Management of queues (R334 to R336, R339) -/

/-- The descriptor that a bank of RMN_Q_SEL names. -/
def State.selQueue (s : State) (bank : Nat) : Nat := mget 0 s.rmn.sel bank

/-- RMN_Q_CTRL is writable: by an Armature core, while the descriptor's context is Loading or Running; the firmware system context counts
as Running (log entry 19). -/
def State.canCtrl (s : State) (bank : Nat) : Bool :=
  let q := s.queue (s.selQueue bank)
  decide (bank < 16) && s.usable q.ctx && !s.pln.fatal && s.isOn 18

/-- A reset at the decision point (R336). -/
def Queue.reset (q : Queue) : Queue :=
  let q1 := { q with epoch := (q.epoch + 1) % 2 ^ 32, conns := 0, refusedReset := 0, seq := 0, released := 0 }
  if q.state = 0 then q1
  else if q.onTile then { q1 with resetPending := true }
  else { q1 with wr := 0, rd := 0, recs := [], state := if q.openAtStart then 2 else 1 }

def State.queueReset (s : State) (bank : Nat) : State :=
  let n := s.selQueue bank
  s.withQueue n fun s =>
    let s1 := s.modQueue n Queue.reset
    if (s.queue n).state ≠ 0 && !(s.queue n).onTile then s1.hbmHeader n else s1

def execQueueReset (bank : Nat) (s : State) : Host.Outcome State Fault Refusal :=
  whenever (.queueReset bank) (s.canCtrl bank) s ((s.access 2 0x400040).queueReset bank)

def State.queueHold (s : State) (bank : Nat) (on : Bool) : State :=
  s.withQueue (s.selQueue bank) fun s => s.modQueue (s.selQueue bank) fun q => { q with hold := on }

def execQueueHold (bank : Nat) (on : Bool) (s : State) : Host.Outcome State Fault Refusal :=
  whenever (.queueHold bank on) (s.canCtrl bank) s ((s.access 2 0x400040).queueHold bank on)

/-- RMN_Q_RELEASE is writable: by the Armature core that owns the selected queue. -/
def State.canRingRelease (s : State) (core : Nat) : Bool :=
  let q := s.queue (s.selQueue core)
  decide (q.ownerKind = 1) && decide (q.ownerId = core) && decide (q.ctx < 16) && decide (q.state ≠ 0) && !s.pln.fatal && s.isOn 18

def State.ringBytes (s : State) (core value : Nat) : State :=
  s.withQueue (s.selQueue core) fun s => s.modQueue (s.selQueue core) fun q => q.releaseBytes (value % 2 ^ 32)

def execRmnQRelease (core value : Nat) (s : State) : Host.Outcome State Fault Refusal :=
  whenever (.rmnQRelease core value) (s.canRingRelease core) s ((s.access 2 0x400048).ringBytes core value)

end Sys2Proof.Machine
end

