-- ==== Sys2Proof/Machine/Mem.lean ====
section
/-! DEFINITION. Accesses to space 0x0 (R342 to R365): physical layout, translation slices, copy-on-write copies, channel
controllers with their acknowledgements and merged reads, data on its way back, and poison. -/

namespace Sys2Proof.Machine

/-! ### Errors of stored lines (R361, R362, R364) -/

/-- The owner of a frame and the virtual address of one of its lines: none where no window maps it (R362, R364, R381). An entry outside the
window of its owner, which has moved since, maps nothing. -/
def State.ownerOfLine (s : State) (line : Nat) : Option (Nat × Nat) :=
  (s.hbm.entryOfFrame (line / 1024)).bind fun kv =>
    let x := s.ctx kv.2.ctx
    if x.fmBase ≤ kv.1 ∧ kv.1 < x.fmBase + x.fmFrames then some (kv.2.ctx, (kv.1 - x.fmBase) * 65536 + line % 1024 * 64) else none

/-- HBM_UNCORRECTABLE (R362, R381). -/
def State.hbmUncorrectable (s : State) (line : Nat) (scrub : Bool) : FaultRec :=
  let o := s.ownerOfLine line
  { code := 0x0309
    ctx := (match o with | some x => x.1 | none => if line / 1024 < 36864 then 16 else 0xFFFF)
    addr := (match o with | some x => x.2 | none => noAddr)
    detail := s.pln.channel line + b2n scrub * 2 ^ 9 + line % 1024 / 16 * 2 ^ 10 }

/-- An uncorrectable error is counted in MEM_ERR_COUNT (R377). -/
def State.countUncorrectable (s : State) : State :=
  { s with hbm := { s.hbm with uncorrectable := satAdd s.hbm.uncorrectable 1 0xFFFFFFFF } }

/-- What a read of a line does with an error that it finds: a correctable one is corrected and rewritten (R361); an
uncorrectable one turns the line into poison (R362), and in the Frame Map region stops the device (R364). -/
def State.eccRead (s : State) (line : Nat) (scrub : Bool) : State :=
  match mget none s.hbm.bad line with
  | none => s
  | some false =>
    { s with hbm := { s.hbm with bad := mset none s.hbm.bad line none, corrected := satAdd s.hbm.corrected 1 0xFFFFFFFF } }
  | some true =>
    if line / 1024 < 4096 then s.countUncorrectable.raise { code := 0x030B, devFatal := true, detail := line }
    else
      let s1 := s.storeLine line 0 true
      let s2 := match s.hbm.entryOfFrame (line / 1024) with
        | some kv => s1.modEntry kv.1 fun e => e.markGranule line
        | none => s1
      ({ s2 with hbm := { s2.hbm with suspect := mset false s2.hbm.suspect (line / 1024) true } }).countUncorrectable.raise
        (s.hbmUncorrectable line scrub)

/-! ### Accesses in flight -/

def State.acc (s : State) (i : Nat) : Option Access := s.hbm.accs.find? fun a => decide (a.id = i)

/-- The access changes and moves behind the others: the list keeps the order in which accesses passed their last point. -/
def State.moveAcc (s : State) (a : Access) : State :=
  { s with hbm := { s.hbm with accs := (s.hbm.accs.filter fun x => !decide (x.id = a.id)) ++ [a] } }

def State.setAcc (s : State) (a : Access) : State :=
  { s with hbm := { s.hbm with accs := s.hbm.accs.map fun x => if x.id = a.id then a else x } }

def State.dropAcc (s : State) (i : Nat) : State :=
  { s with hbm := { s.hbm with accs := s.hbm.accs.filter fun x => !decide (x.id = i) } }

/-- Some access that stands before `a` satisfies `p`. -/
def State.behind (s : State) (a : Access) (p : Access → Bool) : Bool :=
  (s.hbm.accs.takeWhile fun x => !decide (x.id = a.id)).any p

def State.memOp (s : State) (i : Nat) : Option MemOp := s.hbm.ops.find? fun o => decide (o.id = i)
def State.setMemOp (s : State) (o : MemOp) : State :=
  { s with hbm := { s.hbm with ops := s.hbm.ops.map fun x => if x.id = o.id then o else x } }
def State.dropMemOp (s : State) (i : Nat) : State :=
  { s with hbm := { s.hbm with ops := s.hbm.ops.filter fun x => !decide (x.id = i) } }

def State.mapAccs (s : State) (f : Access → Access) : State := { s with hbm := { s.hbm with accs := s.hbm.accs.map f } }
def State.modDesc (s : State) (d : Nat) (f : Desc → Desc) : State :=
  { s with hbm := { s.hbm with descs := s.hbm.descs.map fun x => if x.id = d then f x else x } }
def State.modCDesc (s : State) (d : Nat) (f : CDesc → CDesc) : State :=
  { s with lnk := { s.lnk with cdescs := s.lnk.cdescs.map fun x => if x.id = d then f x else x } }
def State.modPeerOp (s : State) (i : Nat) (f : PeerOp → PeerOp) : State :=
  { s with lnk := { s.lnk with peerOps := s.lnk.peerOps.map fun x => if x.id = i then f x else x } }

/-! ### The tests of a slice (R349, R352) -/

/-- Source code of R381. -/
def Src.memCode : Src → Nat
  | .tile _ => 1 | .dma _ => 2 | .port _ => 3 | .coll _ => 3 | .rmn _ => 4 | .tel _ => 5 | .arm _ => 6 | .host _ => 7 | .syu => 8
  | .plinth => 6

/-- The queue descriptor that Detail names, for a DMA source or a ring (R381). -/
def State.memQueue (s : State) (k : MemOpKind) : Nat :=
  match k with
  | .dma d => (match s.hbm.descs.find? fun x => decide (x.id = d) with | some x => x.queue | none => 0)
  | .ring q _ => q
  | _ => 0

/-- The Frame Map entry that a virtual address of an owner uses (R349). -/
def State.entryIdx (s : State) (c va : Nat) : Nat := (s.ctx c).fmBase + gFrame va

/-- The entry of a virtual frame: an invalid one beyond the window. -/
def State.entryAt (s : State) (c va : Nat) : FEntry :=
  if gFrame va < (s.ctx c).fmFrames then s.hbm.entry (s.entryIdx c va) else {}

/-- The physical frame that an access uses (R358). -/
def FEntry.frameFor (e : FEntry) (snap : Bool) : Nat := if snap && e.scopied then e.sframe else e.pframe

/-- LEFT of a context's copy-on-write reserve in a half. -/
def Ctx.cowLeft (x : Ctx) (half : Nat) : Nat := if half = 0 then x.cowD4 else x.cowD5

/-- The copy of R357 can start: the reserve is not 0, and one of its frames is there or being zeroed for it. -/
def State.copyStarts (s : State) (c half : Nat) : Bool :=
  decide ((s.ctx c).cowLeft half ≠ 0) && s.hbm.frames.any fun kv => decide (s.pln.half kv.1 = half) &&
    (decide (kv.2 = .held c true) || decide (kv.2 = .zeroing (some c)))

/-- The first test of R352 that an access fails: code and Detail. `peer`: it arrives from a Verjo port. -/
def State.sliceTest (s : State) (c va src q : Nat) (write snap peer : Bool) : Option (Nat × Nat) :=
  let e := s.entryAt c va
  let half := s.pln.half (e.frameFor snap)
  let base := src + b2n write * 2 ^ 4
  if !e.valid then some (0x0301, base + q * 2 ^ 5)
  else if e.ctx ≠ c then some (0x0302, base + e.ctx * 2 ^ 5)
  else if !((if write then e.wr else e.rd) && (!peer || e.peer)) then some (0x0303, base + q * 2 ^ 5)
  else if snap && !(e.snap || e.scopied) then some (0x0304, q)
  else if !s.isOn (4 + half) then some (0x0305, base + half * 2 ^ 5)
  else if write && e.snap && !s.copyStarts c half then some (0x0306, gFrame va + half * 2 ^ 24)
  else none

/-- The access arrives from a Verjo port (R352 Order 3). -/
def Src.isPeer : Src → Bool
  | .port _ => true
  | _ => false

def State.accTest (s : State) (a : Access) : Option (Nat × Nat) :=
  s.sliceTest a.ctx a.vaddr a.src.memCode (match s.memOp a.op with | some o => s.memQueue o.kind | none => 0) a.write a.snap
    a.src.isPeer

/-! ### Refusals (R353) -/

/-- The record of a refused operation: its refused line of lowest virtual address. -/
def State.refusalRec (s : State) (o : MemOp) (va code detail : Nat) : FaultRec :=
  let at_ (w : Who) : FaultRec :=
    { code := code, ctxFatal := true, locValid := true, ctx := o.ctx, tile := w.tile, superstep := s.superstepOf w.tile, addr := va,
      opIndex := w.opIndex, detail := detail }
  match o.kind with
  | .hrd w _ => at_ w
  | .hwr w => at_ w
  | .peer _ _ => { code := code, ctx := o.ctx, addr := va, detail := detail }
  | _ => { code := code, ctxFatal := true, ctx := o.ctx, addr := va, detail := detail }

/-- A peer's access is answered by a NAK (R398 reason 4). -/
def State.nakPeer (s : State) (op reason : Nat) : State :=
  match s.lnk.peerOps.find? fun p => decide (p.id = op) with
  | none => s
  | some p =>
    { s.reply p.port p.stamp p.pkt 6 reason 0 [] with lnk := { s.lnk with peerOps := s.lnk.peerOps.filter fun q => !decide (q.id = op) } }

/-- Lines that poisoned host data has marked in a descriptor. -/
def State.hostMarks (s : State) (d : Nat) : Nat :=
  match s.hbm.descs.find? fun x => decide (x.id = d) with
  | some x => x.hostPoison
  | none => 0

/-- A descriptor faults: its queue is stopped, HOST_POISON_RECEIVED is written where host data marked lines of it, and the host command
that it serves ends with the record (R371, R434, R447). -/
def State.descFault (s : State) (d : Desc) (r : FaultRec) : State :=
  let n := s.hostMarks d.id
  let s1 := { s with hbm := { s.hbm with stopped := mset false s.hbm.stopped d.queue true } }
  let s2 := s1.modDesc d.id fun x => { x with faulted := true, hostPoison := 0 }
  let s3 := if n = 0 then s2 else s2.writeRec (poisonReceived d.ctx n)
  (s3.faultCmd d.hostCmd r).raise r

/-- A collective descriptor faults: its queue is stopped (R371, R398). -/
def State.cdescFault (s : State) (d : Nat) (r : FaultRec) : State :=
  let s1 := match s.lnk.cdescs.find? fun x => decide (x.id = d) with
    | some x => { s with hbm := { s.hbm with stopped := mset false s.hbm.stopped x.queue true } }
    | none => s
  (s1.modCDesc d fun x => { x with faulted := true }).raise r

/-- A trap in an Armature core (R580). -/
def State.trap (s : State) (core : Nat) : State := s.out (.coreTrap core)

/-- The record of a refused operation, and what it ends: a descriptor faults with it (R371), a core's store traps in the core (R580). -/
def State.refused (s : State) (k : MemOpKind) (r : FaultRec) : State :=
  match k with
  | .dma d =>
    (match s.hbm.descs.find? fun x => decide (x.id = d) with
      | some x => s.descFault x r
      | none => s.raise r)
  | .coll d => s.cdescFault d r
  | .core n => (s.trap n).raise r
  | _ => s.raise r

/-- A cartridge READ of which a slice refuses a line fails; the blocks before that line are done (R499). -/
def State.crtRefused (s : State) (k : MemOpKind) (va : Nat) : State :=
  match k, s.crt.busy with
  | .crt, some x => if x.landed.isSome then s.crtEnd 4 0 ((va - x.addr) / 4096) else s
  | _, _ => s

/-- IN_FILL of the thread whose operation a slice or a peer refuses says where the operation issued (R265, R273). -/
def State.noteWho (s : State) (who : Who) : State := s.noteThread who.tile who.thread who.fill
def State.noteFill (s : State) (k : MemOpKind) : State :=
  match k with
  | .hrd who _ | .hwr who => s.noteWho who
  | _ => s

/-- Once every line of a refused operation has been issued and none is still before its slice, its one record is written. -/
def State.settle (s : State) (op : Nat) : State :=
  match s.memOp op with
  | none => s
  | some o =>
    match o.refused with
    | none => s
    | some (va, code, detail) =>
      if decide (o.more ≠ 0) || s.hbm.accs.any fun a => decide (a.op = op) && (decide (a.stage = .toSlice) || decide (a.stage = .held)) then s
      else
        let r := s.refusalRec o va code detail
        ((((s.dropMemOp op).noteFill o.kind).nakPeer op 4).crtRefused o.kind va).refused o.kind r

/-- The refused line takes no effect; the lowest one is kept. -/
def MemOp.refuse (o : MemOp) (va code detail : Nat) : MemOp :=
  { o with left := o.left - 1
           refused := match o.refused with
             | some (v, c, d) => if va < v then some (va, code, detail) else some (v, c, d)
             | none => some (va, code, detail) }

def State.refuseAcc (s : State) (a : Access) (code detail : Nat) : State :=
  let s1 := s.dropAcc a.id
  (match s.memOp a.op with | some o => s1.setMemOp (o.refuse a.vaddr code detail) | none => s1).settle a.op

/-! ### Translation (R351, R357, R358) -/

/-- A read waits at the channel of physical byte address `phys`. -/
def State.readsAt (s : State) (phys : Nat) : List Access :=
  s.hbm.accs.filter fun x => decide (x.stage = .toChan) && !x.write && decide (s.pln.channel (x.phys / 64) = s.pln.channel (phys / 64))

/-- The entry of the read-merge buffer that a read of context `c` takes on its arrival at the channel of `phys`, named by the read that
allocated it: the open entry of the context for the line, unless a write to the line has closed it; a free one of the 64, for which the
read `id` stands, where the context has no open entry for the line. The read is served alone where the open entry already holds 64
requesters, and where no entry is free (R365). -/
def State.mergeEntry (s : State) (id c phys : Nat) : Option Nat :=
  let rs := s.readsAt phys
  let line := s.hbm.accs.filter fun x => decide (x.stage = .toChan) && decide (x.phys / 64 = phys / 64)
  let opened := (line.reverse.takeWhile fun x => !x.write).find? fun x => decide (x.ctx = c) && x.merge.isSome
  let free := decide ((rs.filter fun x => decide (x.merge = some x.id)).length < 64)
  match opened with
  | some x => if (rs.filter fun y => decide (y.merge = x.merge)).length < 64 then x.merge else none
  | none => if free then some id else none

/-- The access is forwarded to its channel. -/
def State.forward (s : State) (a : Access) : State :=
  let phys := (s.entryAt a.ctx a.vaddr).frameFor a.snap * 65536 + a.vaddr % 65536
  (s.moveAcc { a with phys := phys, stage := .toChan, merge := if a.write then none else s.mergeEntry a.id a.ctx phys }).settle a.op

/-- The lowest frame of a context's copy-on-write reserve in a half that is not being zeroed. -/
def State.reserveFrame (s : State) (c half : Nat) : Option Nat :=
  (s.hbm.frames.find? fun kv => decide (kv.2 = .held c true) && decide (s.pln.half kv.1 = half)).map fun kv => kv.1

/-- LEFT of a reserve changes. -/
def Ctx.setCow (x : Ctx) (half n : Nat) : Ctx := if half = 0 then { x with cowD4 := n } else { x with cowD5 := n }

/-- The first write to a SNAP frame starts a copy, and is the first access held (R357). -/
def State.startCopy (s : State) (a : Access) : State :=
  let e := s.entryAt a.ctx a.vaddr
  let half := s.pln.half e.pframe
  match s.reserveFrame a.ctx half with
  | none => s
  | some f =>
    let x := s.ctx a.ctx
    let s1 := (s.setCtx a.ctx (x.setCow half (x.cowLeft half - 1))).moveAcc { a with stage := .held }
    { s1 with hbm := { s1.hbm with copies := s1.hbm.copies ++ [{ entry := s.entryIdx a.ctx a.vaddr, frame := f }],
                                   frames := mset .pool s1.hbm.frames f (.held a.ctx false) } }

/-- A slice tests an access and translates it. -/
def State.translate (s : State) (a : Access) : State :=
  match s.accTest a with
  | some (code, detail) => s.refuseAcc a code detail
  | none => if a.write && (s.entryAt a.ctx a.vaddr).snap then s.startCopy a else s.forward a

/-- The entry of the access is being copied (R357). -/
def State.copying (s : State) (c va : Nat) : Bool :=
  s.hbm.copies.any fun x => decide (x.entry = s.entryIdx c va) && decide (gFrame va < (s.ctx c).fmFrames)

/-- The access waits for a reserve frame that is still being zeroed (R359). -/
def State.waitsReserve (s : State) (a : Access) : Bool :=
  let e := s.entryAt a.ctx a.vaddr
  a.write && e.snap && (s.accTest a).isNone && (s.reserveFrame a.ctx (s.pln.half e.pframe)).isNone

/-- The access reaches its slice now: none of its source for that slice lies before it (R51). -/
def State.canSlice (s : State) (i : Nat) : Bool :=
  match s.acc i with
  | none => false
  | some a => decide (a.stage = .toSlice) && !s.pln.fatal && (s.copying a.ctx a.vaddr || !s.waitsReserve a) &&
      !s.hbm.accs.any fun x => decide (x.stage = .toSlice) && decide (x.src = a.src) && decide (x.id < a.id) &&
        decide (gFrame x.vaddr % 64 = gFrame a.vaddr % 64)

/-- SLICE_ACCESS; `mapError`: the line that holds the entry has an uncorrectable error (R364). -/
def State.slice (s : State) (i : Nat) (mapError : Bool) : State :=
  match s.acc i with
  | none => s
  | some a =>
    if mapError then (s.dropAcc i).countUncorrectable.raise { code := 0x030B, devFatal := true, detail := s.entryIdx a.ctx a.vaddr / 4 }
    else if s.copying a.ctx a.vaddr then s.moveAcc { a with stage := .held }
    else s.translate a

def execSliceAccess (acc : Nat) (mapError : Bool) (s : State) : Host.Outcome State Fault Refusal :=
  whenever (.sliceAccess acc mapError) (s.canSlice acc) s (s.slice acc mapError)

/-- Cells of the `n` places from `src` on, copied to `dst`; what stood there is gone. -/
def mcopy {α : Type} [DecidableEq α] (d : α) (m : SMap α) (src dst n : Nat) : SMap α :=
  (m.filter fun kv => decide (src ≤ kv.1) && decide (kv.1 < src + n)).foldl (fun m kv => mset d m (kv.1 - src + dst) kv.2)
    (mdrop (fun k => decide (dst ≤ k) && decide (k < dst + n)) m)

/-- The lines of a frame that hold an error. -/
def Hbm.badLines (h : Hbm) (frame : Nat) : List Nat := (h.bad.filter fun kv => decide (kv.1 / 1024 = frame)).map fun kv => kv.1

/-- The 1,024 lines of a frame copied into another, with their poison marks (R357). -/
def State.copyFrame (s : State) (src dst : Nat) : State :=
  let s1 := (s.hbm.badLines src).foldl (fun s l => s.eccRead l false) s
  { s1 with hbm := { s1.hbm with
      mem := mcopy 0 s1.hbm.mem (src * 65536) (dst * 65536) 65536
      poison := mcopy false s1.hbm.poison (src * 1024) (dst * 1024) 1024
      bad := mdrop (fun l => decide (l / 1024 = dst)) s1.hbm.bad } }

/-- POISON bits of the granules of a frame that hold poison. -/
def Hbm.poisonBits (h : Hbm) (frame : Nat) : Nat :=
  (h.poison.filter fun kv => decide (kv.1 / 1024 = frame)).foldl (fun b kv => setBit b (kv.1 % 1024 / 16) true) 0

/-- The accesses that a copy held proceed in their order, under the new entry. -/
def State.releaseHeld (s : State) (entry : Nat) : State :=
  (s.hbm.accs.filter fun a => decide (a.stage = .held) && decide (s.entryIdx a.ctx a.vaddr = entry)).foldl
    (fun s a => if (s.acc a.id).isSome then s.translate a else s) s

def State.copyDone (s : State) (entry : Nat) : State :=
  match s.hbm.copies.find? fun x => decide (x.entry = entry) with
  | none => s
  | some x =>
    let e := s.hbm.entry entry
    let s1 := s.copyFrame e.pframe x.frame
    let s2 := s1.modEntry entry fun e' =>
      { e' with sframe := e.pframe, pframe := x.frame, snap := false, scopied := true, poison := e'.poison ||| s1.hbm.poisonBits x.frame }
    ({ s2 with hbm := { s2.hbm with copies := s2.hbm.copies.filter fun y => !decide (y.entry = entry) } }).releaseHeld entry

/-- The copy of an entry has read its frame: no write that a slice translated to the frame before is still on its way. -/
def State.copyReady (s : State) (entry : Nat) : Bool :=
  (s.hbm.copies.any fun x => decide (x.entry = entry)) && !s.pln.fatal &&
    !s.hbm.accs.any fun a => decide (a.stage = .toChan) && a.write && decide (a.phys / 65536 = (s.hbm.entry entry).pframe)

/-! ### Controllers (R346, R347, R365) -/

/-- No access to the same line stands before it at the controller. -/
def State.lineFirst (s : State) (a : Access) (p : Access → Bool) : Bool :=
  !s.behind a fun x => decide (x.stage = .toChan) && decide (x.phys / 64 = a.phys / 64) && p x

def State.canAccept (s : State) (i : Nat) : Bool :=
  match s.acc i with
  | none => false
  | some a => decide (a.stage = .toChan) && a.write && s.lineFirst a (fun _ => true) && !s.pln.fatal

/-- The access writes a partner window, which no Frame Map entry names (R372). -/
def State.isPwin (s : State) (a : Access) : Bool :=
  s.lnk.peerOps.any fun p => decide (p.id = a.op) && decide (p.pkt.kind = 7)

/-- Carrier of R506 for MESH_PARITY at HBM: 2 a message, 3 otherwise. -/
def MemOpKind.carrier : MemOpKind → Nat
  | .ring _ _ => 2
  | _ => 3

/-- MESH_PARITY at a controller, once for an operation (R485). -/
def State.hbmMeshParity (s : State) (a : Access) : State :=
  match s.memOp a.op with
  | none => s.meshParity a.ctx 0xFFFF 0x7FFF 3 a.vaddr
  | some o =>
    if o.meshBad then s
    else (s.setMemOp { o with meshBad := true }).meshParity a.ctx 0xFFFF 0x7FFF o.kind.carrier a.vaddr

/-- The controller accepts a write: it is visible, and its acknowledgement leaves (R346, R363, R485). -/
def State.accept (s : State) (i : Nat) (parity : Bool) : State :=
  match s.acc i with
  | none => s
  | some a =>
    let l := a.phys / 64
    let whole := a.part = (0, 64)
    let s0 := if whole then s else s.eccRead l false
    let p := a.poison || parity || (!whole && s0.hbmPoisoned l)
    let v := if whole then a.data else setBits (s0.hbmLine l) (8 * a.part.1) (8 * a.part.2) a.data
    let s1 := (s0.storeLine l v p).moveAcc { a with stage := .acked }
    let s2 := if p && !s.isPwin a then s1.modEntry (s.entryIdx a.ctx a.vaddr) fun e => e.markGranule (a.phys / 64) else s1
    if parity then s2.hbmMeshParity a else s2

def execHbmWriteAccept (acc : Nat) (parity : Bool) (s : State) : Host.Outcome State Fault Refusal :=
  whenever (.hbmWriteAccept acc parity) (s.canAccept acc) s (s.accept acc parity)

/-- The reads that return with `a`: those of its entry of the read-merge buffer, or itself alone (R365). -/
def State.merged (s : State) (a : Access) : List Nat :=
  match a.merge with
  | none => [a.id]
  | some _ => a.id :: (((s.readsAt a.phys).filter fun x => decide (x.merge = a.merge) && !decide (x.id = a.id)).map fun x => x.id)

def State.canReturn (s : State) (i : Nat) : Bool :=
  match s.acc i with
  | none => false
  | some a => decide (a.stage = .toChan) && !a.write && s.lineFirst a (fun x => x.write) && !s.pln.fatal

/-- The line returns from the stack to every merged requester (R361, R362, R365). Accesses that return stand behind those that returned
before them (R51). -/
def State.readReturn (s : State) (i : Nat) : State :=
  match s.acc i with
  | none => s
  | some a =>
    let l := a.phys / 64
    let ids := s.merged a
    let s1 := s.eccRead l false
    let back := (s1.hbm.accs.filter fun x => ids.contains x.id).map fun x => { x with data := s1.hbmLine l, poison := s1.hbmPoisoned l, stage := .data }
    { s1 with hbm := { s1.hbm with accs := (s1.hbm.accs.filter fun x => !ids.contains x.id) ++ back } }

def execHbmReadReturn (acc : Nat) (s : State) : Host.Outcome State Fault Refusal :=
  whenever (.hbmReadReturn acc) (s.canReturn acc) s (s.readReturn acc)

/-! ### Back at the source (R82, R348, R396) -/

/-- The last line of an operation is done: the tile's ticket, or the answer to the peer. -/
def State.opDone (s : State) (o : MemOp) : State :=
  match o.kind with
  | .hrd w _ => s.freeTicket w true
  | .hwr w => s.freeTicket w false
  | .crt =>
    match s.crt.busy.bind fun k => k.landed with
    | some (status, n) => s.crtEnd status 0 n
    | none => s
  | .peer _ _ =>
    match s.lnk.peerOps.find? fun p => decide (p.id = o.id) with
    | none => s
    | some p =>
      { (if o.write then s.reply p.port p.stamp p.pkt 5 0 0 []
         else s.reply p.port p.stamp p.pkt 3 0 p.pkt.payload.length p.pkt.payload) with
        lnk := { s.lnk with peerOps := s.lnk.peerOps.filter fun q => !decide (q.id = o.id) } }
  | _ => s

/-- One line of an operation is done; descriptors count their acknowledged lines (R371, R408). -/
def State.lineDone (s : State) (op : Nat) : State :=
  match s.memOp op with
  | none => s
  | some o =>
    let s1 := match o.kind with
      | .dma d => s.modDesc d fun x => { x with acked := x.acked + 1 }
      | .coll d => s.modCDesc d fun x => { x with left := x.left - 1 }
      | _ => s
    if decide (o.left ≤ 1) && decide (o.more = 0) then (if o.refused.isSome then s1.setMemOp { o with left := 0 } else (s1.dropMemOp op).opDone o)
    else s1.setMemOp { o with left := o.left - 1 }

/-- Neither an acknowledgement nor a line from the same controller to the same source stands before it (R51). -/
def State.backFirst (s : State) (a : Access) : Bool :=
  !s.behind a fun x => (decide (x.stage = .acked) || decide (x.stage = .data)) && decide (x.src = a.src) &&
    decide (s.pln.channel (x.phys / 64) = s.pln.channel (a.phys / 64))

def State.canAck (s : State) (i : Nat) : Bool :=
  match s.acc i with
  | none => false
  | some a => decide (a.stage = .acked) && s.backFirst a && !s.pln.fatal

/-- A write acknowledgement reaches its source, which then sends what it held behind the write (R348); the record of the last watcher on
DECIDE ends Order 7 of R213 (R215). -/
def State.ack (s : State) (i : Nat) : State :=
  match s.acc i with
  | none => s
  | some a => ((s.dropAcc i).lineDone a.op).flushRemote.afterOrder7

def execWriteAcknowledgement (acc : Nat) (s : State) : Host.Outcome State Fault Refusal :=
  whenever (.writeAcknowledgement acc) (s.canAck acc) s (s.ack acc)

def State.canData (s : State) (i : Nat) : Bool :=
  match s.acc i with
  | none => false
  | some a => decide (a.stage = .data) && s.backFirst a && !s.pln.fatal

/-- A line of a read reaches its source: tile memory, with its poison mark, or the answer to a peer (R82, R363, R485). -/
def State.dataArrives (s : State) (i : Nat) (parity : Bool) : State :=
  match s.acc i with
  | none => s
  | some a =>
    let s1 := s.dropAcc i
    match s.memOp a.op with
    | none => s1
    | some o =>
      match o.kind with
      | .hrd w line =>
        let l := line + a.idx
        let s2 := s1.landLine w.tile l a.data (a.poison || parity) true
        let s3 := if parity && !o.meshBad then
            (s2.setMemOp { o with meshBad := true }).meshParity a.ctx w.tile l 3 (tileAddr w.tile (64 * l)) else s2
        (s3.lineDone a.op).flushRemote
      | .peer _ _ =>
        (s1.modPeerOp a.op fun p => { p with pkt := { p.pkt with payload := p.pkt.payload.set a.idx (a.data, a.poison) } }).lineDone a.op
      | _ => s1.lineDone a.op

def execReadDataArrival (acc : Nat) (parity : Bool) (s : State) : Host.Outcome State Fault Refusal :=
  whenever (.readDataArrival acc parity) (s.canData acc) s (s.dataArrives acc parity)

/-! ### Scrubbing (R342) -/

def State.canScrub (s : State) (line : Nat) : Bool :=
  decide (line < 1024 * s.pln.physFrames) && s.isOn (s.pln.frameDom (line / 1024)) && !s.pln.fatal

def execErrorCheckAndScrub (line : Nat) (s : State) : Host.Outcome State Fault Refusal :=
  whenever (.errorCheckAndScrub line) (s.canScrub line) s (s.eccRead line true)

end Sys2Proof.Machine
end

