-- ==== Sys2Proof/Machine/FrameMap.lean ====
section
/-! DEFINITION. Frame Map commands (R354, R355, R379), zeroing and retirement of frames (R359), and the HBM power domains
(R373 to R376). -/

namespace Sys2Proof.Machine

/-! ### Commands (R354) -/

def State.fm (s : State) (n : Nat) : FmSet := mget {} s.hbm.fm n
def State.setFm (s : State) (n : Nat) (x : FmSet) : State := { s with hbm := { s.hbm with fm := mset {} s.hbm.fm n x } }

/-- Fields of MEM_FM_ARG_n and MEM_FM_CMD_n (R379). -/
def FmSet.first (x : FmSet) : Nat := bits x.arg 0 24
def FmSet.count (x : FmSet) : Nat := bits x.arg 24 25
def cmdOp (v : Nat) : Nat := bits v 0 4
def cmdCtx (v : Nat) : Nat := bits v 4 5

/-- The virtual frames of a command, as entry indices. -/
def State.fmEntries (s : State) (x : FmSet) (c : Nat) : List Nat :=
  (List.range x.count).map fun j => (s.ctx c).fmBase + x.first + j

def State.entry (s : State) (i : Nat) : FEntry := s.hbm.entry i

/-- A physical frame that MAP may name for an owner: a context frame, for CTX 0x10 also one of the system region, in a domain that is On,
and neither being zeroed nor retired (R354, R359). -/
def State.mappable (s : State) (c frame : Nat) : Bool :=
  decide ((if c = 16 then 4096 else 36864) ≤ frame) && decide (frame < s.pln.physFrames) &&
    s.isOn (s.pln.frameDom frame) &&
    (match mget .pool s.hbm.frames frame with | .zeroing _ => false | .retired => false | _ => true)

/-- The condition of R354 on an entry. -/
def FEntry.meets (e : FEntry) (op : Nat) : Bool :=
  match op with
  | 1 => !e.valid
  | 4 => e.valid && !e.scopied
  | _ => e.valid

/-- Why a command is refused (R379). Where several conditions fail, R354 does not say which REASON is given: 5, 1, 2, 3, 4 is the order
here (DESIGN CHOICE, log entry 170). -/
def State.fmReason (s : State) (n v : Nat) : Option Nat :=
  let x := s.fm n
  let op := cmdOp v
  let c := cmdCtx v
  if op = 0 || decide (6 < op) then some 5
  else if n = 1 && decide (op ≤ 3) then some 1
  else if x.count = 0 || decide ((s.ctx c).fmFrames < x.first + x.count) then some 2
  else if !(s.fmEntries x c).all (fun i => (s.entry i).meets op) then some 3
  else if op = 1 && !((List.range x.count).all fun j => s.mappable c (x.pframe + j)) then some 4
  else none

/-- A frame leaves its owner and is zeroed (R359). -/
def State.zeroFrame (s : State) (frame : Nat) (back : Option Nat) : State :=
  { s with hbm := { s.hbm with frames := mset .pool s.hbm.frames frame (.zeroing back) } }

/-- A granule of a frame is read again; the answer tells whether no line of it holds poison (R354 CLEAR_POISON). -/
def State.rereadGranule (s : State) (frame g : Nat) : State × Bool :=
  let lines := (List.range 16).map fun j => frame * 1024 + 16 * g + j
  let s1 := lines.foldl (fun s l => s.eccRead l false) s
  (s1, lines.all fun l => !s1.hbmPoisoned l)

/-- CLEAR_POISON of one entry. -/
def State.clearPoison (s : State) (i : Nat) : State :=
  (below 64 fun g => bit (s.entry i).poison g).foldl (fun s g =>
    match s.rereadGranule (s.entry i).pframe g with
    | (s1, true) => s1.modEntry i fun e => { e with poison := setBit e.poison g false }
    | (s1, false) => s1) s

/-- The effect of a command on entry `j` of its range, of index `i` (R354). -/
def State.fmEffect (s : State) (v pframe i : Nat) : State :=
  let e := s.entry i
  let c := cmdCtx v
  match cmdOp v with
  | 1 =>
    let s1 := s.modEntry i fun _ => { valid := true, rd := bit v 9, wr := bit v 10, peer := bit v 11, ctx := c, pframe := pframe }
    { s1 with hbm := { s1.hbm with frames := mset .pool s1.hbm.frames pframe (.held c false) } }
  | 2 =>
    let s1 := (s.modEntry i fun _ => {}).zeroFrame e.pframe none
    if e.scopied then s1.zeroFrame e.sframe none else s1
  | 3 => s.modEntry i fun e => { e with rd := bit v 9, wr := bit v 10, peer := bit v 11 }
  | 4 => s.modEntry i fun e => { e with snap := true }
  | 5 =>
    let s1 := s.modEntry i fun e => { e with snap := false, scopied := false, sframe := 0 }
    if e.scopied then
      let half := s.pln.half e.sframe
      let x := s1.ctx c
      (s1.setCtx c (x.setCow half (x.cowLeft half + 1))).zeroFrame e.sframe (some c)
    else s1
  | _ => s.clearPoison i

/-- The accesses that were translated under the entries of a range and are not yet visible or answered (R355). -/
def State.translated (s : State) (c first count : Nat) : List Nat :=
  (s.hbm.accs.filter fun a => decide (a.stage = .toChan) && decide (a.ctx = c) && !s.isPwin a &&
    decide (first ≤ gFrame a.vaddr) && decide (gFrame a.vaddr < first + count)).map fun a => a.id

/-- The slices take the command of set `n` with the value `v`: it is checked over its whole range, then applied (R354). -/
def State.fmApply (s : State) (n v : Nat) : State :=
  let x := { s.fm n with cmd := bits v 0 12, behindCopy := none }
  match s.fmReason n v with
  | some r => s.setFm n { x with status := 3, reason := r }
  | none =>
    let c := cmdCtx v
    let es := s.fmEntries x c
    let s1 := ((List.range x.count).zip es).foldl (fun s ji => s.fmEffect v (x.pframe + ji.1) ji.2) s
    s1.setFm n { x with status := 1, reason := 0, waits := s.translated c x.first x.count }

/-- A copy of R357 runs in the range of the command: the slice takes the command behind it. -/
def State.fmCopying (s : State) (n v : Nat) : Bool :=
  let x := s.fm n
  let b := (s.ctx (cmdCtx v)).fmBase + x.first
  s.hbm.copies.any fun k => decide (b ≤ k.entry) && decide (k.entry < b + x.count)

/-- A write of MEM_FM_CMD_n with GO (R379). A command whose range is being copied reads busy and is applied once the copies are done
(DEDUCED, log entry 151). -/
def State.fmSubmit (s : State) (n v : Nat) : State :=
  if s.fmCopying n v then s.setFm n { s.fm n with cmd := bits v 0 12, status := 1, reason := 0, behindCopy := some v }
  else s.fmApply n v

/-- Commands that no copy holds back any more are applied, with MEM_FM_ARG_n and MEM_FM_PFRAME_n as they stand then (DESIGN CHOICE, log
entry 151). -/
def State.fmResume (s : State) : State :=
  [0, 1].foldl (fun s n =>
    match (s.fm n).behindCopy with
    | some v => if s.fmCopying n v then s else s.fmApply n v
    | none => s) s

def execCowCopyComplete (entry : Nat) (s : State) : Host.Outcome State Fault Refusal :=
  whenever (.cowCopyComplete entry) (s.copyReady entry) s (s.copyDone entry).fmResume

/-- The command register set takes the command `op` now. -/
def State.canFm (s : State) (n v op : Nat) : Bool :=
  bit v 31 && decide (cmdOp v = op) && decide ((s.fm n).status ≠ 1) && !s.pln.fatal && s.isOn 18

def execMap (set value : Nat) (s : State) : Host.Outcome State Fault Refusal :=
  whenever (.map set value) (s.canFm set value 1) s ((s.access (set + 1) (0x600310 + 0x40 * set)).fmSubmit set value)

def execUnmap (set value : Nat) (s : State) : Host.Outcome State Fault Refusal :=
  whenever (.unmap set value) (s.canFm set value 2) s ((s.access (set + 1) (0x600310 + 0x40 * set)).fmSubmit set value)

def execSetperm (set value : Nat) (s : State) : Host.Outcome State Fault Refusal :=
  whenever (.setperm set value) (s.canFm set value 3) s ((s.access (set + 1) (0x600310 + 0x40 * set)).fmSubmit set value)

def execSnapshot (set value : Nat) (s : State) : Host.Outcome State Fault Refusal :=
  whenever (.snapshot set value) (s.canFm set value 4) s ((s.access (set + 1) (0x600310 + 0x40 * set)).fmSubmit set value)

def execReleaseSnapshot (set value : Nat) (s : State) : Host.Outcome State Fault Refusal :=
  whenever (.releaseSnapshot set value) (s.canFm set value 5) s ((s.access (set + 1) (0x600310 + 0x40 * set)).fmSubmit set value)

def execClearPoison (set value : Nat) (s : State) : Host.Outcome State Fault Refusal :=
  whenever (.clearPoison set value) (s.canFm set value 6) s ((s.access (set + 1) (0x600310 + 0x40 * set)).fmSubmit set value)

/-- Every access translated under the old entries is visible, answered or refused (R355). -/
def State.fmDrained (s : State) (n : Nat) : Bool :=
  decide ((s.fm n).status = 1) && (s.fm n).behindCopy.isNone && !s.pln.fatal &&
    !s.hbm.accs.any fun a => decide (a.stage = .toChan) && (s.fm n).waits.contains a.id

def execFrameMapCommandComplete (set : Nat) (s : State) : Host.Outcome State Fault Refusal :=
  whenever (.frameMapCommandComplete set) (s.fmDrained set) s (s.setFm set { s.fm set with status := 2, waits := [] })

/-! ### Zeroing (R359) -/

def State.isZeroing (s : State) (frame : Nat) : Bool :=
  (match mget .pool s.hbm.frames frame with | .zeroing _ => true | _ => false) && s.isOn (s.pln.frameDom frame)

/-- Every line of a frame holds zero data with a valid code. -/
def State.clearFrame (s : State) (frame : Nat) : State :=
  { s with hbm := { s.hbm with
      mem := mdrop (fun a => decide (a / 65536 = frame)) s.hbm.mem
      poison := mdrop (fun l => decide (l / 1024 = frame)) s.hbm.poison
      bad := mdrop (fun l => decide (l / 1024 = frame)) s.hbm.bad } }

/-- The frame returns to the pool, or to the reserve that it came from; a suspect frame whose read-back fails is retired, and
the reserve loses it. -/
def State.zeroed (s : State) (frame : Nat) (bad : Bool) : State :=
  let s1 := s.clearFrame frame
  let back := match mget .pool s.hbm.frames frame with | .zeroing b => b | _ => none
  let retire := bad && mget false s.hbm.suspect frame
  let st : FrameSt := if retire then .retired else match back with | some c => .held c true | none => .pool
  let s2 := { s1 with hbm := { s1.hbm with frames := mset .pool s1.hbm.frames frame st, suspect := mset false s1.hbm.suspect frame false } }
  if retire then
    let half := s.pln.half frame
    (match back with
      | some c => s2.setCtx c ((s2.ctx c).setCow half ((s2.ctx c).cowLeft half - 1))
      | none => s2).raise { code := 0x030C, detail := frame }
  else s2

/-- No access that was translated to the frame before it left its owner is still on its way (R33, R359). -/
def State.frameQuiet (s : State) (frame : Nat) : Bool :=
  !s.hbm.accs.any fun a => decide (a.stage = .toChan) && decide (a.phys / 65536 = frame)

def execFrameZeroed (frame : Nat) (bad : Bool) (s : State) : Host.Outcome State Fault Refusal :=
  whenever (.frameZeroed frame bad) (s.isZeroing frame && s.frameQuiet frame) s (s.zeroed frame bad)

/-! ### HBM domains (R345, R373 to R376) -/

def State.hdom (s : State) (h : Nat) : Hdom := mget {} s.hbm.hdom h
def State.setHdom (s : State) (h : Nat) (x : Hdom) : State := { s with hbm := { s.hbm with hdom := mset {} s.hbm.hdom h x } }
def State.pwin (s : State) (p : Nat) : PWin := mget {} s.hbm.pwin p
def State.setPwin (s : State) (p : Nat) (x : PWin) : State := { s with hbm := { s.hbm with pwin := mset {} s.hbm.pwin p x } }

/-- The state of a power domain changes. -/
def State.domTo (s : State) (d st : Nat) : State := s.setDom d { s.dom d with st := st }

/-- The partner windows of which frames lie in a half. -/
def State.pwinsIn (s : State) (h : Nat) : List Nat :=
  [0, 1].filter fun p => decide ((s.pwin p).frames ≠ 0) &&
    (decide (s.pln.half (s.pwin p).first = h) || decide (s.pln.half ((s.pwin p).first + (s.pwin p).frames - 1) = h))

/-- The refusal of R60: an audit entry with the domain, its state and the state asked for. -/
def State.refusePower (s : State) (d new : Nat) : State :=
  s.auditGeneral 7 1 0 (d + (s.dom d).st * 2 ^ 32 + new * 2 ^ 64)

/-- Every tile set is Idle. -/
def State.allIdle (s : State) : Bool := (List.range 120).all fun n => decide ((s.tset n).st = .idle)

/-- The conditions of R373, and of R345 for D4. A domain that is not On has nothing to drain: the request is refused like one that fails
them (DESIGN CHOICE, log entry 182). -/
def State.mayDrain (s : State) (h : Nat) : Bool :=
  decide ((s.dom (4 + h)).st = 2) &&
    !(s.hbm.fmap.any fun kv => kv.2.valid && (decide (s.pln.half kv.2.pframe = h) || (kv.2.scopied && decide (s.pln.half kv.2.sframe = h)))) &&
    !(decide (h = 0) && s.hbm.sysMapped && decide (s.hbm.sysGone.length < sysFrames)) &&
    (List.range 17).all (fun c => decide ((s.ctx c).cowLeft h = 0)) &&
    (decide (h = 1) || s.allIdle)

/-- DOWN of MEM_HDOM_CTRL_h: refused, or Orders 1 and 2 of R374. -/
def State.domainDown (s : State) (h : Nat) : State :=
  if s.mayDrain h then
    (s.pwinsIn h).foldl (fun s p => s.mgmt p 5 [p]) ((s.domTo (4 + h) 3).setHdom h { s.hdom h with down := true, confirmed := [] })
  else s.refusePower (4 + h) 0

def execHbmDomainDown (domain : Nat) (s : State) : Host.Outcome State Fault Refusal :=
  whenever (.hbmDomainDown domain) (!s.pln.fatal && s.isOn 18) s ((s.access 1 (0x600400 + 0x10 * domain)).domainDown domain)

/-- INBOUND of a domain: writes on their way to it that are not visible and reads that are not answered (R380). -/
def State.inbound (s : State) (h : Nat) : Nat :=
  (s.hbm.accs.filter fun a => decide (a.stage = .toChan) && decide (s.pln.half (a.phys / 65536) = h)).length

/-- Orders 3 to 5 of R374 are done, and for D4 every tile set is Idle still (R345). A window whose port is not Up has no peer to
confirm. -/
def State.drained (s : State) (h : Nat) : Bool :=
  decide ((s.dom (4 + h)).st = 3) && decide (s.inbound h = 0) && !s.pln.fatal && (decide (h = 1) || s.allIdle) &&
    (s.pwinsIn h).all fun p => (s.hdom h).confirmed.contains p || decide ((s.port p).st ≠ .up)

/-- What becomes of the frames as a domain loses its cells: zeroing pending in it is abandoned; with D4 every entry of the Frame Map is
gone, and the frames of D5 that entries named are left to zeroing (R345, R374). -/
def State.framesAfter (s : State) (h : Nat) : SMap FrameSt :=
  let m := s.hbm.frames.filter fun kv => !(decide (s.pln.half kv.1 = h) && (match kv.2 with | .zeroing _ => true | _ => false))
  if h = 0 then (s.hbm.fmap.filter fun kv => kv.2.valid && decide (s.pln.half kv.2.pframe = 1)).foldl (fun m kv => mset .pool m kv.2.pframe (.zeroing none)) m
  else m

/-- What the domain held is gone: its cells and marks, and with D4 the Frame Map (R345). -/
def State.loseDomain (s : State) (h : Nat) : State :=
  let inH (frame : Nat) : Bool := decide (s.pln.half frame = h)
  { s with hbm := { s.hbm with
      fmap := if h = 0 then [] else s.hbm.fmap
      sysMapped := s.hbm.sysMapped && decide (h ≠ 0)
      sysGone := if h = 0 then [] else s.hbm.sysGone
      mem := mdrop (fun a => inH (a / 65536)) s.hbm.mem
      poison := mdrop (fun l => inH (l / 1024)) s.hbm.poison
      bad := mdrop (fun l => inH (l / 1024)) s.hbm.bad
      suspect := mdrop inH s.hbm.suspect
      frames := s.framesAfter h } }

/-- Orders 6 and 7 of R374. The stacks lose their training with their power (R551). -/
def State.fence (s : State) (h : Nat) : State :=
  let s1 := ((s.domTo (4 + h) 0).loseDomain h).setHdom h { s.hdom h with fenced := true, confirmed := [], down := false }
  let s2 : State := { s1 with pln := { s1.pln with trainPowered := false, hbmLost := true } }
  (s.pwinsIn h).foldl (fun s p => s.setPwin p { s.pwin p with lost := true }) s2

def execHbmDomainFence (domain : Nat) (s : State) : Host.Outcome State Fault Refusal :=
  whenever (.hbmDomainFence domain) (s.drained domain) s (s.fence domain)

/-- UP of MEM_HDOM_CTRL_h: powered up when every domain that it needs is On, refused otherwise (R60, R376). -/
def State.domainUp (s : State) (h : Nat) : State :=
  if (s.dom (4 + h)).st = 0 then
    (if s.isOn 0 && s.isOn 1 && s.isOn 18 then (s.domTo (4 + h) 1).setHdom h { s.hdom h with up := true } else s.refusePower (4 + h) 1)
  else s

def execHbmDomainUp (domain : Nat) (s : State) : Host.Outcome State Fault Refusal :=
  whenever (.hbmDomainUp domain) (!s.pln.fatal && s.isOn 18) s ((s.access 1 (0x600400 + 0x10 * domain)).domainUp domain)

/-- The granules that initialisation fills with the poison encoding (R376). -/
def State.darkGranules (s : State) (h : Nat) : List Nat :=
  (s.hdom h).log ++ (if (s.hdom h).logOverflow then
    ((s.pwinsIn h).flatMap fun p => (List.range (64 * (s.pwin p).frames)).map fun g => 64 * (s.pwin p).first + g).filter
      fun g => decide (s.pln.half (g / 64) = h) else [])

/-- The frame lies in a partner window. -/
def State.inPwin (s : State) (frame : Nat) : Bool :=
  [0, 1].any fun p => decide ((s.pwin p).first ≤ frame) && decide (frame < (s.pwin p).first + (s.pwin p).frames)

/-- Every context frame of the domain returns to the pool as it comes On (R376), but for those of its partner windows, which R376 keeps,
and those that are retired (R359; DEDUCED, log entry 56). -/
def State.framesBack (s : State) (h : Nat) : State :=
  let stays (kv : Nat × FrameSt) : Bool := !decide (s.pln.half kv.1 = h) || s.inPwin kv.1 || decide (kv.2 = .retired)
  { s with hbm := { s.hbm with frames := s.hbm.frames.filter stays } }

/-- Initialisation ends: the lines are zero or poison, the frames return, the log is cleared, and each peer of a window is told (R376,
R417). -/
def State.domainOn (s : State) (h : Nat) : State :=
  let s1 := (s.darkGranules h).foldl (fun s g => (List.range 16).foldl (fun s j => s.storeLine (16 * g + j) 0 true) s) ((s.loseDomain h).framesBack h)
  let s2 := (s1.domTo (4 + h) 2).setHdom h {}
  (s.pwinsIn h).foldl (fun s p => s.mgmt p 7 [p]) s2

def execHbmDomainOn (domain : Nat) (s : State) : Host.Outcome State Fault Refusal :=
  whenever (.hbmDomainOn domain) (decide ((s.dom (4 + domain)).st = 1) && !s.pln.fatal) s (s.domainOn domain)

end Sys2Proof.Machine
end

