-- ==== Sys2Proof/Machine/Dma.lean ====
section
/-! DEFINITION. DMA engines (R366 to R371): descriptors, their checks, the movement of lines, and completion. -/

namespace Sys2Proof.Machine

/-! ### The descriptor (R368) -/

def dOpcode (r : Nat) : Nat := byteOf r 0
def dSrcHost (r : Nat) : Bool := bit r 16
def dDstHost (r : Nat) : Bool := bit r 17
def dSnap (r : Nat) : Bool := bit r 18
def dInc (r : Nat) : Bool := bit r 19
def dSrcPwin (r : Nat) : Bool := bit r 20
def dDstPwin (r : Nat) : Bool := bit r 21
def dPort (r : Nat) : Nat := byteOf r 3
def dLines (r : Nat) : Nat := bits r 32 32
def dSrc (r : Nat) : Nat := bits r 64 64
def dDst (r : Nat) : Nat := bits r 128 64
def dPattern (r : Nat) : Nat := bits r 192 64
def dCounter (r : Nat) : Nat := bits r 256 64
def dAmount (r : Nat) : Nat := bits r 320 8
def dFill (r : Nat) : Bool := decide (dOpcode r = 2)

/-- FILL's line: the pattern, eight times. -/
def fillLine (p : Nat) : Nat := packElems 64 (List.replicate 8 p)

/-! ### Checks (R370) -/

/-- More than one of three flags is set. -/
def moreThanOne (a b c : Bool) : Bool := (a && b) || (a && c) || (b && c)

/-- INC, AMOUNT and COUNTER agree. -/
def incAgrees (r : Nat) : Bool :=
  if dInc r then decide (1 ≤ dAmount r) && decide (dAmount r ≤ 16) else decide (dAmount r = 0) && decide (dCounter r = 0)

/-- Reserved bytes and bits are zero, and the flags go together (R370 Order 1). -/
def dFlagsOk (r : Nat) : Bool :=
  decide (bits r 22 2 = 0) && decide (bits r 328 24 = 0) && decide (bits r 384 128 = 0) &&
    (if dSrcPwin r || dDstPwin r then decide (dPort r < 2) else decide (dPort r = 0)) &&
    !moreThanOne (dSrcHost r) (dSrcPwin r) (dSnap r) && !(dSnap r && decide (gSpace (dSrc r) ≠ 0)) &&
    !(dDstHost r && dDstPwin r) &&
    (if dFill r then decide (dSrc r = 0) && !(dSrcHost r || dSrcPwin r || dSnap r) else decide (dPattern r = 0)) && incAgrees r

/-- Orders 1 and 2 of R370: the reason, with the failing address of reason 5. -/
def dmaInvalid (r : Nat) : Option (Nat × Nat) :=
  if byteOf r 1 ≠ 1 then some (1, noAddr)
  else if !(decide (dOpcode r = 1) || decide (dOpcode r = 2)) then some (2, noAddr)
  else if !dFlagsOk r then some (3, noAddr)
  else if dLines r = 0 || decide (16777216 < dLines r) then some (4, noAddr)
  else if dSrc r % 64 ≠ 0 then some (5, dSrc r)
  else if dDst r % 64 ≠ 0 then some (5, dDst r)
  else none

/-- Lines of a run of tile memory all satisfy `p`. -/
def allLines (l n : Nat) (p : Nat → Bool) : Bool := (List.range n).all fun j => p (l + j)

/-- Every address of the range keeps the bits that R37 marks zero: it is long enough for them, and it stays inside its space. -/
def rangeZeroOk (a n : Nat) : Bool :=
  let last := a + 64 * (n - 1)
  decide (a < 2 ^ 56) && (gReserved a || (gZeroOk a && (match gSpace a with
    | 0 => decide (last < 2 ^ 40)
    | 2 => decide (bits a 0 40 + 64 * (n - 1) < 2 ^ 40)
    | 15 => decide (bits a 0 32 + 64 * (n - 1) < 2 ^ 32)
    | _ => true)))

/-- The source of a descriptor lies in the staging slot of context `c` (R576, R578). -/
def State.inSlot (s : State) (c r : Nat) : Bool :=
  let first := s.pln.stagingFirst + 768 * c
  !dFill r && !dSrcHost r && !dSrcPwin r && decide (gSpace (dSrc r) = 0) && decide (first ≤ dSrc r / 65536) &&
    decide ((dSrc r + 64 * (dLines r - 1)) / 65536 < first + 768)

/-- The descriptor of context `c` is a load copy: the firmware's, from the staging slot of the context that holds a Loading tile set, into
a tile of that set (R578). -/
def State.loadsTile (s : State) (c r : Nat) : Bool :=
  let x := s.tset (tsetOf (gTile (dDst r)))
  decide (c = 16) && decide (gTile (dDst r) < 5760) && decide (x.st = .loading) && s.inSlot x.owner r

/-- A range of a global address (R370 Order 3): its reason. A load copy's destination, `load`, is checked against the tile-memory bound
and R95 only (R578). -/
def State.dmaRange (s : State) (c a n : Nat) (load : Bool) : Option Nat :=
  if !rangeZeroOk a n then some 10
  else if gReserved a || decide (gSpace a = 3) || (decide (gSpace a = 15) && decide (c ≠ 16)) then some 1
  else if gSpace a = 2 && !s.reaches c (gPort a) then some 3
  else if gSpace a = 2 && decide (gPeerSpace a ≠ 0) then some 4
  else if gSpace a = 1 && !load && !(decide (gTile a < 5760) && decide ((s.tset (tsetOf (gTile a))).owner = c)) then some 2
  else if gSpace a = 1 && decide (0x200000 < gOff a + 64 * n) then some 5
  else if gSpace a = 1 && !allLines (gOff a / 64) n (s.tile (gTile a)).powered then some 6
  else if gSpace a = 1 && !load && !allLines (gOff a / 64) n (s.tile (gTile a)).dmaOk then some 7
  else if gSpace a = 0 && decide ((s.ctx c).fmFrames ≤ (a + 64 * (n - 1)) / 65536) then some 8
  else none

/-- Order 3 for SRC. -/
def State.dmaSrcBad (s : State) (c r : Nat) : Option Nat :=
  if dFill r || dSrcHost r then none
  else if dSrcPwin r then
    let w := s.pwin (dPort r)
    (if w.ctx = c && decide (dSrc r + 64 * dLines r ≤ w.frames * 65536) then none else some 9)
  else s.dmaRange c (dSrc r) (dLines r) false

/-- Order 3 for DST. The peer checks the offset into its own window (R372). -/
def State.dmaDstBad (s : State) (c r : Nat) : Option Nat :=
  if dDstHost r then none
  else if dDstPwin r then (if s.reaches c (dPort r) then none else some 3)
  else s.dmaRange c (dDst r) (dLines r) (s.loadsTile c r)

/-- Order 3 for COUNTER. -/
def State.counterBad (s : State) (c a : Nat) : Option Nat :=
  if 2 ^ 56 ≤ a || (!gReserved a && !gZeroOk a) then some 10
  else if !(decide (gSpace a = 3) || decide (gSpace a = 2)) then some 1
  else if gSpace a = 2 && !s.reaches c (gPort a) then some 3
  else if gSpace a = 2 && decide (gPeerSpace a ≠ 3) then some 4
  else none

/-- The first failing test of R370: the record. -/
def State.dmaCheck (s : State) (c q r : Nat) : Option FaultRec :=
  let bad (reason field addr : Nat) : FaultRec :=
    { code := 0x0308, ctxFatal := true, ctx := c, addr := addr, detail := q + reason * 2 ^ 16 + field * 2 ^ 20 }
  match dmaInvalid r with
  | some (reason, addr) => some { code := 0x0307, ctxFatal := true, ctx := c, addr := addr, detail := q + reason * 2 ^ 16 }
  | none =>
    match s.dmaSrcBad c r with
    | some x => some (bad x 0 (dSrc r))
    | none =>
      match s.dmaDstBad c r with
      | some x => some (bad x 1 (dDst r))
      | none => (if dInc r then s.counterBad c (dCounter r) else none).map fun x => bad x 2 (dCounter r)

/-! ### Taking a descriptor (R367) -/

/-- The `k`-th message of a ring, when it and every one before it is complete. -/
def ringMessage : List RingRec → Nat → Option RingRec
  | [], _ => none
  | r :: rs, k =>
    if !r.complete then none
    else if r.pad then ringMessage rs k
    else match k with
      | 0 => some r
      | n + 1 => ringMessage rs n

/-- Descriptors of a queue in progress. -/
def State.descsOf (s : State) (q : Nat) : Nat := (s.hbm.descs.filter fun d => decide (d.queue = q)).length

/-- The record that the engine takes next from a queue. -/
def State.nextDesc (s : State) (q : Nat) : Option RingRec := ringMessage (s.queue q).recs (s.descsOf q)

/-- The virtual address of payload line 0 of a record. -/
def Queue.payloadAddr (q : Queue) (r : RingRec) : Nat := q.body + r.pos + 64

/-- The physical line behind a virtual address, after the tests of a slice. -/
def State.physLine (s : State) (c va : Nat) (snap : Bool) : Nat :=
  (s.entryAt c va).frameFor snap * 1024 + va % 65536 / 64

/-- Payload line 0 as it stands. -/
def State.descRaw (s : State) (q : Nat) (r : RingRec) : Nat :=
  s.hbmLine (s.physLine (s.queue q).ctx ((s.queue q).payloadAddr r) false)

/-- HBM lines that an engine reads: some frame is being copied, or the engine's own earlier write to a line is not yet
visible (R347, R357). -/
def State.readWaits (s : State) (src : Src) (c va n : Nat) : Bool :=
  (s.hbm.copies.any fun x => decide ((s.ctx c).fmBase + va / 65536 ≤ x.entry) &&
    decide (x.entry ≤ (s.ctx c).fmBase + (va + 64 * (n - 1)) / 65536)) ||
  s.hbm.accs.any fun a => a.write && decide (a.src = src) && decide (a.ctx = c) && decide (a.stage ≠ .acked) &&
    decide (va ≤ a.vaddr) && decide (a.vaddr < va + 64 * n)

/-- How far a queue stands in a rotation by descriptor number that serves queue `first` next. -/
def turnOf (first q : Nat) : Nat := (q + 32768 - first % 32768) % 32768

/-- Queue `q` is served next by a rotation over the queues that are `ready` (R367, R399). -/
def State.inTurn (s : State) (first q : Nat) (ready : Nat → Bool) : Bool :=
  !s.rmn.queues.any fun kv => decide (turnOf first kv.1 < turnOf first q) && ready kv.1

/-- A descriptor of the queue is there for its engine, and nothing that it reads waits for a write or a copy. -/
def State.dmaReady (s : State) (e q : Nat) : Bool :=
  let x := s.queue q
  decide (x.ownerKind = 2) && decide (x.ownerId = e) && decide (x.state ≠ 0) && decide (x.ctx < 17) && !mget false s.hbm.stopped q &&
    match s.nextDesc q with
    | none => false
    | some r =>
      let raw := s.descRaw q r
      !s.copying x.ctx (x.payloadAddr r) &&
        ((s.dmaCheck x.ctx q raw).isSome || dFill raw || dSrcHost raw || dSrcPwin raw || decide (gSpace (dSrc raw) ≠ 0) ||
          !s.readWaits (.dma e) x.ctx (dSrc raw) (dLines raw))

/-- The queue's next descriptor is one of DMA_FILL. -/
def State.dmaIsFill (s : State) (q : Nat) : Option Bool := (s.nextDesc q).map fun r => dFill (s.descRaw q r)

/-- The engine takes the queue's next descriptor now: it is the queue's turn in the rotation by descriptor number; `fill` says whether
the row is DMA_FILL (R366, R367). -/
def State.canDma (s : State) (e q : Nat) (fill : Bool) : Bool :=
  s.dmaReady e q && decide (s.dmaIsFill q = some fill) && decide ((s.hbm.descs.filter fun d => decide (d.engine = e)).length < 8) &&
    !s.pln.fatal && s.inTurn (mget 0 s.hbm.nextQueue e) q (s.dmaReady e)

/-! ### Moving lines (R363, R371) -/

/-- The function through which a context reaches host memory. -/
def fnOfCtx (c : Nat) : Nat := if c < 16 then c + 1 else 0

/-- One line to host memory, with EP for a poisoned one (R432, R434). -/
def State.lineToHost (s : State) (d : Desc) (i : Nat) (v : Nat) (p : Bool) : State :=
  (s.out (.hostWrite (fnOfCtx d.ctx) (dDst d.raw + 64 * i) 64 v p)).modDesc d.id fun x => { x with acked := x.acked + 1 }

/-- One line into tile memory, MESH_PARITY once for a descriptor (R363, R485). -/
def State.lineToTile (s : State) (d : Desc) (i : Nat) (v : Nat) (p : Bool) : State :=
  let t := gTile (dDst d.raw)
  let l := gOff (dDst d.raw) / 64 + i
  let upset := mget false (s.tile t).err.meshUpset l
  let s1 := (s.modTile t fun x => { x with err := { x.err with meshUpset := mset false x.err.meshUpset l false } }).landLine t l v (p || upset) false
  let s2 := s1.modDesc d.id fun x => { x with acked := x.acked + 1, meshBad := x.meshBad || upset }
  if upset && !(s.hbm.descs.any fun x => decide (x.id = d.id) && x.meshBad) then s2.meshParity d.ctx t l 3 (tileAddr t (64 * l)) else s2

/-- One line to a peer's memory, in a packet of its own (R396). -/
def State.lineToPeer (s : State) (d : Desc) (i : Nat) (v : Nat) (p : Bool) : State :=
  let a := dDst d.raw + 64 * i
  s.sendPeer (gPort a) d.ctx (.dma d.engine) 1 0 (bits a 0 40) 1 1 [(v, p)] (.dmaWrite d.id false 0)

/-- One line into the peer's partner window, or held at a suspended port (R372, R417). -/
def State.lineToPwin (s : State) (d : Desc) (i : Nat) (v : Nat) (p : Bool) : State :=
  let k := dPort d.raw
  let off := dDst d.raw + 64 * i
  if (s.port k).suspended then
    s.modPort k fun x => { x with held := x.held ++ [{ ctx := d.ctx, desc := d.id, offset := off, data := v, poison := p }] }
  else s.sendPeer k d.ctx (.dma d.engine) 7 0 off 1 1 [(v, p)] (.dmaWrite d.id true (off / 64))

/-- HOST_DMA_ABORT (R431, R435). -/
def hostAbort (c reason : Nat) : FaultRec := { code := 0x0A01, ctxFatal := true, ctx := c, detail := reason + fnOfCtx c * 2 ^ 8 }

/-- A line for the registers of space 0xF: it is written as the registers take it, in FirmwareDma.lean (R42, R369). -/
def State.lineToRegs (s : State) (d : Desc) (i : Nat) (v : Nat) (_ : Bool) : State :=
  s.modDesc d.id fun x => { x with regLines := x.regLines ++ [(i, v)] }

/-- Lines of a descriptor's write into space 0x0 leave the engine: they are one operation, whose other lines may still be to come (R353). -/
def State.issueDma (s : State) (d : Desc) (first : Nat) (ls : List (Nat × Bool)) : State :=
  match s.hbm.ops.find? fun o => decide (o.kind = .dma d.id) with
  | none =>
    let s1 := s.issueMem (.dma d.id) (.dma d.engine) d.ctx (dDst d.raw + 64 * first) true false ls
    { s1 with hbm := { s1.hbm with ops := s1.hbm.ops.map fun o => if o.kind = .dma d.id then { o with more := d.lines - ls.length } else o } }
  | some o =>
    { s with
      nextId := s.nextId + ls.length
      hbm := { s.hbm with
        ops := s.hbm.ops.map fun x => if x.id = o.id then { x with left := x.left + ls.length, more := x.more - ls.length } else x
        accs := s.hbm.accs ++ accessList s.stampNow (.dma d.engine) d.ctx o.id true false s.nextId first (dDst d.raw + 64 * first) ls } }

/-- Lines from `first` on go to the destination; what would leave for the host in the name of a function that is being reset does not, until
Order 5 of R451 abandons the descriptor. -/
def State.dmaStore (s : State) (d : Desc) (first : Nat) (ls : List (Nat × Bool)) : State :=
  let each (f : State → Desc → Nat → Nat → Bool → State) : State :=
    ((List.range ls.length).zip ls).foldl (fun s x => f s d (first + x.1) x.2.1 x.2.2) s
  if dDstHost d.raw then (if (s.fn (fnOfCtx d.ctx)).mayIssue then each State.lineToHost
    else if (s.fn (fnOfCtx d.ctx)).resetting then s else s.descFault d (hostAbort d.ctx 4))
  else if dDstPwin d.raw then each State.lineToPwin
  else if gSpace (dDst d.raw) = 1 then each State.lineToTile
  else if gSpace (dDst d.raw) = 2 then each State.lineToPeer
  else if gSpace (dDst d.raw) = 15 then each State.lineToRegs
  else s.issueDma d first ls

/-- Reading one HBM line behind the tests of its slice. -/
def State.takeLine (s : State) (line : Nat) : State × Nat × Bool :=
  let s1 := s.eccRead line false
  (s1, s1.hbmLine line, s1.hbmPoisoned line)

def State.takeLines (s : State) : List Nat → State × List (Nat × Bool)
  | [] => (s, [])
  | l :: ls =>
    match s.takeLine l with
    | (s1, v, p) => match s1.takeLines ls with
      | (s2, rest) => (s2, (v, p) :: rest)

/-- The lowest line of a run of `n` HBM lines that a slice refuses: address, code, Detail (R352, R353). -/
def State.runRefused (s : State) (c va n src q : Nat) (snap : Bool) : Option (Nat × Nat × Nat) :=
  (List.range n).findSome? fun j => (s.sliceTest c (va + 64 * j) src q false snap false).map fun x => (va + 64 * j, x.1, x.2)

/-- The effect of an ascending line-by-line copy whose destination begins `k` lines behind its source (R371). -/
def overlap (ls : List (Nat × Bool)) (k : Nat) : List (Nat × Bool) :=
  if k = 0 then ls else (List.range ls.length).map fun i => ls.getD (i % k) (0, false)

/-- How far a destination lies inside the source range, in lines; 0 where it does not: both in host memory, or both in one of the
spaces 0x0 to 0x2. -/
def overlapBy (r : Nat) : Nat :=
  if decide (dSrcHost r = dDstHost r) && !dSrcPwin r && !dDstPwin r && !dSnap r && decide (dSrc r < dDst r) &&
    decide (dDst r < dSrc r + 64 * dLines r) then (dDst r - dSrc r) / 64 else 0

/-- The lines that an engine asks of a source away from the device: behind an overlap every later line is one of the first ones again. -/
def dAsks (r : Nat) : Nat := if overlapBy r = 0 then dLines r else min (overlapBy r) (dLines r)

/-- Lines `first`, `first + 1`, … of the source have come: they go to the destination, each also to the places that the overlap makes it
stand for (R371). -/
def State.dmaCame (s : State) (d : Desc) (first : Nat) (ls : List (Nat × Bool)) : State :=
  if overlapBy d.raw = 0 then s.dmaStore d first ls
  else ((List.range ls.length).zip ls).foldl (fun s x =>
    (below (dLines d.raw) fun i => decide (i % overlapBy d.raw = first + x.1)).foldl (fun s i => s.dmaStore d i [x.2]) s) s

/-- What the source gives: its lines, a refusal, or data that comes later. -/
inductive DmaSrc where
  | lines (s : State) (ls : List (Nat × Bool))
  | refused (r : FaultRec)
  | later (s : State)

/-- A read of a DMA source asked of a peer, line by line. -/
def State.askPeer (s : State) (d : Desc) : Nat → Nat → State
  | 0, _ => s
  | n + 1, i =>
    let a := dSrc d.raw + 64 * i
    (s.sendPeer (gPort a) d.ctx (.dma d.engine) 2 0 (bits a 0 40) 1 1 [] (.dmaRead d.id i 1)).askPeer d n (i + 1)

/-- A read of a DMA source asked of the host, line by line (R435). -/
def State.askHost (s : State) (d : Desc) : Nat → Nat → State
  | 0, _ => s
  | n + 1, i =>
    (s.hostRead (fnOfCtx d.ctx) (dSrc d.raw + 64 * i) 64 (.dmaSource d.id i 1)).askHost d n (i + 1)

/-- The source of a descriptor whose checks have passed (R363, R369, R371). -/
def State.dmaRead (s : State) (d : Desc) : DmaSrc :=
  let r := d.raw
  let n := dLines r
  if dFill r then .lines s (List.replicate n (fillLine (dPattern r), false))
  else if dSrcHost r then
    (if (s.fn (fnOfCtx d.ctx)).mayIssue || (s.fn (fnOfCtx d.ctx)).resetting then .later (s.askHost d (dAsks r) 0)
     else .refused (hostAbort d.ctx 4))
  else if dSrcPwin r then
    let l0 := (s.pwin (dPort r)).first * 1024 + dSrc r / 64
    match firstBelow n fun j => !s.isOn (s.pln.frameDom ((l0 + j) / 1024)) with
    | some j => .refused { code := 0x0305, ctxFatal := true, ctx := d.ctx, addr := dSrc r + 64 * j
                           detail := 2 + s.pln.half ((l0 + j) / 1024) * 2 ^ 5 }
    | none => (match s.takeLines ((List.range n).map fun j => l0 + j) with | (s1, ls) => .lines s1 ls)
  else if gSpace (dSrc r) = 1 then
    let t := s.tile (gTile (dSrc r))
    let l0 := gOff (dSrc r) / 64
    .lines s ((List.range n).map fun j => (t.line (l0 + j), t.poisoned (l0 + j) || t.parityBad (l0 + j)))
  else if gSpace (dSrc r) = 15 then .later (s.modDesc d.id fun x => { x with regSrc := true })
  else if gSpace (dSrc r) = 2 then .later (s.askPeer d (dAsks r) 0)
  else
    match s.runRefused d.ctx (dSrc r) n 2 d.queue (dSnap r) with
    | some (va, code, detail) => .refused { code := code, ctxFatal := true, ctx := d.ctx, addr := va, detail := detail }
    | none => (match s.takeLines ((List.range n).map fun j => s.physLine d.ctx (dSrc r + 64 * j) (dSnap r)) with
      | (s1, ls) => .lines s1 (overlap ls (overlapBy r)))

/-- The engine moves the lines of a descriptor. -/
def State.dmaRun (s : State) (d : Desc) : State :=
  match s.dmaRead d with
  | .lines s1 ls => s1.dmaStore d 0 (overlap ls (if gSpace (dSrc d.raw) = 1 then overlapBy d.raw else 0))
  | .refused r => s.descFault d r
  | .later s1 => s1

/-- POISON_CONSUMED of a descriptor, at payload line 0 in HBM (R482, R483, R506). -/
def descPoison (c va : Nat) : FaultRec :=
  { code := 0x0901, ctxFatal := true, ctx := c, addr := va, detail := 7 * 2 ^ 15 }

/-- The descriptor that an engine takes, before its payload is read. -/
def State.newDesc (s : State) (e q : Nat) (r : RingRec) : Desc :=
  let raw := s.descRaw q r
  { id := s.nextId, engine := e, queue := q, ctx := (s.queue q).ctx, raw := raw, lines := dLines raw, acked := 0, hostPoison := 0
    hostCmd := r.hostCmd, meshBad := false, faulted := false }

/-- DMA_COPY and DMA_FILL: the payload is read and checked, then the lines move (R367 to R371). -/
def State.dmaStart (s : State) (e q : Nat) : State :=
  match s.nextDesc q with
  | none => s
  | some r =>
    let x := s.queue q
    let va := x.payloadAddr r
    let d0 := s.newDesc e q r
    let s0 := { s with nextId := s.nextId + 1, hbm := { s.hbm with descs := s.hbm.descs ++ [d0], nextQueue := mset 0 s.hbm.nextQueue e (q + 1) } }
    match s.sliceTest x.ctx va 2 q false false false with
    | some (code, detail) => s0.descFault d0 { code := code, ctxFatal := true, ctx := x.ctx, addr := va, detail := detail }
    | none =>
      let l := s.physLine x.ctx va false
      let s1 := s0.eccRead l false
      if s1.hbmPoisoned l then s1.descFault d0 (descPoison x.ctx va)
      else
        match s1.dmaCheck x.ctx q d0.raw with
        | some rec => s1.descFault d0 rec
        | none => s1.dmaRun d0

def execDmaCopy (engine queue : Nat) (s : State) : Host.Outcome State Fault Refusal :=
  whenever (.dmaCopy engine queue) (s.canDma engine queue false) s (s.dmaStart engine queue)

def execDmaFill (engine queue : Nat) (s : State) : Host.Outcome State Fault Refusal :=
  whenever (.dmaFill engine queue) (s.canDma engine queue true) s (s.dmaStart engine queue)

/-! ### Completion (R367, R371) -/

def State.desc (s : State) (d : Nat) : Option Desc := s.hbm.descs.find? fun x => decide (x.id = d)

/-- Every line is acknowledged, and the descriptor is the first of its queue. -/
def State.canDescDone (s : State) (d : Nat) : Bool :=
  match s.desc d with
  | none => false
  | some x => decide (x.acked = x.lines) && !x.faulted && !s.pln.fatal &&
      !x.regSrc && x.regLines.isEmpty &&
      (match s.hbm.descs.find? fun y => decide (y.queue = x.queue) with | some y => decide (y.id = d) | none => false)

/-- The INC increment of a descriptor (R279). -/
def State.incCounter (s : State) (src : Src) (c a n : Nat) : State :=
  (s.sendSyu src c none none 0 (if gSpace a = 3 then .inc (gVid a) n else .remote a n)).flushRemote

/-- HOST_POISON_RECEIVED, the increment, the release of the record, and the host command (R367, R371, R434, R444). -/
def State.descDone (s : State) (d : Nat) : State :=
  match s.desc d with
  | none => s
  | some x =>
    let s1 := { s with hbm := { s.hbm with descs := s.hbm.descs.filter fun y => !decide (y.id = d)
                                           completed := mmod 0 s.hbm.completed x.engine fun n => satAdd n 1 0xFFFFFFFF } }
    let s2 := if x.hostPoison = 0 then s1
      else s1.writeRec (poisonReceived x.ctx x.hostPoison)
    let s3 := if dInc x.raw then s2.incCounter (.dma x.engine) x.ctx (dCounter x.raw) (dAmount x.raw) else s2
    let s4 := s3.releaseRecord x.queue
    match x.hostCmd with
    | some (f, n) => (match s4.cmd f n with | some k => s4.complete k 0 0 x.lines | none => s4)
    | none => s4

end Sys2Proof.Machine
end

