-- ==== Sys2Proof/Machine/Ecdsa.lean ====
section
/-! DEFINITION. The signatures that the device verifies: ECDSA over P-384 with SHA-384 (FIPS 186-5, FIPS 180-4; R497, R542). A message is a
blob of bytes, byte 0 least significant; a hash and a coordinate are numbers, their first byte most significant. -/

namespace Sys2Proof.Machine

/-! ### SHA-384 -/

/-- The number of the `n` bytes of a blob whose first byte is most significant. -/
def bigEndian (m n : Nat) : Nat := (toBytes m n).foldl (fun a b => 256 * a + b) 0

/-- The 80 round constants of FIPS 180-4: the first 64 fractional bits of the cube roots of the first 80 primes. -/
def shaK : List Nat :=
  [0x428A2F98D728AE22, 0x7137449123EF65CD, 0xB5C0FBCFEC4D3B2F, 0xE9B5DBA58189DBBC,
    0x3956C25BF348B538, 0x59F111F1B605D019, 0x923F82A4AF194F9B, 0xAB1C5ED5DA6D8118,
    0xD807AA98A3030242, 0x12835B0145706FBE, 0x243185BE4EE4B28C, 0x550C7DC3D5FFB4E2,
    0x72BE5D74F27B896F, 0x80DEB1FE3B1696B1, 0x9BDC06A725C71235, 0xC19BF174CF692694] ++
  [0xE49B69C19EF14AD2, 0xEFBE4786384F25E3, 0x0FC19DC68B8CD5B5, 0x240CA1CC77AC9C65,
    0x2DE92C6F592B0275, 0x4A7484AA6EA6E483, 0x5CB0A9DCBD41FBD4, 0x76F988DA831153B5,
    0x983E5152EE66DFAB, 0xA831C66D2DB43210, 0xB00327C898FB213F, 0xBF597FC7BEEF0EE4,
    0xC6E00BF33DA88FC2, 0xD5A79147930AA725, 0x06CA6351E003826F, 0x142929670A0E6E70] ++
  [0x27B70A8546D22FFC, 0x2E1B21385C26C926, 0x4D2C6DFC5AC42AED, 0x53380D139D95B3DF,
    0x650A73548BAF63DE, 0x766A0ABB3C77B2A8, 0x81C2C92E47EDAEE6, 0x92722C851482353B,
    0xA2BFE8A14CF10364, 0xA81A664BBC423001, 0xC24B8B70D0F89791, 0xC76C51A30654BE30,
    0xD192E819D6EF5218, 0xD69906245565A910, 0xF40E35855771202A, 0x106AA07032BBD1B8] ++
  [0x19A4C116B8D2D0C8, 0x1E376C085141AB53, 0x2748774CDF8EEB99, 0x34B0BCB5E19B48A8,
    0x391C0CB3C5C95A63, 0x4ED8AA4AE3418ACB, 0x5B9CCA4F7763E373, 0x682E6FF3D6B2B8A3,
    0x748F82EE5DEFB2FC, 0x78A5636F43172F60, 0x84C87814A1F0AB72, 0x8CC702081A6439EC,
    0x90BEFFFA23631E28, 0xA4506CEBDE82BDE9, 0xBEF9A3F7B2C67915, 0xC67178F2E372532B] ++
  [0xCA273ECEEA26619C, 0xD186B8C721C0C207, 0xEADA7DD6CDE0EB1E, 0xF57D4F7FEE6ED178,
    0x06F067AA72176FBA, 0x0A637DC5A2C898A6, 0x113F9804BEF90DAE, 0x1B710B35131C471B,
    0x28DB77F523047D84, 0x32CAAB7B40C72493, 0x3C9EBE0A15C9BEBC, 0x431D67C49C100D4C,
    0x4CC5D4BECB3E42B6, 0x597F299CFC657E2A, 0x5FCB6FAB3AD6FAEC, 0x6C44198C4A475817]

/-- The first hash value of SHA-384, word 0 least significant. -/
def shaStart : Nat :=
  packElems 64 [0xCBBB9D5DC1059ED8, 0x629A292A367CD507, 0x9159015A3070DD17, 0x152FECD8F70E5939,
    0x67332667FFC00B31, 0x8EB44A8768581511, 0xDB0C2E0D64F98FA7, 0x47B5481DBEFA4FA4]

/-- A word of 64 bits turned right. -/
def turn64 (x n : Nat) : Nat := (x >>> n ||| x <<< (64 - n)) % 2 ^ 64

/-- One round: the eight working variables a to h as one number, with the round constant and the word of the schedule. -/
def shaRound (v k w : Nat) : Nat :=
  let a := bits v 0 64
  let b := bits v 64 64
  let c := bits v 128 64
  let d := bits v 192 64
  let e := bits v 256 64
  let f := bits v 320 64
  let g := bits v 384 64
  let h := bits v 448 64
  let t1 := h + (turn64 e 14 ^^^ turn64 e 18 ^^^ turn64 e 41) + ((e &&& f) ^^^ ((2 ^ 64 - 1 - e) &&& g)) + k + w
  let t2 := (turn64 a 28 ^^^ turn64 a 34 ^^^ turn64 a 39) + ((a &&& b) ^^^ (a &&& c) ^^^ (b &&& c))
  packElems 64 [t1 + t2, a, b, c, d + t1, e, f, g]

/-- The schedule's next 16 words, word 0 least significant: the oldest goes, and a new one comes. -/
def shaNext (w : Nat) : Nat :=
  let x := bits w 64 64
  let y := bits w 896 64
  let new := (turn64 y 19 ^^^ turn64 y 61 ^^^ (y >>> 6)) + bits w 576 64 + (turn64 x 1 ^^^ turn64 x 8 ^^^ (x >>> 7)) + bits w 0 64
  w / 2 ^ 64 + new % 2 ^ 64 * 2 ^ 960

/-- The rounds that the constants `ks` are left for. -/
def shaRounds (v w : Nat) : List Nat → Nat
  | [] => v
  | k :: ks => shaRounds (shaRound v k (bits w 0 64)) (shaNext w) ks

/-- A block of 16 words, the first most significant, added to the hash value. -/
def shaBlock (h block : Nat) : Nat :=
  let w := packElems 64 ((List.range 16).map fun i => bits block (64 * (15 - i)) 64)
  let v := shaRounds h w shaK
  packElems 64 ((List.range 8).map fun i => bits h (64 * i) 64 + bits v (64 * i) 64)

/-- SHA-384 of the `n` bytes of the blob `m`. -/
def sha384 (m n : Nat) : Nat :=
  let blocks := (n + 16) / 128 + 1
  let padded := (bigEndian m n * 256 + 0x80) * 256 ^ (128 * blocks - n - 1) + 8 * n
  let h := (List.range blocks).foldl (fun h i => shaBlock h (bits padded (1024 * (blocks - 1 - i)) 1024)) shaStart
  (List.range 6).foldl (fun a i => a * 2 ^ 64 + bits h (64 * i) 64) 0

/-! ### The curve P-384 -/

/-- The prime of its field. -/
def ecP : Nat := 2 ^ 384 - 2 ^ 128 - 2 ^ 96 + 2 ^ 32 - 1

/-- The coefficient b of y² = x³ − 3x + b. -/
def ecB : Nat := 0xB3312FA7E23EE7E4988E056BE3F82D19181D9C6EFE8141120314088F5013875AC656398D8A2ED19D2A85C8EDD3EC2AEF

/-- The order of its base point. -/
def ecN : Nat := 0xFFFFFFFFFFFFFFFFFFFFFFFFFFFFFFFFFFFFFFFFFFFFFFFFC7634D81F4372DDF581A0DB248B0A77AECEC196ACCC52973

/-- A point in Jacobian coordinates: x / z², y / z³; z = 0 at infinity. -/
structure Pt where
  x : Nat
  y : Nat
  z : Nat
  deriving DecidableEq, Repr

/-- The base point. -/
def ecG : Pt :=
  { x := 0xAA87CA22BE8B05378EB1C71EF320AD746E1D3B628BA79B9859F741E082542A385502F25DBF55296C3A545E3872760AB7
    y := 0x3617DE4A96262C6F5D9E98BF9292DC29F8F41DBD289A147CE9DA3113B5F0B8C00A60B1CE1D7E819D7A431D7C90EA0E5F, z := 1 }

/-- A difference in the field. -/
def ecSub (a b : Nat) : Nat := (a + (ecP - b % ecP)) % ecP

/-- A point doubled. -/
def Pt.double (p : Pt) : Pt :=
  if p.z = 0 then p
  else
    let d := p.z * p.z % ecP
    let g := p.y * p.y % ecP
    let b := p.x * g % ecP
    let a := 3 * (ecSub p.x d * (p.x + d)) % ecP
    let x := ecSub (a * a) (8 * b)
    { x := x, y := ecSub (a * ecSub (4 * b) x) (8 * g * g), z := 2 * p.y * p.z % ecP }

/-- The sum of two points. -/
def Pt.add (p q : Pt) : Pt :=
  if p.z = 0 then q
  else if q.z = 0 then p
  else
    let zp := p.z * p.z % ecP
    let zq := q.z * q.z % ecP
    let u := p.x * zq % ecP
    let s := p.y * (zq * q.z) % ecP
    let h := ecSub (q.x * zp) u
    let r := ecSub (q.y * (zp * p.z)) s
    if h = 0 then (if r = 0 then p.double else { x := 1, y := 1, z := 0 })
    else
      let hh := h * h % ecP
      let v := u * hh % ecP
      let x := ecSub (r * r) (hh * h + 2 * v)
      { x := x, y := ecSub (r * ecSub v x) (s * (hh * h)), z := h * p.z * q.z % ecP }

/-- `u` times the base point and `v` times `q`, by their lowest `k` bits: the sum so far is doubled for each bit from the highest down. -/
def ecSum (q : Pt) (u v : Nat) : Nat → Pt → Pt
  | 0, acc => acc
  | k + 1, acc =>
    let d := acc.double
    ecSum q u v k (if bit u k then (if bit v k then d.add (ecG.add q) else d.add ecG) else if bit v k then d.add q else d)

/-- `b` to the power of the lowest `k` bits of `e`, modulo the order of the base point. -/
def ecPow (b e : Nat) : Nat → Nat
  | 0 => 1
  | k + 1 => let h := ecPow b (e / 2) k; if e % 2 = 1 then h * h % ecN * b % ecN else h * h % ecN

/-- The public key of 96 bytes, X before Y, is a point of the curve. -/
def ecKeyOk (x y : Nat) : Bool :=
  decide (x < ecP) && decide (y < ecP) && decide (y * y % ecP = ecSub (x * x * x + ecB) (3 * x))

/-- The signature (`r`, `s`) of a message with hash `e` verifies under the public key `key` (FIPS 186-5). -/
def ecdsaOk (key e r s : Nat) : Bool :=
  let x := bigEndian (bits key 0 384) 48
  let y := bigEndian (bits key 384 384) 48
  let w := ecPow s (ecN - 2) 384
  let p := ecSum { x := x, y := y, z := 1 } (e * w % ecN) (r * w % ecN) 384 { x := 1, y := 1, z := 0 }
  let zz := p.z * p.z % ecP
  ecKeyOk x y && decide (1 ≤ r) && decide (r < ecN) && decide (1 ≤ s) && decide (s < ecN) && decide (p.z ≠ 0) &&
    (decide (p.x = r * zz % ecP) || (decide (r + ecN < ecP) && decide (p.x = (r + ecN) * zz % ecP)))

end Sys2Proof.Machine
end

