-- ==== Sys2Proof/Machine/Sha3.lean ====
section
/-! DEFINITION. SHA3-256 (FIPS 202), which DIGEST computes over its byte string (R422) and which fuses hold of the cartridge authority's key
(R497). The state is one number of 1,600 bits: bit z of lane (x, y) is its bit 64 (5 y + x) + z, and plane y its bits 320 y to 320 y + 319. -/

namespace Sys2Proof.Machine

/-- A number of `w` bits turned left by `n` places. -/
def turnLeft (w x n : Nat) : Nat := (x <<< n ||| x >>> (w - n)) % 2 ^ w

/-- The 320 bits of plane `y`. -/
def planeOf (a y : Nat) : Nat := bits a (320 * y) 320

/-- Step θ adds to each plane the parity of the columns to its left, and of those to its right turned by one. -/
def theta (a : Nat) : Nat :=
  let parity := (List.range 5).foldl (fun p y => p ^^^ planeOf a y) 0
  let turned := packElems 64 ((List.range 5).map fun x => turnLeft 64 (bits parity (64 * x) 64) 1)
  let d := turnLeft 320 parity 64 ^^^ turnLeft 320 turned 256
  a ^^^ packElems 320 (List.replicate 5 d)

/-- Steps ρ and π, along the walk from (x, y) to (y, 2x + 3y) that visits every lane but (0, 0): each lane is turned by the next
triangular number and moves to where the walk goes next. -/
def rhoPi (a : Nat) : Nat → Nat → Nat → Nat
  | 0, _, _ => bits a 0 64
  | n + 1, x, y =>
    let k := 24 - n
    let x' := y
    let y' := (2 * x + 3 * y) % 5
    turnLeft 64 (bits a (64 * (5 * y + x)) 64) (k * (k + 1) / 2 % 64) <<< (64 * (5 * y' + x')) ||| rhoPi a n x' y'

/-- Step χ: where the next lane of the plane has a 0, the lane after that one is added. -/
def chi (a : Nat) : Nat :=
  packElems 320 ((List.range 5).map fun y =>
    let p := planeOf a y
    p ^^^ ((2 ^ 320 - 1 - turnLeft 320 p 256) &&& turnLeft 320 p 192))

/-- The powers of X modulo X^8 + X^6 + X^5 + X^4 + 1, whose constant terms are the bits of step ι. -/
def iotaPower : Nat → Nat
  | 0 => 1
  | n + 1 => let r := 2 * iotaPower n; if r < 256 then r else r ^^^ 0x171

/-- Step ι of round `i`: bits 2^j − 1 of lane (0, 0), for j from 0 to 6. -/
def iota (i a : Nat) : Nat := (List.range 7).foldl (fun a j => a ^^^ (iotaPower ((j + 7 * i) % 255) % 2) <<< (2 ^ j - 1)) a

/-- The permutation of 24 rounds. -/
def keccak (a : Nat) : Nat := (List.range 24).foldl (fun a i => iota i (chi (rhoPi (theta a) 24 1 0))) a

/-- The sponge takes `n` blocks of 1,088 bits of the padded message `m`. -/
def sponge (a m : Nat) : Nat → Nat
  | 0 => a
  | n + 1 => sponge (keccak (a ^^^ m % 2 ^ 1088)) (m / 2 ^ 1088) n

/-- SHA3-256 of the `n` bytes of the blob `m`: 32 bytes, byte 0 least significant. The padding is 01, then 1 0* 1. -/
def sha3 (m n : Nat) : Nat :=
  let blocks := n / 136 + 1
  sponge 0 (m % 2 ^ (8 * n) + 6 * 2 ^ (8 * n) + 2 ^ (1088 * blocks - 1)) blocks % 2 ^ 256

end Sys2Proof.Machine
end

