-- ==== Sys2Proof/Machine/Cartridge.lean ====
section
/-! DEFINITION. The Cast cartridge (R496 to R502): attach, detach, wear, and the READ, WRITE and FORMAT commands. -/

namespace Sys2Proof.Machine

def State.modCrt (s : State) (f : Crt → Crt) : State := { s with crt := f s.crt }

/-! ### Attach (R496 to R498, R500) -/

/-- PERMILLE (R500), in its ten bits. -/
def wearPermille (gb : Nat) : Nat := min (gb * 1000 / 24000000) 0x3FF

/-- The cartridge reports what has been written to it: PERMILLE, CARTRIDGE_WEAR at 900 and at 1,000, and Read-only (R500). -/
def State.wear (s : State) (gb : Nat) : State :=
  let p := wearPermille gb
  let seen := s.crt.wearSeen
  let rec1 : FaultRec := { code := 0x0B0C, detail := p }
  let s1 := s.modCrt fun x =>
    { x with writtenGb := gb % 2 ^ 48, permille := p, wearSeen := if 1000 ≤ p then 2 else if 900 ≤ p then max seen 1 else seen
             st := if decide (1000 ≤ p) && decide (x.st = 3) then 4 else x.st }
  let s2 := if decide (900 ≤ p) && decide (seen < 1) then s1.raise rec1 else s1
  if decide (1000 ≤ p) && decide (seen < 2) then s2.raise rec1 else s2

/-- The attach ends Refused (R496). -/
def State.attachFailed (s : State) (reason : Nat) : State := (s.modCrt fun x => { x with st := 5 }).raise { code := 0x0B0B, detail := reason }

/-- Order 4: the format is negotiated and wear is evaluated. -/
def State.attached (s : State) (i : AttachIn) : State :=
  ((s.modCrt fun x =>
      { x with st := 3, format := if i.format = 1 || i.format = 2 then i.format else 0, medium := s.freeCtr, written := [], media := []
               marks := [], wearSeen := 0 }).drawn 1).wear i.writtenGb

/-- The signed bytes of the certificate: identity, capacity in blocks, rated GB written. DESIGN CHOICE (log entry 158) of the layout. -/
def certBytes (i : AttachIn) : Nat := i.certIdent % 2 ^ 128 + i.certBlocks % 2 ^ 32 * 2 ^ 128 + i.certRatedGb % 2 ^ 64 * 2 ^ 160

/-- The certificate binds the identity and the capacity that the cartridge reports and the rated 24 PB written, its key hashes to the
fused value, and its signature verifies (R497). -/
def State.certified (s : State) (i : AttachIn) : Bool :=
  decide (i.certIdent = i.ident) && decide (i.certBlocks = i.blocks) && decide (i.certRatedGb = 24000000) &&
    decide (sha3 i.sig.key 96 = s.pln.fuses.authority) && ecdsaOk i.sig.key (sha384 (certBytes i) 28) i.sig.r i.sig.s

/-- Orders 2 and 3: what the cartridge presents is read, and its certificate verified (R497). -/
def State.verifyCartridge (s : State) (i : AttachIn) : State :=
  if !i.identOk then s.attachFailed 3
  else
    let s1 := s.modCrt fun x =>
      { x with ident := i.ident % 2 ^ 128, blocks := i.blocks % 2 ^ 32, writtenGb := i.writtenGb % 2 ^ 48, mediaFormats := i.mediaFormats % 16 }
    if s.certified i then s1.attached i else s1.attachFailed 2

/-- The attach takes its next Order. -/
def State.attach (s : State) (i : AttachIn) : State :=
  if s.crt.st = 0 then s.modCrt fun x => { x with st := 1, since := s.now }
  else if s.crt.st = 1 then (if i.linkOk then s.modCrt fun x => { x with st := 2 } else s.attachFailed 1)
  else s.verifyCartridge i

/-- D19 is On, and the cartridge is neither attached nor refused yet. -/
def State.canAttach (s : State) : Bool := s.isOn 19 && decide (s.crt.st ≤ 2) && !s.pln.fatal

def execCartridgeAttach (info : AttachIn) (s : State) : Host.Outcome State Fault Refusal :=
  whenever (.cartridgeAttach info) s.canAttach s (s.attach info)

def State.attachLate (s : State) : Bool :=
  (decide (s.crt.st = 1) || decide (s.crt.st = 2)) && decide (ticksMs 5000 ≤ s.now - s.crt.since) && !s.pln.fatal

def execCartridgeAttachTimeout (s : State) : Host.Outcome State Fault Refusal :=
  whenever .cartridgeAttachTimeout s.attachLate s (s.attachFailed 1)

/-! ### Detach (R501) -/

/-- The registers of an absent cartridge; a command in progress ends with reason 6. -/
def Crt.gone (x : Crt) : Crt :=
  { x with st := 0, format := 0, mediaFormats := 0, ident := 0, writtenGb := 0, permille := 0, blocks := 0, wearSeen := 0
           written := [], media := [], marks := [], busy := none
           status := if x.busy.isSome then 4 else x.status, reason := if x.busy.isSome then 6 else x.reason
           done := if x.busy.isSome then 0 else x.done }

def State.detach (s : State) : State :=
  let s1 := s.modCrt Crt.gone
  ({ s1 with hbm := { s1.hbm with ops := s1.hbm.ops.filter fun o => !decide (o.kind = .crt) } } : State).raise
    { code := 0x0B0E, detail := b2n s.crt.busy.isSome }

def State.canDetach (s : State) : Bool := decide (s.crt.st ≠ 0)

def execCartridgeDetached (s : State) : Host.Outcome State Fault Refusal :=
  whenever .cartridgeDetached s.canDetach s s.detach

/-! ### Commands (R498, R499) -/

/-- Why a command is refused before it starts (R499, R502). A COUNT of 0 names no range of blocks, except for FORMAT. -/
def State.crtReason (s : State) (v : Nat) : Option Nat :=
  let op := bits v 24 4
  let n := bits v 0 24
  if !(decide (s.crt.st = 3) || (decide (s.crt.st = 4) && decide (op = 1))) then some 1
  else if (op = 1 || op = 2) && decide (s.crt.format = 0) then some 1
  else if s.crt.blocks < s.crt.cmdLba + n || (decide (n = 0) && decide (op ≠ 3)) then some 2
  else if s.crt.cmdAddr % 4096 ≠ 0 then some 3
  else if !s.usable (bits v 28 5) then some 4
  else if !(op = 1 || op = 2 || (op = 3 && (bits v 34 2 = 1 || bits v 34 2 = 2))) then some 5
  else none

/-- The slice test of the cluster's accesses (source 6 of R381); an address beyond the 2^24 virtual frames is unmapped. -/
def State.coreTest (s : State) (c va : Nat) (write snap : Bool) : Option (Nat × Nat) :=
  if 2 ^ 40 ≤ va then some (0x0301, 6 + b2n write * 2 ^ 4) else s.sliceTest c va 6 0 write snap false

/-- The lowest line of a run that a slice refuses, as a record (R353). -/
def State.coreRefused (s : State) (c va n : Nat) (write snap : Bool) : Option FaultRec :=
  (List.range n).findSome? fun j => (s.coreTest c (va + 64 * j) write snap).map fun x =>
    { code := x.1, ctxFatal := true, ctx := c, addr := va + 64 * j, detail := x.2 }

/-- The command starts; a WRITE reads its lines now, behind the tests of their slices. -/
def State.crtStart (s : State) (v : Nat) : State :=
  let k : CrtCmd := { op := bits v 24 4, addr := s.crt.cmdAddr, lba := s.crt.cmdLba, count := bits v 0 24, ctx := bits v 28 5
                      snap := bit v 33, version := bits v 34 2, data := [], landed := none }
  let go (s : State) (k : CrtCmd) : State := s.modCrt fun x => { x with status := 1, reason := 0, done := 0, busy := some k }
  if k.op = 2 then
    match s.coreRefused k.ctx k.addr (64 * k.count) false k.snap with
    | some r => (s.crtEnd 4 0 0).raise r
    | none =>
      match s.takeLines ((List.range (64 * k.count)).map fun j => s.physLine k.ctx (k.addr + 64 * j) k.snap) with
      | (s1, ls) => go s1 { k with data := ls }
  else go s k

/-- A write of CRT_CMD: GO submits, unless BUSY reads 1. -/
def State.crtWrite (s : State) (v : Nat) : State :=
  let s1 := s.modCrt fun x => { x with cmd := v % 2 ^ 36 }
  if bit v 63 && s.crt.busy.isNone && !s.pln.fatal then
    match s1.crtReason v with
    | some r => s1.crtEnd 3 r 0
    | none => s1.crtStart v
  else s1

/-- The value submits a command of this OP. -/
def State.canCrt (s : State) (v op : Nat) : Bool := s.isOn 19 && decide (bits v 24 4 = op) && bit v 63 && s.crt.busy.isNone && !s.pln.fatal

def execCrtRead (value : Nat) (s : State) : Host.Outcome State Fault Refusal :=
  whenever (.crtRead value) (s.canCrt value 1) s ((s.access 2 0xD00038).crtWrite value)

def execCrtWrite (value : Nat) (s : State) : Host.Outcome State Fault Refusal :=
  whenever (.crtWrite value) (s.canCrt value 2) s ((s.access 2 0xD00038).crtWrite value)

def execCrtFormat (value : Nat) (s : State) : Host.Outcome State Fault Refusal :=
  whenever (.crtFormat value) (s.canCrt value 3) s ((s.access 2 0xD00038).crtWrite value)

/-! ### CARTRIDGE_COMMAND_COMPLETE (R499) -/

/-- One line of the medium with its mark: what this device wrote, or an open value. -/
def Crt.line (x : Crt) (l : Nat) : Nat × Bool :=
  if mget false x.written (l / 64) then (memRead x.media (64 * l) 64, mget false x.marks l)
  else (fromBytes ((List.range 64).map fun i => Config.mediaByte x.medium (64 * l + i)), false)

/-- Lines stored on the medium from line `l` on. -/
def Crt.store (x : Crt) (l : Nat) : List (Nat × Bool) → Crt
  | [] => x
  | (v, p) :: rest =>
    ({ x with written := mset false x.written (l / 64) true, media := memWrite x.media (64 * l) 64 v
              marks := mset false x.marks l p } : Crt).store (l + 1) rest

/-- The first block of the command that the media failed. -/
def CrtCmd.firstBad (k : CrtCmd) (failing : List Nat) : Option Nat := firstBelow k.count fun i => failing.contains (k.lba + i)

/-- CARTRIDGE_IO_ERROR (R507). -/
def CrtCmd.ioError (k : CrtCmd) (i : Nat) : FaultRec :=
  { code := 0x0B0D, ctx := if k.ctx ≤ 16 then k.ctx else 0xFFFF, detail := (k.lba + i) % 2 ^ 32 }

/-- The data of a READ goes to HBM through the slices; blocks that the media cannot return are poison. -/
def State.crtLand (s : State) (k : CrtCmd) (failing : List Nat) : State :=
  let bad := (List.range k.count).filter fun i => failing.contains (k.lba + i)
  let ls := (List.range (64 * k.count)).map fun j => if bad.contains (j / 64) then (0, true) else s.crt.line (64 * k.lba + j)
  let done := (if bad.isEmpty then 2 else 5, k.count - bad.length)
  let s1 := match bad with | i :: _ => s.raise (k.ioError i) | [] => s
  if 16 < k.ctx || decide (2 ^ 40 < k.addr + 4096 * k.count) then
    match s1.coreRefused k.ctx k.addr (64 * k.count) true false with
    | some r => if k.ctx ≤ 16 then (s1.crtEnd 4 0 0).raise r else s1.crtEnd 4 0 0
    | none => s1.crtEnd 4 0 0
  else
    (s1.modCrt fun x => { x with busy := some { k with landed := some done } }).issueMem .crt .plinth k.ctx k.addr true false ls

/-- The media has answered: `failing` names the blocks that it could not return or store, `gb` the bytes written so far. -/
def State.crtDone (s : State) (failing : List Nat) (gb : Nat) : State :=
  match s.crt.busy with
  | none => s
  | some k =>
    if k.op = 1 then s.crtLand k failing
    else if k.op = 2 then
      match k.firstBad failing with
      | some i => (((s.modCrt fun x => x.store (64 * k.lba) (k.data.take (64 * i))).crtEnd 4 0 i).raise (k.ioError i)).wear gb
      | none => ((s.modCrt fun x => x.store (64 * k.lba) k.data).crtEnd 2 0 k.count).wear gb
    else
      match failing with
      | i :: _ => ((s.crtEnd 4 0 0).raise { k.ioError 0 with detail := i % 2 ^ 32 }).wear gb
      | [] =>
        let dir := if k.version = 1 then 1 else 16
        (((s.modCrt fun x =>
            ({ x with format := k.version, medium := s.freeCtr, written := [], media := [], marks := [] } : Crt).store 0
              (List.replicate (64 * dir) (0, false))).drawn 1).crtEnd 2 0 dir).wear gb

def State.canCrtDone (s : State) : Bool :=
  match s.crt.busy with
  | some k => k.landed.isNone && !s.pln.fatal
  | none => false

def execCartridgeCommandComplete (failing : List Nat) (gb : Nat) (s : State) : Host.Outcome State Fault Refusal :=
  whenever (.cartridgeCommandComplete failing gb) s.canCrtDone s (s.crtDone failing gb)

end Sys2Proof.Machine
end

