-- ==== Sys2Proof/Machine/Link.lean ====
section
/-! DEFINITION. Verjo ports (R382 to R398, R410, R416 to R420): flits, port states, management messages, bindings, packets from
a peer and their answers, and partner windows. -/

namespace Sys2Proof.Machine

/-! ### Flits (R384 to R386) -/

def flitSeq (f : Nat) : Nat := bits f 0 16
def flitAck (f : Nat) : Nat := bits f 16 16
def flitRetry (f : Nat) : Bool := bit f 32
def flitIdle (f : Nat) : Bool := bit f 33
def flitTag (f i : Nat) : Nat := bits f (64 + 32 * i) 32
def flitSlot (f i : Nat) : Nat := bits f (192 + 512 * i) 512
def flitCrcOk (f : Nat) : Bool := decide (bits f 2240 64 = crc64 f 280)

/-- The packet whose head and payload slots are given (R385). -/
def packetOf (cls h : Nat) (payload : List (Nat × Bool)) : LPkt :=
  { kind := byteOf h 0, iss := byteOf h 1, dst := byteOf h 2, info := byteOf h 3, lines := bits h 32 32, addr := bits h 64 64
    token := bits h 128 64, age := bits h 192 20, tag := bits h 224 32, body := bits h 256 256, payload := payload, cls := cls }

/-- One slot of an accepted flit: it opens a packet, continues the one of its class, or carries nothing. -/
def Port.slot (p : Port) (tag v : Nat) : Port :=
  let cls := bits tag 0 2
  let old := mget [] p.partials cls
  if !bit tag 2 && old.isEmpty then p
  else
    let xs := (if bit tag 2 then [] else old) ++ [(v, bit tag 4)]
    if bit tag 3 then
      match xs with
      | (h, _) :: rest =>
        let k := packetOf cls h rest
        { p with partials := mset [] p.partials cls [], rx := if 8 ≤ k.kind then p.rx else p.rx ++ [k] }
      | [] => p
    else { p with partials := mset [] p.partials cls xs }

/-- The flits that the peer has not acknowledged with `ack` (R384, R386). -/
def unacked (ack : Nat) (l : List SentFlit) : List SentFlit :=
  l.dropWhile fun x => let d := (ack + 65536 - x.seq) % 65536; decide (0 < d) && decide (d ≤ 4096)

/-- The credit returns of a flit: 6 bits for each link class (R384). -/
def flitCredits (f c : Nat) : Nat := bits f (40 + 6 * c) 6

/-- An accepted flit: acknowledged flits leave the replay buffer, and credits return. -/
def Port.takeFlit (p : Port) (f : Nat) : Port :=
  let p1 := { p with expected := (p.expected + 1) % 65536, retrying := false, ackedSeq := flitAck f, sent := unacked (flitAck f) p.sent
                     returned := [0, 1, 2, 3].foldl (fun m c => mset 0 m c (mget 0 m c + flitCredits f c)) p.returned
                     retries := if flitRetry f then satAdd p.retries 1 0xFFFFFFFF else p.retries }
  if flitIdle f then p1 else (List.range 4).foldl (fun p i => p.slot (flitTag f i) (flitSlot f i)) p1

/-- The receiver accepts the flit (R386). -/
def Port.accepts (p : Port) (f : Nat) (uncorrectable : Bool) : Bool :=
  decide (flitSeq f = p.expected) && flitCrcOk f && !uncorrectable

/-- Flits flow on the port (R389). -/
def Port.flows (p : Port) : Bool := decide (p.st = .negotiating) || decide (p.st = .up)

/-! #### Codewords (R383, R426) -/

/-- The codewords that the `n`-th flit overlaps: a codeword carries 514 symbols of 10 bits, and flits follow one another without gaps. -/
def firstWord (n : Nat) : Nat := 2304 * n / 5140
def lastWord (n : Nat) : Nat := (2304 * n + 2303) / 5140

/-- The count of uncorrectable codewords at a flit that one overlaps: a codeword that an earlier flit has shown is not counted again;
where the flit before was good, only the flit's last codeword can be the bad one. -/
def Port.countBad (p : Port) : Port :=
  if firstWord p.flits < p.badWord then p
  else { p with fecUncorrectable := satAdd p.fecUncorrectable 1 0xFFFFFFFF, badWord := lastWord p.flits + 1 }

/-- What the FEC counts at a flit. Whether the codewords that begin in it needed correction is a free value `fixed` (the command has no
operand for it), but for one that the flit itself shows to be uncorrectable; behind a bad codeword that an earlier flit has shown, the next
one can be a corrected one. -/
def Port.countFec (p : Port) (uncorrectable : Bool) (fixed : Nat) : Port :=
  let p1 := if uncorrectable then p.countBad else p
  let begins := lastWord p.flits - (if p.flits = 0 then 0 else lastWord (p.flits - 1)) + b2n (decide (p.flits = 0))
  let bad := uncorrectable && decide (p.badWord ≤ firstWord p.flits)
  { p1 with fecCorrected := satAdd p1.fecCorrected (if bad then 0 else fixed % (begins + 1)) 0xFFFFFFFF, flits := p.flits + 1 }

/-! #### Sending (R384 to R387) -/

/-- The head slot of a packet (R385). -/
def LPkt.headSlot (p : LPkt) : Nat :=
  p.kind % 2 ^ 8 + p.iss % 2 ^ 8 * 2 ^ 8 + p.dst % 2 ^ 8 * 2 ^ 16 + p.info % 2 ^ 8 * 2 ^ 24 + p.lines % 2 ^ 32 * 2 ^ 32 +
    p.addr % 2 ^ 64 * 2 ^ 64 + p.token % 2 ^ 64 * 2 ^ 128 + p.age % 2 ^ 20 * 2 ^ 192 + p.tag % 2 ^ 32 * 2 ^ 224 + p.body % 2 ^ 256 * 2 ^ 256

/-- The slots of a packet with their tags: the head, then one for each line (R384, R385). -/
def LPkt.slots (p : LPkt) : List (Nat × Nat) :=
  let n := p.payload.length
  (p.cls + 4 + 8 * b2n (decide (n = 0)), p.headSlot) ::
    ((List.range n).zip p.payload).map fun x => (p.cls + 8 * b2n (decide (x.1 + 1 = n)) + 16 * b2n x.2.2, x.2.1)

/-- A credit of a class is left; it is looked at only where a slot waits. -/
def Port.credit (p : Port) (c : Nat) : Bool := decide (mget 0 p.spent c < Config.linkCredits c + mget 0 p.returned c)

/-- The packet may leave: a partner-window write not yet in a flit is held while the port is suspended (R417). -/
def Port.mayLeave (p : Port) (x : TxPkt) : Bool := !(p.suspended && decide (x.pkt.kind = 7))

/-- The first packet of a class that no flit has taken. -/
def Port.firstTx (p : Port) (c : Nat) : Option TxPkt := p.tx.find? fun x => decide (x.pkt.cls = c) && p.mayLeave x

/-- The oldest packet of a list by AGE, the first of equals. -/
def State.oldest (s : State) : List TxPkt → Option TxPkt
  | [] => none
  | x :: xs => match s.oldest xs with
    | some y => some (if s.ageOf x.stamp < s.ageOf y.stamp then y else x)
    | none => some x

/-- The packet of a class that leaves next: in VC1 and VC2 on Verjo 2.0 the oldest by AGE, the one handed over first otherwise (R387). -/
def State.nextTx (s : State) (p : Port) (c : Nat) : Option TxPkt :=
  if p.version = 2 && (c = 1 || c = 2) then s.oldest (p.tx.filter fun x => decide (x.pkt.cls = c) && p.mayLeave x) else p.firstTx c

/-- A slot of the class waits and may be sent. -/
def Port.ready (p : Port) (c : Nat) : Bool := (!(mget [] p.begun c).isEmpty || (p.firstTx c).isSome) && p.credit c

/-- VC1 or VC2: a packet begun goes on; then the older one by AGE on Verjo 2.0, and the one handed over first otherwise (R387). -/
def State.routedClass (s : State) (p : Port) : Option Nat :=
  if p.ready 1 && p.ready 2 then
    match s.nextTx p 1, s.nextTx p 2 with
    | some x, some y =>
      let second := if p.version = 2 then decide (s.ageOf x.stamp < s.ageOf y.stamp)
        else decide ((p.tx.find? fun z => (decide (z.pkt.cls = 1) || decide (z.pkt.cls = 2)) && p.mayLeave z) = some y)
      some (if (mget [] p.begun 1).isEmpty && (second || !(mget [] p.begun 2).isEmpty) then 2 else 1)
    | none, some _ => some 1
    | _, none => some (if (mget [] p.begun 1).isEmpty then 2 else 1)
  else if p.ready 1 then some 1
  else if p.ready 2 then some 2
  else none

/-- The class that takes slot `j` of a flit: the collective class before the others in slots 0 to 2, VC3 before the others in slot 3, and
no slot stays empty while a class can fill it (R387; the places are a DESIGN CHOICE, log entry 147). -/
def State.slotClass (s : State) (p : Port) (j : Nat) : Option Nat :=
  let coll : Option Nat := if p.ready 0 then some 0 else none
  let vc3 : Option Nat := if p.ready 3 then some 3 else none
  if j < 3 then coll <|> s.routedClass p <|> vc3 else vc3 <|> s.routedClass p <|> coll

/-- The next slot of a class leaves; AGE is written as the packet's head leaves (R392). -/
def State.popSlot (s : State) (p : Port) (c : Nat) : Port × Nat × Nat :=
  let q := { p with spent := mset 0 p.spent c (mget 0 p.spent c + 1) }
  match mget [] p.begun c with
  | x :: rest => ({ q with begun := mset [] p.begun c rest }, x)
  | [] =>
    match s.nextTx p c with
    | none => (p, 0, 0)
    | some x =>
      match { x.pkt with age := if p.version = 2 then s.ageOf x.stamp else 0 }.slots with
      | y :: rest => ({ q with tx := p.tx.erase x, begun := mset [] p.begun c rest }, y)
      | [] => (p, 0, 0)

/-- The tag of an empty slot: a class of which no packet is part of the way out, so that the slot continues none. DESIGN CHOICE (log entry
147): R384 has no mark for an empty slot. -/
def Port.emptyTag (p : Port) : Nat := (firstBelow 4 fun c => (mget [] p.begun c).isEmpty).getD 0

/-- Slots `j` to 3 of a flit: the port that has sent them, and their tags and contents. -/
def State.fillSlots (s : State) (p : Port) : Nat → Nat → Port × List (Nat × Nat)
  | 0, _ => (p, [])
  | n + 1, j =>
    match s.slotClass p j with
    | some c => (match s.popSlot p c with
      | (q, x) => match s.fillSlots q n (j + 1) with | (q', xs) => (q', x :: xs))
    | none => match s.fillSlots p n (j + 1) with | (q', xs) => (q', (p.emptyTag, 0) :: xs)

/-- The bytes of a flit (R384). -/
def flitOf (seq ack : Nat) (retry idle : Bool) (credits : Nat → Nat) (xs : List (Nat × Nat)) : Nat :=
  let v := seq % 2 ^ 16 + ack % 2 ^ 16 * 2 ^ 16 + b2n retry * 2 ^ 32 + b2n idle * 2 ^ 33 + packElems 6 ((List.range 4).map credits) * 2 ^ 40
    + packElems 32 (xs.map fun x => x.1) * 2 ^ 64 + packElems 512 (xs.map fun x => x.2) * 2 ^ 192
  v + crc64 v 280 * 2 ^ 2240

/-- Credits returned in one flit: what is owed, at most 63. -/
def Port.give (p : Port) (c : Nat) : Nat := min (mget 0 p.owed c) 63

/-- A flit of the replay buffer sent once more with RETRY_REQ and the present ACK. -/
def againWith (f ack : Nat) : Nat :=
  let v := setBits (setBits (f % 2 ^ 2240) 16 16 (ack % 2 ^ 16)) 32 1 1
  v + crc64 v 280 * 2 ^ 2240

/-- With a full replay buffer no new flit leaves; a request for a replay then leaves in the oldest flit that the buffer holds (R386;
DESIGN CHOICE, log entry 147). -/
def State.sendAgain (s : State) (k : Nat) (retry : Bool) : State :=
  match (s.port k).sent with
  | x :: _ => if retry then s.out (.flit k (againWith x.flit (s.port k).expected)) else s
  | [] => s

/-- The partner-window writes that have left port `k` in a flit since `p` are sent now (R418). -/
def State.noteSent (s : State) (k : Nat) (p : Port) : State :=
  let sent (t : Nat) : Bool := p.tx.any (fun x => decide (x.pkt.kind = 7) && decide (x.pkt.token = t)) &&
    !(s.port k).tx.any fun x => decide (x.pkt.kind = 7) && decide (x.pkt.token = t)
  let ws := s.lnk.waiting.map fun w => if w.port = k && sent w.token then { w with since := s.now } else w
  { s with lnk := { s.lnk with waiting := ws } }

/-- SUSPENDED leaves once no packet of VC1 is part of the way out, so behind the last partner-window write in a flit (R417). -/
def State.sendSuspended (s : State) (k : Nat) : State :=
  match (s.port k).suspendDue with
  | some w => if (mget [] (s.port k).begun 1).isEmpty then (s.modPort k fun p => { p with suspendDue := none }).mgmt k 6 [w] else s
  | none => s

/-- A flit with the slots that the classes fill leaves (R384, R387). -/
def State.newFlit (s : State) (k : Nat) (retry : Bool) : State :=
  let p := s.port k
  match s.fillSlots p 4 0 with
  | (q, xs) =>
    let f := flitOf p.seq p.expected retry (decide (q.spent = p.spent)) p.give xs
    (s.setPort k { q with
      seq := (p.seq + 1) % 65536, sent := p.sent ++ [{ seq := p.seq, flit := f, times := 0 }]
      owed := [0, 1, 2, 3].foldl (fun m c => mset 0 m c (mget 0 m c - p.give c)) p.owed }).out (.flit k f)

/-- A flit leaves, unless the replay buffer is full (R386). DESIGN CHOICE (log entry 147): one for each flit that arrives. -/
def State.sendFlit (s : State) (k : Nat) (retry : Bool) : State :=
  if 4096 ≤ (s.port k).sent.length then s.sendAgain k retry
  else ((s.newFlit k retry).noteSent k (s.port k)).sendSuspended k

/-- The peer has asked for a replay: every flit that it has not accepted leaves again, in order (R386). -/
def State.replay (s : State) (k : Nat) : State :=
  let p := s.port k
  p.sent.foldl (fun s x => s.out (.flit k x.flit)) (s.setPort k { p with sent := p.sent.map fun x => { x with times := x.times + 1 } })

/-- A flit arrives: it is accepted, or it is discarded and a replay is asked for. Until the expected flit comes good, the good flits behind
it ask for nothing more, and every damaged one, which may be the expected one, asks again (R386). -/
def State.receiveFlit (s : State) (k f : Nat) (uncorrectable : Bool) : State :=
  let p := { (s.port k).countFec uncorrectable s.freeValue with lastFlit := s.now }
  let s1 := s.drawn 1
  if p.accepts f uncorrectable then
    let s2 := s1.setPort k (p.takeFlit f)
    (if flitRetry f then s2.replay k else s2).sendFlit k false
  else (s1.setPort k { p with retrying := true }).sendFlit k (!p.retrying || uncorrectable || !flitCrcOk f)

def execFlitReceive (port flit : Nat) (uncorrectable : Bool) (s : State) : Host.Outcome State Fault Refusal :=
  whenever (.flitReceive port flit uncorrectable) ((s.port port).flows && !s.pln.fatal) s (s.receiveFlit port flit uncorrectable)

/-! ### Port states (R387, R389, R391) -/

/-- LINK_DOWN (R387, R427). -/
def linkDown (c k cause : Nat) : FaultRec :=
  { code := 0x0701, ctxFatal := decide (c < 16), ctx := c, detail := k + cause * 2 ^ 4 }

/-- The contexts bound on a port, by the port that its traffic names. -/
def State.boundOn (s : State) (k : Nat) : List Nat := below 16 fun c => s.bound c (s.lnk.named k)

/-- A port leaves its state for Down, and what it held of packets and flits is gone (R387). -/
def Port.down (p : Port) : Port :=
  { p with st := .down, downEvents := if p.st = .up then satAdd p.downEvents 1 0xFFFF else p.downEvents, version := 0, suspended := false
           suspendDue := none, expected := 0, ackedSeq := 0, retrying := false, seq := 0, sent := [], tx := [], begun := [], spent := [], returned := [], owed := []
           flits := 0, badWord := 0, abilitySent := false, partials := [], rx := [] }

/-- A port goes Down: one record for each context bound on it, or one without a context (R387). -/
def State.portDown (s : State) (k cause : Nat) : State :=
  let cs := s.boundOn k
  let s1 := s.modPort k Port.down
  let s2 := { s1 with lnk := { s1.lnk with bindMsgs := s1.lnk.bindMsgs.filter fun b => !decide (b.port = s.lnk.named k) } }
  s2.raiseAll (if cs.isEmpty then [linkDown 0xFFFF k cause] else cs.map fun c => linkDown c k cause)

/-- A port is not Down. -/
def State.portLives (s : State) (k : Nat) : Bool := decide ((s.port k).st ≠ .down) && !s.pln.fatal

/-- A Down port with ENABLE set and signal present trains (R389). -/
def State.train (s : State) (k : Nat) : State :=
  if (s.port k).enable && (s.port k).signal && decide ((s.port k).st = .down) then
    s.modPort k fun p => { p with st := .training, since := s.now }
  else s

/-- A flit has been replayed eight times without being accepted: Down, and the port retrains on its own (R387). -/
def execReplayLimit (port : Nat) (s : State) : Host.Outcome State Fault Refusal :=
  whenever (.replayLimit port) ((s.port port).flows && ((s.port port).sent.any fun x => decide (8 ≤ x.times)) && !s.pln.fatal) s
    ((s.portDown port 1).train port)

/-- A lane has lost lock for 1 ms: the signal is not there. -/
def execLaneLockLoss (port : Nat) (s : State) : Host.Outcome State Fault Refusal :=
  whenever (.laneLockLoss port) ((s.port port).flows && !s.pln.fatal) s
    ((s.portDown port 2).modPort port fun p => { p with signal := false })

/-- No flit has arrived for 1 ms. -/
def execLinkSilence (port : Nat) (s : State) : Host.Outcome State Fault Refusal :=
  whenever (.linkSilence port) ((s.port port).flows && decide ((s.port port).lastFlit + ticksMs 1 ≤ s.now) && !s.pln.fatal) s
    ((s.portDown port 3).modPort port fun p => { p with signal := false })

/-- ENABLE is cleared: the port goes Down (R389). -/
def State.portDisable (s : State) (k : Nat) : State :=
  (if s.portLives k then s.portDown k 4 else s).modPort k fun p => { p with enable := false }

def execPortDisable (port : Nat) (s : State) : Host.Outcome State Fault Refusal :=
  whenever (.portDisable port) (!s.pln.fatal && s.isOn 3) s ((s.access 1 (0x701000 + 0x1000 * port)).portDisable port)

/-- ENABLE is set: a port with a signal trains. -/
def State.portEnable (s : State) (k : Nat) : State := (s.modPort k fun p => { p with enable := true }).train k

def execPortEnable (port : Nat) (s : State) : Host.Outcome State Fault Refusal :=
  whenever (.portEnable port) (!s.pln.fatal && s.isOn 3) s ((s.access 1 (0x701000 + 0x1000 * port)).portEnable port)

/-- RETRAIN: Error is left, or Up goes Down; the port then trains (R389, R426). The spec gives LINK_DOWN no cause code for it: the
code is a free value. -/
def State.retrain (s : State) (k : Nat) : State :=
  match (s.port k).st with
  | .error => (s.modPort k Port.down).train k
  | .up => ((s.drawn 1).portDown k (s.freeValue % 8)).train k
  | _ => s

def execRetrain (port : Nat) (s : State) : Host.Outcome State Fault Refusal :=
  whenever (.retrain port) (!s.pln.fatal && s.isOn 3) s ((s.access 1 (0x701000 + 0x1000 * port)).retrain port)

def execLinkSignalDetect (port : Nat) (s : State) : Host.Outcome State Fault Refusal :=
  whenever (.linkSignalDetect port) (!s.pln.fatal && s.isOn 3) s ((s.modPort port fun p => { p with signal := true }).train port)

/-- The body of ABILITY (R390). -/
def State.abilityBody (s : State) (k : Nat) : List Nat :=
  [7, s.pln.fuses.verjoFloor, s.pln.fuses.moduleId, k, s.lnk.coord, bits s.lnk.wcfg 0 2]

/-- Lane lock, equalisation and FEC lock are complete: Negotiating, and ABILITY leaves. A channel that exceeds its insertion loss
fails the training, which starts again (R389, R390, R607). -/
def State.trained (s : State) (k : Nat) (channelOk : Bool) : State :=
  if channelOk then
    (s.modPort k fun p => { p with st := .negotiating, abilitySent := true, expected := 0, lastFlit := s.now }).out (.linkCtl k 1 (s.abilityBody k))
  else (s.modPort k Port.down).train k

def execTrainingComplete (port : Nat) (channelOk : Bool) (s : State) : Host.Outcome State Fault Refusal :=
  whenever (.trainingComplete port channelOk)
    (decide ((s.port port).st = .training) && decide (s.now ≤ (s.port port).since + ticksMs 250) && !s.pln.fatal) s (s.trained port channelOk)

/-- 250 ms have passed in Training: Down, and training starts again (R389). -/
def execTrainingTimeout (port : Nat) (s : State) : Host.Outcome State Fault Refusal :=
  whenever (.trainingTimeout port)
    (decide ((s.port port).st = .training) && decide ((s.port port).since + ticksMs 250 ≤ s.now) && !s.pln.fatal) s
    ((s.modPort port Port.down).train port)

/-- The port that a port must face (R391, R410). -/
def pairOf (k : Nat) : Nat := match k with | 0 => 1 | 1 => 0 | 2 => 3 | 3 => 2 | 4 => 5 | 5 => 4 | _ => 6

/-- The highest version of a bitmap: 0, 1 or 2. -/
def topVersion (b : Nat) : Nat := if bit b 2 then 2 else if bit b 1 then 1 else 0

/-- Why a negotiation fails (R391, R426). -/
def negotiation (k floor versions peerPort : Nat) : Option Nat :=
  if versions % 8 = 0 then some 1
  else if topVersion versions < floor then some 2
  else if peerPort ≠ pairOf k then some 3
  else none

/-- The peer's ABILITY: Up at the highest common version, or Error with VERSION_UNUSABLE. -/
def State.ability (s : State) (k versions peerPort peerId : Nat) : State :=
  let p := { s.port k with peerPort := peerPort % 8, peerId := peerId }
  match negotiation k s.pln.fuses.verjoFloor versions peerPort with
  | none => s.setPort k { p with st := .up, version := topVersion versions, error := 0 }
  | some r =>
    (s.setPort k { p with st := .error, error := r }).raise
      { code := 0x0702, detail := k + versions % 8 * 2 ^ 4 + s.pln.fuses.verjoFloor % 4 * 2 ^ 8 + r * 2 ^ 12 }

def execAbility (port versions floor role peerPort peerId : Nat) (s : State) : Host.Outcome State Fault Refusal :=
  whenever (.ability port versions floor role peerPort peerId) (decide ((s.port port).st = .negotiating) && !s.pln.fatal) s
    (s.ability port versions peerPort peerId)

/-! ### Bindings (R394, R395) -/

def State.isUp (s : State) (k : Nat) : Bool := decide ((s.port k).st = .up) && !s.pln.fatal

/-- A PENDING entry whose BIND has come is ACTIVE: the messages of both sides name each other with the same job tag, and the
peer is the module that the job names. -/
def State.tryBind (s : State) (k c : Nat) : State :=
  let b := s.binding k c
  if b.st = 1 && decide ((s.port (s.lnk.wire k)).peerId = b.peerId) && s.lnk.bindMsgs.any (fun m => decide (m.port = k) && decide (m.ctx = c) &&
      decide (m.peerCtx = b.peerCtx) && decide (m.tag = b.tag) && decide (m.expected = s.pln.fuses.moduleId)) then
    s.setBinding k c { b with st := 2 }
  else s

/-- BIND of the peer. -/
def State.bindArrives (s : State) (port c peerCtx tag expected : Nat) : State :=
  let k := s.lnk.named port
  let m : BindMsg := { port := k, ctx := c, peerCtx := peerCtx, tag := tag, expected := expected }
  ({ s with lnk := { s.lnk with bindMsgs := s.lnk.bindMsgs ++ [m] } }).tryBind k c

def execBind (port ctx peerCtx tag peerId : Nat) (s : State) : Host.Outcome State Fault Refusal :=
  whenever (.bind port ctx peerCtx tag peerId) (s.isUp port) s (s.bindArrives port ctx peerCtx tag peerId)

/-- The local context of a port whose entry names a peer context and job tag, in one of the states of `p`. -/
def State.bindingCtx (s : State) (k peerCtx tag : Nat) (p : Nat → Bool) : Option Nat :=
  firstBelow 16 fun c => p (s.binding k c).st && decide ((s.binding k c).peerCtx = peerCtx) && decide ((s.binding k c).tag = tag)

/-- UNBIND of the peer: the entry is CLOSED; with cause FAULT the bound context ends (R395). -/
def State.unbindArrives (s : State) (port peerCtx tag cause : Nat) : State :=
  let k := s.lnk.named port
  let s1 := { s with lnk := { s.lnk with bindMsgs := s.lnk.bindMsgs.filter fun m =>
    !(decide (m.port = k) && decide (m.peerCtx = peerCtx) && decide (m.tag = tag)) } }
  match s.bindingCtx k peerCtx tag (fun st => decide (st = 1) || decide (st = 2)) with
  | none => s1
  | some c =>
    let s2 := s1.setBinding k c { s.binding k c with st := 3 }
    if cause = 2 && s.live c then s2.raise { code := 0x0706, ctxFatal := true, ctx := c, detail := port } else s2

def execUnbind (port peerCtx tag cause : Nat) (s : State) : Host.Outcome State Fault Refusal :=
  whenever (.unbind port peerCtx tag cause) (s.isUp port) s (s.unbindArrives port peerCtx tag cause)

/-- A declaration of a Y peer, kept for the admission that compares it (R415). -/
def execReserve (port tag d4 d5 : Nat) (s : State) : Host.Outcome State Fault Refusal :=
  whenever (.reserve port tag d4 d5) (s.isUp port) s
    { s with lnk := { s.lnk with reserves := s.lnk.reserves ++ [{ port := port, tag := tag, d4 := d4, d5 := d5 }] } }

/-- BIND_TIMEOUT (R394). -/
def State.bindLate (s : State) (k c : Nat) : Bool :=
  decide ((s.binding k c).st = 1) && decide ((s.binding k c).since + ticksMs 30000 ≤ s.now) && decide ((s.ctx c).st = .loading) && !s.pln.fatal

def execBindTimeout (port ctx : Nat) (s : State) : Host.Outcome State Fault Refusal :=
  whenever (.bindTimeout port ctx) (s.bindLate port ctx) s (s.raise { code := 0x0703, ctxFatal := true, ctx := ctx, detail := port })

/-! ### Partner windows (R372, R375, R417, R418) -/

/-- The answer to a refused packet (R398), with the packet's stamp (R315, R392). -/
def State.nak (s : State) (k : Nat) (x : LPkt) (reason : Nat) : State :=
  s.reply (s.lnk.named k) (s.stampIn k x.age) x 6 reason 0 []

/-- A port that writes a partner window (R417). -/
def State.pwinPort (s : State) (k : Nat) : Bool := s.isUp k && decide (k < 2)

/-- SUSPEND or RESUME on a port whose version has neither is refused (R391, R393). The token that the NAK returns is the packet's own,
which the command does not give: a free value. -/
def State.mgmtMasked (s : State) (k : Nat) : State := (s.drawn 1).nak k (headOf 9 0x10 0 0 0 0 (s.freeValue % 2 ^ 64) 0 3) 6

/-- The command of a management message of 1.1. -/
def State.since11 (s : State) (k : Nat) (t : State) : State := if (s.port k).version = 0 then s.mgmtMasked k else t

/-- SUSPEND: writes not yet in a flit are held from now on, and SUSPENDED leaves behind the last one that is (R417). -/
def State.suspend (s : State) (k w : Nat) : State :=
  (s.modPort k fun p => { p with suspended := true, suspendDue := some w }).sendSuspended k

def execSuspend (port window : Nat) (s : State) : Host.Outcome State Fault Refusal :=
  whenever (.suspend port window) (s.pwinPort port) s (s.since11 port (s.suspend port window))

/-- The confirmation of Order 4 of R374, from the peer of window `window`, for every domain in which the window has frames. -/
def State.confirm (s : State) (w : Nat) : State :=
  [0, 1].foldl (fun s h =>
    if (s.pwinsIn h).contains w then s.setHdom h { s.hdom h with confirmed := (s.hdom h).confirmed ++ [w] } else s) s

/-- SUSPENDED of the window's own peer, behind port `window` (R372, R374): it leaves the peer behind its last write, so the writes that
arrived before it are taken first (R418). -/
def execSuspended (port window : Nat) (s : State) : Host.Outcome State Fault Refusal :=
  whenever (.suspended port window)
    (s.isUp port && decide (port = window) && decide ((s.pwin window).frames ≠ 0) && !(s.port port).rx.any fun x => decide (x.kind = 7)) s
    (s.confirm window)

/-- RESUME: the held writes are sent (R417). -/
def State.resume (s : State) (k : Nat) : State :=
  (s.port k).held.foldl (fun s w =>
    match s.desc w.desc with
    | some d => s.sendPeer k w.ctx (.dma d.engine) 7 0 w.offset 1 1 [(w.data, w.poison)] (.dmaWrite d.id true (w.offset / 64))
    | none => s) (s.modPort k fun p => { p with suspended := false, held := [] })

def execResume (port window : Nat) (s : State) : Host.Outcome State Fault Refusal :=
  whenever (.resume port window) (s.pwinPort port) s (s.since11 port (s.resume port))

def State.waitingFor (s : State) (t : Nat) : Option Waiting := s.lnk.waiting.find? fun w => decide (w.token = t)
def State.dropWaiting (s : State) (t : Nat) : State :=
  { s with lnk := { s.lnk with waiting := s.lnk.waiting.filter fun w => !decide (w.token = t) } }

/-- The packet of a partner-window write still waits at its port for a flit (R417, R418). -/
def State.unsent (s : State) (w : Waiting) : Bool :=
  (s.port w.port).tx.any fun x => decide (x.pkt.kind = 7) && decide (x.pkt.token = w.token)

/-- A partner-window write without its ACK 10 ms after it was sent. -/
def State.unacked (s : State) (t : Nat) : Bool :=
  match s.waitingFor t with
  | some w => (match w.use with | .dmaWrite _ true _ => true | _ => false) && !s.unsent w && decide (w.since + ticksMs 10 ≤ s.now) &&
      !s.pln.fatal
  | none => false

def State.pwinUnacked (s : State) (t : Nat) : State :=
  match s.waitingFor t with
  | some w =>
    let line := match w.use with | .dmaWrite _ _ l => l | _ => 0
    (s.dropWaiting t).raise { code := 0x0707, ctxFatal := true, ctx := w.ctx, detail := w.port + line % 2 ^ 24 * 2 ^ 8 }
  | none => s

def execPwinWriteUnacked (token : Nat) (s : State) : Host.Outcome State Fault Refusal :=
  whenever (.pwinWriteUnacked token) (s.unacked token) s (s.pwinUnacked token)

/-- The first received packet of a kind that no earlier packet of its class precedes (R386, R397). -/
def firstPacket (p : LPkt → Bool) : List LPkt → List Nat → Option LPkt
  | [], _ => none
  | x :: xs, seen => if p x && !seen.contains x.cls then some x else firstPacket p xs (x.cls :: seen)

def State.packet (s : State) (k : Nat) (p : LPkt → Bool) : Option LPkt := firstPacket p (s.port k).rx []

/-- The packet leaves the port's receive queue, and its slots are credits to return (R384). -/
def State.takePacket (s : State) (k : Nat) (x : LPkt) : State :=
  s.modPort k fun p => { p with rx := p.rx.erase x, owed := mset 0 p.owed x.cls (mget 0 p.owed x.cls + 1 + x.payload.length) }

/-- BINDING_MISS (R398). -/
def bindingMiss (k : Nat) (x : LPkt) : FaultRec := { code := 0x0704, detail := k + x.iss % 32 * 2 ^ 4 + x.kind % 16 * 2 ^ 12 }

/-- The local context of a packet (R396). -/
def State.packetCtx (s : State) (k : Nat) (x : LPkt) : Option Nat := s.bindingCtx (s.lnk.named k) x.iss x.tag fun st => decide (st = 2)

/-- A write that reaches a fenced domain: discarded, logged, and recorded, without an answer (R375). -/
def State.darkWrite (s : State) (ctx line : Nat) : State :=
  let h := s.pln.half (line / 1024)
  let x := s.hdom h
  let g := line / 16
  let full := !x.log.contains g && decide (256 ≤ x.log.length)
  let x1 := if x.log.contains g then x else if full then { x with logOverflow := true } else { x with log := x.log ++ [g] }
  (s.setHdom h x1).raise { code := 0x030A, ctx := ctx, detail := line / 1024 + g % 64 * 2 ^ 24 + h * 2 ^ 30 + b2n x1.logOverflow * 2 ^ 31 }

/-- The lines of a partner-window write go straight to their channels (R372). -/
def pwinAccesses (stamp k c op id idx line : Nat) : List (Nat × Bool) → List Access
  | [] => []
  | (v, p) :: rest =>
    { id := id, src := .port k, ctx := c, op := op, idx := idx, vaddr := line * 64, write := true, data := v, poison := p, snap := false
      phys := line * 64, stage := .toChan, stamp := stamp } :: pwinAccesses stamp k c op (id + 1) (idx + 1) (line + 1) rest

def State.pwinStore (s : State) (k c line : Nat) (x : LPkt) : State :=
  let op := s.nextId
  let n := x.payload.length
  let o : MemOp := { id := op, kind := .peer k x.token, src := .port k, ctx := c, write := true, left := n, refused := none, meshBad := false }
  { s with nextId := op + 1 + n
           hbm := { s.hbm with ops := s.hbm.ops ++ [o], accs := s.hbm.accs ++ pwinAccesses (s.stampIn k x.age) k c op (op + 1) 0 line x.payload }
           lnk := { s.lnk with peerOps := s.lnk.peerOps ++ [{ id := op, port := s.lnk.named k, pkt := x, ctx := c, stamp := s.stampIn k x.age }] } }

/-- A line of a partner-window write of which another line reached a fenced domain: it is written, and nothing is answered (R375). -/
def State.pwinPart (s : State) (k c line : Nat) (v : Nat × Bool) : State :=
  { s with nextId := s.nextId + 1, hbm := { s.hbm with accs := s.hbm.accs ++ pwinAccesses s.stampNow k c 0 s.nextId 0 line [v] } }

/-- A partner-window write arrives: the power state is looked at for each frame that it reaches (R372, R375, R391, R398). A port other than
+X and −X has no partner window: the write is refused as one outside the window (DESIGN CHOICE, log entry 192). -/
def State.pwinWrite (s : State) (k : Nat) : State :=
  match s.packet k fun x => decide (x.kind = 7) with
  | none => s
  | some x =>
    let s1 := s.takePacket k x
    match s.packetCtx k x with
    | none => (s1.nak k x 1).raise (bindingMiss k x)
    | some c =>
      let w := s.pwin k
      let line := w.first * 1024 + x.addr / 64
      if (s.port k).version = 0 then s1.nak k x 6
      else if 2 ≤ k || decide (w.frames * 65536 < x.addr + 64 * x.payload.length) then s1.nak k x 5
      else
        let dark := below x.payload.length fun j => (s.hdom (s.pln.half ((line + j) / 1024))).fenced
        let s2 := dark.foldl (fun s j => s.darkWrite w.ctx (line + j)) s1
        if dark.isEmpty then s2.pwinStore k c line x
        else (below x.payload.length fun j => !dark.contains j).foldl (fun s j => s.pwinPart k c (line + j) (x.payload.getD j (0, false))) s2

def execPwinWriteArrival (port : Nat) (s : State) : Host.Outcome State Fault Refusal :=
  whenever (.pwinWriteArrival port) (s.isUp port && (s.packet port fun x => decide (x.kind = 7)).isSome) s (s.pwinWrite port)

/-! ### Packets of a peer (R396 to R398) -/

/-- A kind that REMOTE_PACKET_RECEIVE takes. -/
def remoteKind (x : LPkt) : Bool := decide (1 ≤ x.kind) && decide (x.kind ≤ 5)

/-- The version lacks the packet's feature (R391): the collective class is of 1.1. -/
def masked (version : Nat) (x : LPkt) : Bool := decide (x.cls = 0) && decide (version = 0)

/-- The MEMORY record of an access for a context that is not Running (R398 reason 3): the code of its first line. -/
def State.notRunningRec (s : State) (c : Nat) (x : LPkt) : FaultRec :=
  let w := decide (x.kind = 1)
  match s.sliceTest c x.addr 3 0 w false true with
  | some (code, detail) => { code := code, ctx := c, addr := x.addr, detail := detail }
  | none => { code := 0x0301, ctx := c, addr := x.addr, detail := 3 + b2n w * 2 ^ 4 }

/-- A read or write of a peer goes to the slices (R396). -/
def State.peerAccess (s : State) (k c : Nat) (x : LPkt) : State :=
  let w := decide (x.kind = 1)
  let pay := if w then x.payload else List.replicate x.lines (0, false)
  let x1 := if w then x else { x with payload := pay }
  let p : PeerOp := { id := s.nextId, port := s.lnk.named k, pkt := x1, ctx := c, stamp := s.stampIn k x.age }
  let s1 := { s with lnk := { s.lnk with peerOps := s.lnk.peerOps ++ [p] } }
  s1.issueMemAt p.stamp (.peer k x.token) (.port k) c (bits x.addr 0 40) w false pay

/-- An increment of a peer goes to the SYU (R285, R396). -/
def State.peerInc (s : State) (k c : Nat) (x : LPkt) : State :=
  let p : PeerOp := { id := s.nextId, port := s.lnk.named k, pkt := x, ctx := c, stamp := s.stampIn k x.age }
  let s1 := { s with lnk := { s.lnk with peerOps := s.lnk.peerOps ++ [p] } }
  s1.sendSyuAt p.stamp (.port k) c none none x.tag (.inc (gVid x.addr) x.info)

/-- A WRITE, READ or INCREMENT of a peer. W in the twin role takes none: the refusal is that of a masked feature (R421; DESIGN CHOICE,
log entry 148). -/
def State.request_ (s : State) (k : Nat) (x : LPkt) : State :=
  match s.packetCtx k x with
  | none => (s.nak k x 1).raise (bindingMiss k x)
  | some c =>
    if masked (s.port k).version x || s.lnk.twinOnly k then s.nak k x 6
    else if x.kind = 4 then s.peerInc k c x
    else if (s.ctx c).st = .running then s.peerAccess k c x
    else (s.nak k x 3).raise (s.notRunningRec c x)

/-- An ACK or the data of a READ: what waited for it goes on (R371, R408, R282). -/
def State.answer (s : State) (w : Waiting) (x : LPkt) : State :=
  let s1 := s.dropWaiting w.token
  (match w.use with
    | .dmaWrite d _ _ => s1.modDesc d fun y => { y with acked := y.acked + 1 }
    | .dmaRead d line _ => (match s1.desc d with | some y => s1.dmaCame y line x.payload | none => s1)
    | .collWrite d => s1.modCDesc d fun y => { y with left := y.left - 1 }
    | .inc (some who) _ => s1.freeTicket who false
    | .inc none _ => s1).flushRemote

/-- The packet answers what waits: data for a read, an ACK for the rest. -/
def answers (w : Waiting) (x : LPkt) : Bool :=
  match w.use with
  | .dmaRead _ _ _ => decide (x.kind = 3)
  | _ => decide (x.kind = 5)

def State.remotePacket (s : State) (k : Nat) : State :=
  match s.packet k remoteKind with
  | none => s
  | some x =>
    let s1 := s.takePacket k x
    if x.kind = 3 || x.kind = 5 then
      match s.waitingFor x.token with
      | some w => if answers w x then s1.answer w x else s1
      | none => s1
    else s1.request_ k x

def execRemotePacketReceive (port : Nat) (s : State) : Host.Outcome State Fault Refusal :=
  whenever (.remotePacketReceive port) (s.isUp port && (s.packet port remoteKind).isSome) s (s.remotePacket port)

/-! ### NAKs (R398) -/

/-- The code of the record that the peer wrote behind a NAK, for REMOTE_ACCESS_REFUSED (R398, R427): BINDING_MISS for reason 1, none for
reasons 5 and 6. For reasons 3 and 4 it is one of the MEMORY codes of R352; the NAK has no field for it: the free value `v`. -/
def peerCode (reason v : Nat) : Nat :=
  match reason with
  | 1 => 0x0704
  | 3 | 4 => 0x0301 + v % 6
  | _ => 0

/-- The issuer's record: REMOTE_INCREMENT_REFUSED for an increment, never a LINK code (R308, R427), REMOTE_ACCESS_REFUSED otherwise. An
increment of a feature that is not negotiated has no reason code in R308: the free value `v`. -/
def State.nakRec (s : State) (w : Waiting) (reason v : Nat) : FaultRec :=
  match w.use with
  | .inc who a =>
    let code := if reason = 2 then 1 else if reason = 1 || reason = 3 then 2 else v % 4
    let base : FaultRec := { code := 0x0505, ctxFatal := true, ctx := w.ctx, addr := a, detail := w.port + code * 2 ^ 4 }
    match who with
    | some o => { base with locValid := true, tile := o.tile, superstep := s.superstepOf o.tile, opIndex := o.opIndex }
    | none => base
  | _ => { code := 0x0705, ctxFatal := true, ctx := w.ctx, detail := w.port + reason % 16 * 2 ^ 4 + peerCode reason v * 2 ^ 8 }

def State.nakArrives (s : State) (k : Nat) : State :=
  match s.packet k fun x => decide (x.kind = 6) with
  | none => s
  | some x =>
    let s1 := s.takePacket k x
    match s.waitingFor x.token with
    | none => s1
    | some w =>
      let r := s.nakRec w x.info s.freeValue
      let s2 := (s1.dropWaiting w.token).drawn 1
      match w.use with
      | .dmaWrite d _ _ => (match s2.desc d with | some y => s2.descFault y r | none => s2.raise r)
      | .dmaRead d _ _ => (match s2.desc d with | some y => s2.descFault y r | none => s2.raise r)
      | .collWrite d => s2.cdescFault d r
      | .inc (some who) _ => (s2.noteWho who).raise r
      | .inc none _ => s2.raise r

def execNakReceive (port : Nat) (s : State) : Host.Outcome State Fault Refusal :=
  whenever (.nakReceive port) (s.isUp port && (s.packet port fun x => decide (x.kind = 6)).isSome) s (s.nakArrives port)

end Sys2Proof.Machine
end

