-- ==== Sys2Proof/Machine/Host.lean ====
section
/-! DEFINITION. The host interface (R428 to R451): doorbells and rings, the seven host commands, host reads and their
completions, interrupt moderation, and the resets and power states of a function. -/

namespace Sys2Proof.Machine

/-! ### Command entries (R440, R442) -/

def eOpcode (r : Nat) : Nat := byteOf r 0
/-- The `n` bytes of an entry from byte `b` on. -/
def eField (r b n : Nat) : Nat := bits r (8 * b) (8 * n)

/-- The context of a function: 16 is the firmware system context (R430). -/
def ctxOfFn (f : Nat) : Nat := if f = 0 then 16 else f - 1

/-- Every body byte outside the listed ranges (first byte, length) is zero. -/
def bodyZero (r : Nat) (listed : List (Nat × Nat)) : Bool :=
  (List.range 56).all fun j => decide (byteOf r (8 + j) = 0) || listed.any fun x => decide (x.1 ≤ 8 + j) && decide (8 + j < x.1 + x.2)

/-- Reserved bytes and bits of the body are zero and every field lies in its range (R441 Order 3). -/
def bodyOk (f r : Nat) : Bool :=
  match eOpcode r with
  | 1 => bodyZero r [(8, 8), (16, 4), (24, 8), (32, 8)] && decide (eField r 8 8 % 64 = 0) && decide (64 ≤ eField r 16 4) &&
      decide (eField r 16 4 ≤ 65536) && decide (eField r 24 8 % 4096 = 0) && decide (eField r 32 8 ≠ 0)
  | 2 =>
    let inc := bit (byteOf r 28) 2
    bodyZero r ([(8, 8), (16, 8), (24, 4), (28, 2)] ++ if inc then [(32, 8)] else []) && decide (eField r 8 8 % 64 = 0) &&
      decide (eField r 16 8 / 2 ^ 52 ≤ 1) && decide (1 ≤ eField r 24 4) && decide (eField r 24 4 ≤ 16777216) && decide (byteOf r 28 < 8) &&
      (if inc then decide (1 ≤ byteOf r 29) && decide (byteOf r 29 ≤ 16) else decide (byteOf r 29 = 0))
  | 3 => bodyZero r [(8, 3)] && decide (1 ≤ byteOf r 10) && decide (byteOf r 10 ≤ 16)
  | 4 => bodyZero r [(8, 4), (16, 8)] && decide (byteOf r 10 ≤ 3) && decide (byteOf r 11 ≤ 31)
  | 5 => if f = 0 then bodyZero r [(8, 1)] && decide (byteOf r 8 ≤ 15) else bodyZero r []
  | _ => bodyZero r []

/-- The function and the state of the context allow the opcode (R442, R451 Order 7, R544). An ADMIT while another one of the context is in
progress is not allowed (DEDUCED: the context has one staging slot). The firmware system context counts as Running (DEDUCED). -/
def State.permitted (s : State) (f r : Nat) : Bool :=
  let x := s.ctx (f - 1)
  match eOpcode r with
  | 1 => decide (f ≠ 0) && s.pln.ready && decide (x.st = .idle) && decide (x.admitSt = .none)
  | 2 => decide (f = 0) || decide (x.st = .loading) || decide (x.st = .running)
  | 3 | 4 => decide (f = 0) || decide (x.st = .running)
  | _ => true

/-- The first failing test of R441, as the completion's STATUS. -/
def State.entryTest (s : State) (f r : Nat) : Option Nat :=
  if byteOf r 1 ≠ 1 then some 1
  else if 6 < eOpcode r then some 2
  else if !(decide (byteOf r 2 < 2) && decide (byteOf r 3 = 0) && bodyOk f r) then some 3
  else if !s.permitted f r then some 4
  else none

/-! ### Doorbells and rings (R436 to R439) -/

def State.modRing (s : State) (f r : Nat) (g : Ring → Ring) : State := s.setFn f ((s.fn f).setRing r (g ((s.fn f).ring r)))

/-- A ring enters Error. -/
def State.ringError (s : State) (f r cause : Nat) : State := s.modRing f r fun x => { x with st := 2, cause := cause }

/-- A doorbell of value `w` (R438). -/
def State.doorbell (s : State) (f r w : Nat) : State :=
  let x := (s.fn f).ring r
  let ahead (a b : Nat) : Int := sext 32 ((a + 2 ^ 32 - b) % 2 ^ 32)
  if ahead w x.host ≤ 0 then
    if r = 0 then s.modRing f r fun x => { x with count := satAdd x.count 1 0xFFFFFFFF } else s
  else if (if r = 0 then decide (2 ^ x.l < (w + 2 ^ 32 - x.device) % 2 ^ 32) else decide (0 < ahead w x.device)) then
    (s.ringError f r 1).raise { code := 0x0A04, ctx := ctxOfFn f, detail := f + r * 2 ^ 5 }
  else (s.modRing f r fun x => { x with host := w }).fetch f

def execDoorbell (fn ring value : Nat) (s : State) : Host.Outcome State Fault Refusal :=
  whenever (.doorbell fn ring value) (s.claims (0x10 + fn) && !s.pln.fatal) s (s.doorbell fn ring (value % 2 ^ 32))

/-- A write of ENABLE (R439). -/
def State.ringEnable (s : State) (f r : Nat) (on : Bool) : State :=
  let x := (s.fn f).ring r
  if on then
    if x.enable || decide (x.l < 6) || decide (16 < x.l) || decide (x.base % 4096 ≠ 0) then s
    else (s.modRing f r fun x => { x with enable := true, st := if x.st = 2 then 2 else 1 }).fetch f
  else if r = 1 && decide (0 < s.inProgress f) then s
  else s.modRing f r fun x => { x with enable := false, st := if x.st = 2 then 2 else 0 }

def execRingEnable (fn ring : Nat) (on : Bool) (s : State) : Host.Outcome State Fault Refusal :=
  whenever (.ringEnable fn ring on) (s.claims (0x10 + fn) && !s.pln.fatal) s
    ((s.access (0x10 + fn) (0x101108 + 0x1000 * fn + 0x40 * ring)).ringEnable fn ring on)

/-- RESET of a ring whose ENABLE is 0 (R439, R459). A fetch that is still outstanding is for nothing, and entries that wait are gone. -/
def State.ringReset (s : State) (f r : Nat) : State :=
  if ((s.fn f).ring r).enable then s
  else
    let s1 := s.modRing f r fun x => { x with device := 0, host := 0, st := 0, cause := 0 }
    if r = 0 then s1.setFn f { s1.fn f with fetching := none }
    else s1.setFn f { s1.fn f with heldEntries := (s1.fn f).heldEntries.filter fun x => !decide (x.1 = r) }

def execRingReset (fn ring : Nat) (s : State) : Host.Outcome State Fault Refusal :=
  whenever (.ringReset fn ring) (s.claims (0x10 + fn) && !s.pln.fatal) s
    ((s.access (0x10 + fn) (0x101108 + 0x1000 * fn + 0x40 * ring)).ringReset fn ring)

/-! ### The commands (R442 to R446) -/

def State.fnCmds (s : State) (f : Nat) : List Cmd := s.hif.cmds.filter fun k => decide (k.fn = f)

/-- The command of function `f` that starts next (R443). -/
def State.nextCmd (s : State) (f : Nat) : Option Cmd := (s.fnCmds f).find? fun k => decide (k.st = .fetched)

/-- The command that starts next has this opcode. -/
def State.canStart (s : State) (f op : Nat) : Bool :=
  !s.pln.fatal && match s.nextCmd f with | some k => decide (eOpcode k.raw = op) | none => false

def State.startCmd (s : State) (k : Cmd) : State :=
  { s with hif := { s.hif with cmds := s.hif.cmds.map fun x => if x.fn = k.fn && decide (x.id = k.id) then { x with st := .started } else x } }

/-- What a command does once it starts; one whose context has left the state that it requires is not permitted. -/
def State.runCmd (s : State) (f : Nat) (effect : State → Cmd → State) : State :=
  match s.nextCmd f with
  | none => s
  | some k => if s.permitted f k.raw then effect (s.startCmd k) k else s.complete k 4 0 0

def execHostNop (fn : Nat) (s : State) : Host.Outcome State Fault Refusal :=
  whenever (.hostNop fn) (s.canStart fn 0) s (s.runCmd fn fun s k => s.complete k 0 0 0)

/-- FENCE starts when every command fetched before it has completed (R443). -/
def State.canFence (s : State) (f : Nat) : Bool :=
  s.canStart f 6 && match s.fnCmds f with | k :: _ => decide (k.st = .fetched) | [] => false

def execFence (fn : Nat) (s : State) : Host.Outcome State Fault Refusal :=
  whenever (.fence fn) (s.canFence fn) s (s.runCmd fn fun s k => s.complete k 0 0 0)

/-! #### ADMIT and its staging (R576 Orders 1 and 2) -/

/-- ARM_LOAD_STATUS_c (R587). -/
def loadStatus (stage check section_ record : Nat) : Nat := stage + check * 2 ^ 3 + section_ * 2 ^ 16 + record * 2 ^ 32

/-- The largest image: the staging slot, 48 MiB (R563). -/
def slotBytes : Nat := 50331648

/-- The ADMIT goes to admission, in order of arrival (R521, R576 Order 4). -/
def State.toAdmission (s : State) (c status : Nat) : State :=
  { s.modCtx c (fun x => { x with admitSt := .awaiting, loadStatus := status, arrived := s.nextId }) with nextId := s.nextId + 1 }

/-- The next read of staging leaves: descriptor first, then the image, within one page and the Max Read Request Size (R428); one at a
time. -/
def State.stage (s : State) (c : Nat) : State :=
  let x := s.ctx c
  match x.admitCmd.bind fun fk => s.cmd fk.1 fk.2 with
  | none => s
  | some k =>
    let ask (a left : Nat) : State := s.hostRead k.fn a (min (min left (4096 - a % 4096)) (s.fn k.fn).mrrs) (.staging c k.id)
    if !(s.fn k.fn).mayIssue || decide (x.admitSt ≠ .staging) || (s.hif.reads ++ s.hif.waiting).any (fun r => decide (r.use = .staging c k.id)) then s
    else if x.stagedDesc < x.descLen then ask (eField k.raw 8 8 + x.stagedDesc) (x.descLen - x.stagedDesc)
    else if x.stagedImage < x.imageLen then ask (eField k.raw 24 8 + x.stagedImage) (x.imageLen - x.stagedImage)
    else s.modCtx c fun x => { x with admitSt := .checking, loadStatus := loadStatus 2 0 0 0 }

/-- ADMIT starts (R576 Order 1): an image that the slot cannot hold fails check 14 at once (DEDUCED). -/
def State.startAdmit (s : State) (k : Cmd) : State :=
  let c := k.fn - 1
  let s1 := s.modCtx c fun x =>
    { x with admitSt := .staging, admitCmd := some (k.fn, k.id), desc := [], descLen := eField k.raw 16 4, image := []
             imageLen := eField k.raw 32 8, stagedDesc := 0, stagedImage := 0, loadStatus := loadStatus 1 0 0 0, reserveAt := none }
  if slotBytes < eField k.raw 32 8 then s1.toAdmission c (loadStatus 4 14 0xFFFF 0) else s1.stage c

def execHostAdmit (fn : Nat) (s : State) : Host.Outcome State Fault Refusal :=
  whenever (.hostAdmit fn) (s.canStart fn 1) s (s.runCmd fn State.startAdmit)

/-- Bytes of staging arrive (R576 Order 2); a failed read, or poisoned data, fails check 15. -/
def State.staged (s : State) (c n : Nat) (ok : Bool) (data : Nat) : State :=
  let x := s.ctx c
  if x.admitSt ≠ .staging then s
  else if !ok then s.toAdmission c (loadStatus 4 15 0xFFFF 0)
  else if x.stagedDesc < x.descLen then
    (s.setCtx c { x with desc := memWrite x.desc x.stagedDesc n data, stagedDesc := x.stagedDesc + n }).stage c
  else
    let m := memWrite x.image x.stagedImage n data
    ((s.setCtx c { x with image := m, stagedImage := x.stagedImage + n }).putStaged c m x.stagedImage (x.stagedImage + n)).stage c

/-- The slot is free again, and STAGE reads 0 (R576). -/
def Ctx.freeSlot (x : Ctx) : Ctx :=
  { x with admitSt := .none, admitCmd := none, desc := [], descLen := 0, image := [], imageLen := 0, stagedDesc := 0, stagedImage := 0
           loadStatus := 0, reserveAt := none, arrived := 0 }

/-- Staging, checking and the wait for admission of an Idle context stop (R446). A read that has left stays outstanding until it ends (R428,
R451). -/
def State.cancelAdmit (s : State) (c : Nat) : State :=
  let keeps (r : HRead) : Bool := match r.use with | .staging d _ => !decide (d = c) | _ => true
  { s.modCtx c Ctx.freeSlot with hif := { s.hif with waiting := s.hif.waiting.filter keeps } }

/-! #### DMA (R444) -/

/-- The DMA descriptor of a DMA command. -/
def hostDesc (r : Nat) : Nat :=
  let flags := byteOf r 28
  let toHost := bit flags 0
  let host := eField r 8 8
  let dev := eField r 16 8
  1 + 1 * 2 ^ 8 + (b2n (!toHost) + 2 * b2n toHost + 4 * b2n (bit flags 1) + 8 * b2n (bit flags 2)) * 2 ^ 16 + eField r 24 4 * 2 ^ 32
    + (if toHost then dev else host) * 2 ^ 64 + (if toHost then host else dev) * 2 ^ 128 + eField r 32 8 * 2 ^ 256
    + byteOf r 29 * 2 ^ 320 + eField r 4 4 * 2 ^ 352

/-- The queue descriptor that firmware names for the PF, made at boot (R444; DESIGN CHOICE, log entry 150). -/
def pfQueue : Nat := 32767

/-- The queue descriptor that the job descriptor names for host transfers, or firmware for the PF (R444, R520, R573). -/
def State.hostQueue (s : State) (f : Nat) : Option Nat :=
  if f = 0 then (if (s.queue pfQueue).ctx = 16 then some pfQueue else none) else (s.ctx (f - 1)).queues[memRead (s.ctx (f - 1)).desc 80 2]?

/-- The descriptor leaves as a routed message. Which sender kind the record shows is not said: a free value. -/
def State.hostDma (s : State) (k : Cmd) : State :=
  match s.hostQueue k.fn with
  | none => s.complete k 4 0 0
  | some n =>
    let q := s.queue n
    (s.drawn 1).sendRmn (.host k.fn) (s.routeOf q) (ctxOfFn k.fn) none (s.freeValue % 8) (some (k.fn, k.id))
      (.message n (s.routeOf q) q.epoch [(hostDesc k.raw, false)] 0)

def execDma (fn : Nat) (s : State) : Host.Outcome State Fault Refusal :=
  whenever (.dma fn) (s.canStart fn 2) s (s.runCmd fn State.hostDma)

/-! #### SIGNAL and WATCH (R445) -/

def State.hostSignal (s : State) (k : Cmd) : State :=
  s.sendSyu (.host k.fn) (ctxOfFn k.fn) none (some (k.fn, k.id)) 0 (.inc (eField k.raw 8 2) (byteOf k.raw 10))

def execSignal (fn : Nat) (s : State) : Host.Outcome State Fault Refusal :=
  whenever (.signal fn) (s.canStart fn 3) s (s.runCmd fn State.hostSignal)

def State.hostWatch (s : State) (k : Cmd) : State :=
  let r : WReg := { ctx := ctxOfFn k.fn, vid := eField k.raw 8 2, cmp := byteOf k.raw 10, expect := eField k.raw 16 8, t := byteOf k.raw 11
                    dest := .host, bank := none, hostCmd := some (k.fn, k.id) }
  s.sendSyu (.host k.fn) (ctxOfFn k.fn) none none 0 (.reg r)

def execWatch (fn : Nat) (s : State) : Host.Outcome State Fault Refusal :=
  whenever (.watch fn) (s.canStart fn 4) s (s.runCmd fn State.hostWatch)

/-! #### TEARDOWN (R446) -/

/-- The context that a TEARDOWN names. -/
def teardownCtx (k : Cmd) : Nat := if k.fn = 0 then byteOf k.raw 8 else k.fn - 1

def State.teardown (s : State) (k : Cmd) : State :=
  let c := teardownCtx k
  let x := s.ctx c
  match x.st with
  | .idle =>
    match x.admitCmd.bind fun fk => s.cmd fk.1 fk.2 with
    | some a => ((s.cancelAdmit c).complete a 7 0 0).complete k 0 0 0
    | none => s.complete k 0 0 0
  | _ => (s.startTeardown c none).modCtx c fun x => { x with teardownCmds := x.teardownCmds ++ [(k.fn, k.id)] }

def execTeardown (fn : Nat) (s : State) : Host.Outcome State Fault Refusal :=
  whenever (.teardown fn) (s.canStart fn 5) s (s.runCmd fn State.teardown)

/-! ### Host reads (R431, R434, R435, R441) -/

def State.hread (s : State) (i : Nat) : Option HRead := s.hif.reads.find? fun r => decide (r.id = i)
def State.dropRead (s : State) (i : Nat) : State :=
  { s with hif := { s.hif with reads := s.hif.reads.filter fun r => !decide (r.id = i) } }

/-- A command entry has been fetched: it is in progress, or its first failing test completes it. -/
def State.entryFetched (s : State) (f raw : Nat) : State :=
  let n := ((s.fn f).ring 0).device
  let k : Cmd := { fn := f, id := s.nextId, num := n, raw := raw, st := .fetched }
  let s1 := s.modRing f 0 fun x => { x with device := (n + 1) % 2 ^ 32 }
  let s2 := { s1 with nextId := s1.nextId + 1, hif := { s1.hif with cmds := s1.hif.cmds ++ [k] } }
  match s.entryTest f raw with
  | some st => s2.complete k st 0 0
  | none => s2.fetch f

/-- The fetch of a command entry ends: with data, or with reason 1 to 3 of R461. -/
def State.fetchDone (s : State) (f i : Nat) (bad : Option Nat) (data : Nat) : State :=
  if (s.fn f).fetching ≠ some i then s
  else
    let s1 := s.setFn f { s.fn f with fetching := none }
    if ((s1.fn f).ring 0).st ≠ 1 then s1
    else match bad with
      | some r => (s1.ringError f 0 2).raise { code := 0x0A03, ctx := ctxOfFn f, detail := f + r * 2 ^ 5 }
      | none => s1.entryFetched f (data % 2 ^ 512)

/-- Source data of a DMA descriptor. -/
def State.sourceDone (s : State) (d line : Nat) (bad : Option Nat) (ep : Bool) (data : Nat) : State :=
  match s.hbm.descs.find? fun x => decide (x.id = d) with
  | none => s
  | some x =>
    if x.faulted then s
    else match bad with
      | some r => s.descFault x (hostAbort x.ctx r)
      | none => (if ep then s.modDesc d fun y => { y with hostPoison := y.hostPoison + 1 } else s).dmaCame x line [(data % 2 ^ 512, ep)]

/-- A read that waits can leave, or is refused: its function may issue, or it is one of a DMA descriptor (R431); one of a function that is
being reset only waits (R451). -/
def State.readDue (s : State) (r : HRead) : Bool :=
  (s.fn r.fn).mayIssue || !(s.fn r.fn).resetting && match r.use with | .dmaSource _ _ _ => true | _ => false

/-- The first waiting read that is due leaves, while fewer than 512 are outstanding (R428); a DMA source of a function that may not issue
any more is refused (R431). -/
def State.nextRead (s : State) : State :=
  match s.hif.waiting.find? s.readDue with
  | none => s
  | some r =>
    if 512 ≤ s.hif.reads.length then s
    else
      let s1 : State := { s with hif := { s.hif with waiting := s.hif.waiting.filter fun x => !decide (x.id = r.id) } }
      if (s.fn r.fn).mayIssue then s1.sendRead r
      else match r.use with
        | .dmaSource d line _ => s1.sourceDone d line (some 4) false 0
        | _ => s1

/-- Waiting reads take the places that have become free. -/
def State.moreReads (s : State) : State := (List.range s.hif.waiting.length).foldl (fun s _ => s.nextRead) s

/-- What the end of a host read does; one of an ADMIT that has been cancelled is for nothing (R446). -/
def State.readEnds (s : State) (r : HRead) (bad : Option Nat) (ep : Bool) (data : Nat) : State :=
  match r.use with
  | .ringFetch f _ => s.fetchDone f r.id bad data
  | .dmaSource d line _ => s.sourceDone d line bad ep data
  | .staging c k => if (s.ctx c).admitCmd = some (r.fn, k) then s.staged c r.bytes (bad.isNone && !ep) data else s

/-! ### Function-level reset (R451, R456) -/

/-- A message is withdrawn (R455, R456). -/
def State.withdraw (s : State) (n : Nat) (byReset : Bool) : State :=
  let x := s.chan n
  (s.setChan n { x with full := false, timeout := true, mctp := false }).raise
    { code := 0x0A07, detail := n + x.sender * 2 ^ 8 + x.receiver * 2 ^ 16 + b2n byReset * 2 ^ 24 }

/-- The channels of a VF that is reset: what waits for it is withdrawn, and what it saw of its own sends reads 0. -/
def State.resetChannels (s : State) (v : Nat) : State :=
  (List.range 64).foldl (fun s n =>
    let x := s.chan n
    if x.receiver = 0x10 + v && x.full then s.withdraw n true
    else if x.sender = 0x10 + v then s.setChan n { x with delivered := false, timeout := false }
    else s) s

/-- Orders 5 to 7 of R451, once every read of the VF has its completion or has timed out: the record of a live context, and the reset
values. -/
def State.flrOver (s : State) (v : Nat) : State :=
  if (s.fn v).resetting && !s.hif.reads.any fun r => decide (r.fn = v) then
    let s1 := ({ s with hif := { s.hif with waiting := s.hif.waiting.filter fun r => !decide (r.fn = v) } }).setFn v {}
    if s.live (v - 1) then s1.raise { code := 0x0A06, ctxFatal := true, ctx := v - 1, detail := v } else s1
  else s

/-- A function-level reset of VF `v`: Orders 1 to 3 of R451 at once, the rest when no read of the VF is outstanding. -/
def State.flr (s : State) (v : Nat) : State :=
  let c := v - 1
  let s0 := { s with hif := { s.hif with cmds := s.hif.cmds.filter (fun k => !decide (k.fn = v))
                                         waiting := s.hif.waiting.filter fun r => !decide (r.fn = v) } }
  let s1 := if (s.ctx c).st = .idle && decide ((s.ctx c).admitSt ≠ .none) then s0.modCtx c Ctx.freeSlot else s0
  ((s1.setFn v { s1.fn v with resetting := true, fetching := none }).resetChannels v).flrOver v

/-- A host read ends; what one of a function that is being reset brings is for nothing (R451). -/
def State.readDone (s : State) (i : Nat) (bad : Option Nat) (ep : Bool) (data : Nat) : State :=
  match s.hread i with
  | none => s
  | some r =>
    let s1 := (s.dropRead i).nextRead
    if (s.fn r.fn).resetting then s1.flrOver r.fn else s1.readEnds r bad ep data

/-- `status`: 0 success, 1 Unsupported Request, 2 Completer Abort. -/
def execHostReadCompletion (read status : Nat) (ep : Bool) (data : Nat) (s : State) : Host.Outcome State Fault Refusal :=
  whenever (.hostReadCompletion read status ep data) ((s.hread read).isSome && decide (status ≤ 2) && !s.pln.fatal) s
    (s.readDone read (if status = 0 then none else some status) ep data)

/-- The least time, in ticks, after which a request without completion times out, by the Completion Timeout Value of the function's Device
Control 2: none while the timeout is disabled (R435). The ranges of the values are those of PCI Express, and within its range the moment is
open (PRESUMED, log entry 180). -/
def Fn.timeoutTicks (f : Fn) : Option Nat :=
  if bit f.timeout 4 then none
  else some (match f.timeout % 16 with
    | 2 => ticksMs 1 | 5 => ticksMs 16 | 6 => ticksMs 65 | 9 => ticksMs 260 | 10 => ticksMs 1000 | 13 => ticksMs 4000 | 14 => ticksMs 17000
    | _ => ticksUs 50)

/-- The request has gone without its completion for that long. -/
def State.readLate (s : State) (i : Nat) : Bool :=
  (s.hread i).any fun r => (s.fn r.fn).timeoutTicks.any fun n => decide (r.since + n ≤ s.now)

def execCompletionTimeout (read : Nat) (s : State) : Host.Outcome State Fault Refusal :=
  whenever (.completionTimeout read) (s.readLate read && !s.pln.fatal) s (s.readDone read (some 3) false 0)

/-! ### Interrupts (R450) -/

def Fn.unsig (f : Fn) (vec : Nat) : Nat := if vec = 0 then f.unsig0 else f.unsig1
def Fn.since (f : Fn) (vec : Nat) : Nat := if vec = 0 then f.since0 else f.since1

/-- DELAY_US have passed since the first unsignalled entry of a vector. -/
def State.irqDue (s : State) (f vec : Nat) : Bool :=
  decide (0 < (s.fn f).unsig vec) && decide ((s.fn f).since vec + ticksUs (s.fn f).irqDelay ≤ s.now)

def execIrqDelayExpiry (fn vec : Nat) (s : State) : Host.Outcome State Fault Refusal :=
  whenever (.irqDelayExpiry fn vec) (s.irqDue fn vec && !s.pln.fatal) s
    ((s.setFn fn (if vec = 0 then { s.fn fn with unsig0 := 0 } else { s.fn fn with unsig1 := 0 })).msix fn vec)

/-! ### Bus mastering and power states (R431) -/

/-- A function may issue again: its entry writes, then its interrupts, then fetches and staging go on. A ring that is no longer Running
writes nothing (R439). -/
def State.resumeFn (s : State) (f : Nat) : State :=
  if (s.fn f).mayIssue then
    let fn := s.fn f
    let s1 := s.setFn f { fn with heldEntries := [], heldIrqs := [] }
    let s2 := (fn.heldEntries.filter fun x => decide ((fn.ring x.1).st = 1)).foldl (fun s x => s.putEntry f x.1 x.2.1 x.2.2) s1
    let s3 := ((fn.heldIrqs.foldl (fun s v => s.msix f v) s2).fetch f).moreReads
    if f = 0 then s3 else s3.stage (f - 1)
  else s

def execBusMasterEnable (fn : Nat) (on : Bool) (s : State) : Host.Outcome State Fault Refusal :=
  whenever (.busMasterEnable fn on) (s.claims 0x10 && !s.pln.fatal) s ((s.setFn fn { s.fn fn with busMaster := on }).resumeFn fn)

def execD0ToD3hot (fn : Nat) (s : State) : Host.Outcome State Fault Refusal :=
  whenever (.d0ToD3hot fn) (s.claims 0x10 && !s.pln.fatal && !(s.fn fn).d3hot) s (s.setFn fn { s.fn fn with d3hot := true })

/-! ### Function-level reset (R451) -/

def execFunctionLevelReset (fn : Nat) (s : State) : Host.Outcome State Fault Refusal :=
  whenever (.functionLevelReset fn) (s.claims 0x10 && decide (fn ≠ 0) && !s.pln.fatal) s (s.flr fn)

/-- VF Enable is cleared: every VF is reset, and none is enabled (R431, R458). -/
def State.clearVfs (s : State) : State :=
  let s1 := (List.range 16).foldl (fun s i => s.flr (i + 1)) s
  { s1 with hif := { s1.hif with numVfs := 0, vfEnable := false } }

def execVfEnableClear (s : State) : Host.Outcome State Fault Refusal :=
  whenever .vfEnableClear (s.claims 0x10 && !s.pln.fatal) s s.clearVfs

/-! ### BAR2, BAR4 and the configuration space (R428, R430, R438)

A master that is a function reaches them at offsets beyond BAR0. DESIGN CHOICE (log entry 153): BAR2 from 2^26 on, BAR4 from 2^26 + 2^14 on,
and from 2^27 on registers of the configuration space: Device Control, the PF's SR-IOV Control, the readiness times, and Device Control 2. -/

/-- An entry of the MSI-X table changes; a vector that is no longer masked sends what is pending. -/
def State.putVector (s : State) (f vec e : Nat) : State :=
  let x := s.fn f
  let s1 := s.setFn f { x with msixTable := mset msixReset x.msixTable vec e }
  if (mget false x.msixPending vec) && !bit e 96 then
    (s1.setFn f { s1.fn f with msixPending := mset false x.msixPending vec false }).msix f vec
  else s1

/-- A write in BAR4 at `b`: aligned accesses of 4 or 8 bytes to the table of four vectors; the Pending Bit Array is read-only. -/
def State.putMsix (s : State) (f b size v : Nat) : State :=
  if b < 64 && (size = 4 || size = 8) && decide (b % size = 0) then
    s.putVector f (b / 16) (setBits ((s.fn f).vector (b / 16)) (8 * (b % 16)) (8 * size) v)
  else s

/-- Device Control: Max Payload Size [7:5], 128 to 512 bytes, and Max Read Request Size [14:12], 128 to 4,096 bytes (R428). -/
def Fn.devControl (f : Fn) (v : Nat) : Fn :=
  { f with mps := if bits v 5 3 ≤ 2 then 128 * 2 ^ bits v 5 3 else f.mps, mrrs := if bits v 12 3 ≤ 5 then 128 * 2 ^ bits v 12 3 else f.mrrs }

/-- SR-IOV Control of the PF: VF Enable [0], NumVFs [31:16], which changes only while VF Enable is 0 (R428, R431). -/
def State.sriov (s : State) (v : Nat) : State :=
  let n := bits v 16 16
  if !bit v 0 then (if s.hif.vfEnable then s.clearVfs else s)
  else if s.hif.vfEnable || decide (16 < n) then s
  else { s with hif := { s.hif with vfEnable := true, numVfs := n } }

/-- A write of function `f` beyond BAR0. In BAR2 byte 0 of pages 0 to 2 is the doorbell; page 3 and every other offset are ignored
(R438). -/
def State.barWrite (s : State) (f off size v : Nat) : State :=
  if off < 2 ^ 26 + 0x4000 then
    if off % 0x1000 = 0 && decide (off < 2 ^ 26 + 0x3000) && decide (size = 4) && !s.pln.fatal then
      s.doorbell f ((off - 2 ^ 26) / 0x1000) (v % 2 ^ 32)
    else s
  else if off < 2 ^ 26 + 0x6000 then s.putMsix f (off - 2 ^ 26 - 0x4000) size v
  else if off = 2 ^ 27 && decide (size = 4) then s.setFn f ((s.fn f).devControl v)
  else if off = 2 ^ 27 + 16 && decide (size = 4) then s.setFn f { s.fn f with timeout := v % 2 ^ 5 }
  else if off = 2 ^ 27 + 4 && decide (size = 4) && decide (f = 0) then s.sriov v
  else s

/-- The Readiness Time Reporting values in ms (R428, R544): after reset and DL_Up 600, after FLR 100, from D3hot to D0 10. Immediate
Readiness is 0. -/
def readinessTimes : List Nat := [600, 600, 100, 10]

/-- The 8 bytes that a function reads at an offset beyond BAR0: the last accepted doorbell value, the MSI-X table, the Pending Bit Array,
Device Control, SR-IOV Control, the readiness times, and Device Control 2. -/
def State.barSlot (s : State) (f o : Nat) : Nat :=
  let x := s.fn f
  if o < 2 ^ 26 + 0x4000 then (if o % 0x1000 = 0 && decide (o < 2 ^ 26 + 0x3000) then (x.ring ((o - 2 ^ 26) / 0x1000)).host else 0)
  else if o < 2 ^ 26 + 0x4040 then bits (x.vector ((o - 2 ^ 26 - 0x4000) / 16)) (8 * (o % 16)) 64
  else if o = 2 ^ 26 + 0x5000 then packElems 1 ((List.range 4).map fun i => b2n (mget false x.msixPending i))
  else if o = 2 ^ 27 then
    Nat.log2 (x.mps / 128) * 2 ^ 5 + Nat.log2 (x.mrrs / 128) * 2 ^ 12
      + (if f = 0 then b2n s.hif.vfEnable + s.hif.numVfs * 2 ^ 16 else 0) * 2 ^ 32
  else if o = 2 ^ 27 + 8 then packElems 16 readinessTimes
  else if o = 2 ^ 27 + 16 then x.timeout
  else 0

/-- Return to D0: a VF is reset, because No_Soft_Reset is 0; the PF goes on (R431, R451). -/
def State.toD0 (s : State) (f : Nat) : State :=
  if f = 0 then (s.setFn 0 { s.fn 0 with d3hot := false }).resumeFn 0 else s.flr f

def execD3hotToD0 (fn : Nat) (s : State) : Host.Outcome State Fault Refusal :=
  whenever (.d3hotToD0 fn) (s.claims 0x10 && (s.fn fn).d3hot && !s.pln.fatal) s (s.toD0 fn)

end Sys2Proof.Machine
end

