-- ==== Sys2Proof/Machine/Mailbox.lean ====
section
/-! DEFINITION. Mailboxes (R452 to R457, R614): a message from its sender to its receiver, its ACK, and its withdrawal. -/

namespace Sys2Proof.Machine

/-- A write of MBX_CBT_LOCK.LOCK: the first one since reset takes effect (R13, R460). -/
def Mbx.writeLock (m : Mbx) (on : Bool) : Mbx := if m.lockWritten then m else { m with lock := on, lockWritten := true }

/-- The identities of R452 that name a master. -/
def isMaster (m : Nat) : Bool := (decide (1 ≤ m) && decide (m ≤ 3)) || (decide (0x10 ≤ m) && decide (m ≤ 0x20))

/-- An access that only another master may make is ignored and leaves DENIED (R457). -/
def State.denied (s : State) (n : Nat) : State := s.setChan n { s.chan n with denied := true }

/-- The `len` bytes of a message of channel `n`. -/
def Channel.message (x : Channel) : Nat := x.data % 2 ^ (8 * x.len)

/-- The receiver is signalled (R454): a function by a MAILBOX event and vector 2, the BMC by an MCTP message. -/
def State.signalReceiver (s : State) (n : Nat) : State :=
  let x := s.chan n
  if 0x10 ≤ x.receiver then ((s.event (x.receiver - 0x10) (3 + n * 2 ^ 64)).msix (x.receiver - 0x10) 2)
  else if x.receiver = 3 then (s.setChan n { x with mctp := true }).out (.mbxDeliver x.len x.message)
  else s

/-- GO with a length, from the channel's sender (R454, R455). -/
def State.mailSend (s : State) (n len : Nat) : State :=
  let x := s.chan n
  if x.full || decide (len = 0) || decide (64 < len) then s
  else
    (s.setChan n { x with full := true, len := len, seq := (x.seq + 1) % 65536, armed := max 1 x.timeoutMs, since := s.now }).signalReceiver n

/-- A write of MBX_CH_SEND_n. -/
def State.mailboxSend (s : State) (m n v : Nat) : State :=
  if (s.chan n).sender ≠ m then s.denied n
  else if bit v 31 then s.mailSend n (bits v 0 7) else s

/-- The message counts as delivered; an ACK after a withdrawal is ignored (R454, R455). -/
def State.mailAck (s : State) (n : Nat) : State :=
  let x := s.chan n
  if x.full then s.setChan n { x with full := false, delivered := true, mctp := false } else s

/-- A write of MBX_CH_ACK_n with ACK set. -/
def State.mailboxAck (s : State) (m n : Nat) : State := if (s.chan n).receiver ≠ m then s.denied n else s.mailAck n

def execMailboxAck (master chan : Nat) (s : State) : Host.Outcome State Fault Refusal :=
  whenever (.mailboxAck master chan) (isMaster master && s.claims master) s
    ((s.access master (0x201050 + 0x100 * chan)).mailboxAck master chan)

/-- FULL has been 1 for TIMEOUT_MS (R455). -/
def State.mailLate (s : State) (n : Nat) : Bool :=
  (s.chan n).full && decide ((s.chan n).since + ticksMs (s.chan n).armed ≤ s.now)

def execMailboxTimeout (chan : Nat) (s : State) : Host.Outcome State Fault Refusal :=
  whenever (.mailboxTimeout chan) (s.mailLate chan) s (s.withdraw chan false)

/-! ### The BMC's vendor commands on mailboxes (R613, R614) -/

/-- Skoveixa runs: an image has been started at this boot (R542, R561). -/
def State.skoveixa (s : State) : Bool := decide (s.pln.slot ≠ 0)

/-- A blade is powered: D0 serves the management segment (R612). -/
def State.powered (s : State) : Bool := s.pln.pb0 || s.pln.pb1

/-- A request that is not available under the ROM is answered with its type's error completion, and nothing else happens (R613). -/
def State.unsupported (s : State) : State := if s.powered then s.out .errorCompletion else s

/-- A vendor-defined request of the BMC: Skoveixa answers it with `t` (R613). -/
def State.vendor (s t : State) : State := if s.skoveixa then t else s.unsupported

/-- MBX_SEND: the message goes into channel 2. The response is 0 sent or 1 FULL; a length outside 1 to 64 sends nothing, and what the
response then says is open: a free value. -/
def State.bmcSend (s : State) (len data : Nat) : State :=
  let x := s.chan 2
  if len = 0 || decide (64 < len) then (s.drawn 1).out (.reply 3 s.freeValue)
  else if x.full then s.out (.reply 3 1)
  else ((s.setChan 2 { x with data := data % 2 ^ (8 * len) + x.data / 2 ^ (8 * len) * 2 ^ (8 * len) }).mailSend 2 len).out (.reply 3 0)

/-- The BMC's response to a delivered message of channel 3 is its ACK. -/
def execMbxDeliver (s : State) : Host.Outcome State Fault Refusal :=
  whenever .mbxDeliver ((s.chan 3).mctp && (s.chan 3).full) s (s.mailAck 3)

end Sys2Proof.Machine
end

