-- ==== Sys2Proof/Machine/Image.lean ====
section
/-! DEFINITION. The Maquette image (R563 to R574, R582): its sections and records, and the image checks of R577. -/

namespace Sys2Proof.Machine

/-! ### Sections (R563 to R565) -/

/-- An entry of the section table. -/
structure Sect where
  kind : Nat
  flags : Nat
  /-- Every zero byte of the entry is zero. -/
  zero : Bool
  count : Nat
  off : Nat
  len : Nat
  deriving DecidableEq, Repr

def imgSets (m : Memory) : Nat := memRead m 56 2
def imgGroups (m : Memory) : Nat := memRead m 58 1
/-- Image tiles (R567). -/
def imgTiles (m : Memory) : Nat := 48 * imgSets m

def sectAt (m : Memory) (i : Nat) : Sect :=
  let a := 128 + 32 * i
  { kind := memRead m a 2, flags := memRead m (a + 2) 1, zero := decide (memRead m (a + 3) 1 = 0) && decide (memRead m (a + 24) 8 = 0)
    count := memRead m (a + 4) 4, off := memRead m (a + 8) 8, len := memRead m (a + 16) 8 }

/-- The section table, with each entry's index. -/
def sects (m : Memory) : List (Nat × Sect) := (List.range (min 64 (memRead m 12 4))).map fun i => (i, sectAt m i)

/-- The section of a kind, with its index. -/
def sectOf (m : Memory) (kind : Nat) : Option (Nat × Sect) := (sects m).find? fun x => decide (x.2.kind = kind)

/-- A section's index, count and offset; an absent section is empty. -/
def sectIdx (m : Memory) (kind : Nat) : Nat := match sectOf m kind with | some x => x.1 | none => 0xFFFF
def sectCount (m : Memory) (kind : Nat) : Nat := match sectOf m kind with | some x => x.2.count | none => 0
def sectOff (m : Memory) (kind : Nat) : Nat := match sectOf m kind with | some x => x.2.off | none => 0

/-- A failed check: CHECK, SECTION, RECORD (R587). -/
structure ImgFail where
  check : Nat
  sect : Nat
  rec_ : Nat
  deriving DecidableEq, Repr

def headFail (check : Nat) : ImgFail := ⟨check, 0xFFFF, 0⟩

/-- The first record of a section that is bad. -/
def firstBadRec (m : Memory) (check kind n : Nat) (bad : Nat → Bool) : Option ImgFail :=
  (firstBelow n bad).map fun i => ⟨check, sectIdx m kind, i⟩

/-! ### Records (R565, R568) -/

/-- Placements of the tile record at `p`. -/
def recPlaces (m : Memory) (p : Nat) : Nat := memRead m (p + 16) 4

/-- The offsets of `n` tile records from `p` on, and the end of the last. -/
def tileRecs (m : Memory) : Nat → Nat → List Nat × Nat
  | 0, p => ([], p)
  | n + 1, p => match tileRecs m n (p + 448 + 8 * recPlaces m p) with | (l, e) => (p :: l, e)

/-- The tile records of PLACEMENT. -/
def imgRecs (m : Memory) : List Nat := (tileRecs m (min (imgTiles m + 1) (sectCount m 2)) (sectOff m 2)).1

def recTile (m : Memory) (p : Nat) : Nat := memRead m p 4
def recBanks (m : Memory) (p : Nat) : Nat := memRead m (p + 4) 4
def recStart (m : Memory) (p t : Nat) : Nat := memRead m (p + 8 + 2 * t) 2
def recRegion (m : Memory) (p n : Nat) : Nat := memRead m (p + 64 + 8 * n) 8
def recTag (m : Memory) (p n : Nat) : Nat := memRead m (p + 320 + 8 * n) 8

/-- The record of an image tile. -/
def recOf (m : Memory) (i : Nat) : Option Nat := (imgRecs m).find? fun p => decide (recTile m p = i)

/-- A placement: its first line in the tile, the offset of its lines in the image, and how many. -/
structure Place3 where
  line : Nat
  off : Nat
  lines : Nat
  deriving DecidableEq, Repr

/-- Offset and lines of a segment. -/
def segOff (m : Memory) (j : Nat) : Nat := memRead m (sectOff m 1 + 16 * j) 8
def segLines (m : Memory) (j : Nat) : Nat := memRead m (sectOff m 1 + 16 * j + 8) 4

def placeSeg (m : Memory) (p k : Nat) : Nat := memRead m (p + 448 + 8 * k) 4
def placeAt (m : Memory) (p k : Nat) : Place3 :=
  { line := memRead m (p + 448 + 8 * k + 4) 2, off := segOff m (placeSeg m p k), lines := segLines m (placeSeg m p k) }
def recPlacements (m : Memory) (p : Nat) : List Place3 := (List.range (recPlaces m p)).map (placeAt m p)

/-- The image offset of the byte that stands at offset `a` of an image tile's memory: none where no placement covers it. -/
def imgByte (m : Memory) (i a : Nat) : Option Nat :=
  match recOf m i with
  | none => none
  | some p =>
    ((recPlacements m p).find? fun x => decide (x.line ≤ a / 64) && decide (a / 64 < x.line + x.lines)).map fun x =>
      x.off + (a - 64 * x.line)

/-- `n` bytes of an image tile's memory before relocation; lines that no placement covers hold zero (R568). -/
def tileBytes (m : Memory) (i a : Nat) : Nat → Nat
  | 0 => 0
  | n + 1 => (match imgByte m i a with | some o => (memByte m o).toNat | none => 0) + 256 * tileBytes m i (a + 1) n

/-! ### Checks 1 to 5 -/

def check1 (m : Memory) (len : Nat) : Option ImgFail :=
  if 128 ≤ len && decide (memRead m 0 8 = 0x455454455551414D) && decide (memRead m 8 1 = 1) && decide (memRead m 9 1 = 0) &&
    decide (memRead m 10 2 = 0) && decide (memRead m 60 4 = 0) && decide (memRead m 16 8 = len) then none
  else some (headFail 1)

def check2 (m : Memory) (len : Nat) : Option ImgFail :=
  if memRead m 24 32 = sha3 (memRead (memWrite m 24 32 0) 0 len) len then none else some (headFail 2)

/-- LENGTH agrees with the records (R564). -/
def lengthOk (m : Memory) (x : Sect) : Bool :=
  match x.kind with
  | 1 | 3 | 4 => decide (x.len = 16 * x.count)
  | 2 => decide (448 * x.count ≤ x.len) && decide ((tileRecs m x.count x.off).2 = x.off + x.len)
  | 5 => decide (x.len = 32 * x.count)
  | 6 => decide (x.count = 1) && decide (x.len = 128)
  | 7 =>
    let groups := memRead m (x.off + 96) 4
    let steps := memRead m (x.off + 100) 4
    decide (x.count = groups + steps) && decide (x.len = 128 + 64 * groups + 16 * steps)
  | 8 => decide (x.count = 1) && decide (x.len = 8)
  | _ => true

/-- A section table entry breaks R564, R565 or R566. -/
def badSect (m : Memory) (len : Nat) (i : Nat) : Bool :=
  let x := sectAt m i
  let n := memRead m 12 4
  !(x.zero && decide (x.flags < 2) && decide (x.off % 64 = 0) && decide (128 + 32 * n ≤ x.off) && decide (x.off + x.len ≤ len) && lengthOk m x) ||
    (bit x.flags 0 && !(decide (1 ≤ x.kind) && decide (x.kind ≤ 8))) ||
    (List.range i).any fun j =>
      let y := sectAt m j
      decide (y.kind = x.kind) || (decide (x.off < y.off + y.len) && decide (y.off < x.off + x.len))

def check3 (m : Memory) (len : Nat) : Option ImgFail :=
  let n := memRead m 12 4
  if n = 0 || decide (64 < n) || decide (len < 128 + 32 * n) then some (headFail 3)
  else match firstBelow n (badSect m len) with
    | some i => some ⟨3, i, 0⟩
    | none => if [1, 2, 6, 7].all fun k => (sectOf m k).isSome then none else some (headFail 3)

def check4 (m : Memory) : Option ImgFail := if memRead m 59 1 = 0 then none else some (headFail 4)

def check5 (m desc : Memory) : Option ImgFail :=
  if imgSets m = memRead desc 12 2 && decide (imgGroups m = memRead desc 14 1) then none else some (headFail 5)

/-! ### Checks 6 and 7: SEGMENTS and PLACEMENT (R568, R569) -/

def badSegment (m : Memory) (len j : Nat) : Bool :=
  !(decide (segOff m j % 64 = 0) && decide (1 ≤ segLines m j) && decide (segLines m j ≤ 32768) && decide (segOff m j + 64 * segLines m j ≤ len) &&
    decide (memRead m (sectOff m 1 + 16 * j + 12) 4 = 0))

def regX (e : Nat) : Bool := bit e 63
/-- Threads to which a region entry grants RD or WR. -/
def regThreads (e : Nat) : Nat := bits e 32 4 ||| bits e 36 4
def badRegion (e : Nat) : Bool := bit e 15 || decide (bits e 45 18 ≠ 0) || (regX e && decide (popCount (regThreads e) 4 ≠ 1))
def badTag (e : Nat) : Bool := bit e 15 || decide (bits e 46 18 ≠ 0) || decide (bits e 44 2 = 3)

def badPlace (m : Memory) (p k : Nat) : Bool :=
  let x := placeAt m p k
  !(decide (placeSeg m p k < sectCount m 1) && decide (memRead m (p + 448 + 8 * k + 6) 2 = 0) && decide (x.line + x.lines ≤ 32768) &&
    (List.range 32).all (fun b => bit (recBanks m p) b || decide (1024 * b + 1024 ≤ x.line) || decide (x.line + x.lines ≤ 1024 * b)) &&
    (List.range k).all fun j =>
      let y := placeAt m p j
      decide (x.line + x.lines ≤ y.line) || decide (y.line + y.lines ≤ x.line))

/-- A tile record that check 6 refuses; `seen` holds the image tiles of the records before it. -/
def badRecord (m : Memory) (seen : List Nat) (p : Nat) : Bool :=
  decide (imgTiles m ≤ recTile m p) || seen.contains (recTile m p) || decide (memRead m (p + 20) 44 ≠ 0) ||
    (List.range 4).any (fun t => decide (32768 ≤ recStart m p t)) || (List.range 32).any (fun n => badRegion (recRegion m p n)) ||
    (List.range 16).any (fun n => badTag (recTag m p n)) || (List.range (recPlaces m p)).any (badPlace m p)

/-- The first bad record of a list, by its index. -/
def firstBadTile (m : Memory) : List Nat → List Nat → Nat → Option Nat
  | [], _, i => if i = imgTiles m then none else some i
  | p :: ps, seen, i => if badRecord m seen p then some i else firstBadTile m ps (recTile m p :: seen) (i + 1)

def check6 (m : Memory) (len : Nat) : Option ImgFail :=
  match firstBadRec m 6 1 (sectCount m 1) (badSegment m len) with
  | some f => some f
  | none => (firstBadTile m (imgRecs m) [] 0).map fun i => ⟨6, sectIdx m 2, i⟩

/-- Two used region entries cover a common line. -/
def regOverlap (e f : Nat) : Bool :=
  decide (regLines e ≠ 0) && decide (regLines f ≠ 0) && decide (regBase e < regBase f + regLines f) && decide (regBase f < regBase e + regLines e)

/-- An exclusive entry of the record is overlapped by one that grants another thread anything (R569). -/
def exclusiveBad (m : Memory) (p : Nat) : Bool :=
  (List.range 32).any fun n => regX (recRegion m p n) && (List.range 32).any fun k =>
    decide (k ≠ n) && regOverlap (recRegion m p n) (recRegion m p k) &&
      (List.range 4).any fun t => bit (regThreads (recRegion m p k)) t && !bit (regThreads (recRegion m p n)) t

def check7 (m : Memory) : Option ImgFail :=
  firstBadRec m 7 2 (imgRecs m).length fun i => exclusiveBad m ((imgRecs m).getD i 0)

/-! ### Checks 8 and 9: XLISTS and RELOCATIONS (R570, R571) -/

def xlAt (m : Memory) (r : Nat) : Nat := sectOff m 3 + 16 * r
def xlTile (m : Memory) (r : Nat) : Nat := memRead m (xlAt m r) 4
def xlEntries (m : Memory) (r : Nat) : Nat := memRead m (xlAt m r + 4) 4
def xlLine (m : Memory) (r : Nat) : Nat := memRead m (xlAt m r + 8) 2

/-- Word `e` of a declared list, before relocation. -/
def xlWord (m : Memory) (r e : Nat) : Nat := tileBytes m (xlTile m r) (64 * xlLine m r + 16 * e) 16

/-- The image tile that an entry names: of DEST for SEND, SRC for RECV. -/
def xlPeer (w : Nat) : Nat := if bits w 0 4 = 1 then bits w 61 13 else bits w 40 13

/-- An entry that check 8 refuses. -/
def badEntry (m : Memory) (w : Nat) : Bool :=
  !(decide (bits w 0 4 = 1) || decide (bits w 0 4 = 2)) || (decide (bits w 0 4 = 1) && decide (bits w 92 4 ≠ 1)) || decide (imgTiles m ≤ xlPeer w)

def badList (m : Memory) (r : Nat) : Bool :=
  decide (imgTiles m ≤ xlTile m r) || decide (xlEntries m r = 0) || decide (65535 < xlEntries m r) || decide (memRead m (xlAt m r + 10) 6 ≠ 0) ||
    decide (32768 < xlLine m r + ceilDiv (xlEntries m r) 4) || (List.range (xlEntries m r)).any fun e => badEntry m (xlWord m r e)

def relAt (m : Memory) (r : Nat) : Nat := sectOff m 4 + 16 * r
def relKind (m : Memory) (r : Nat) : Nat := memRead m (relAt m r) 1
def relTile (m : Memory) (r : Nat) : Nat := memRead m (relAt m r + 4) 4
def relOff (m : Memory) (r : Nat) : Nat := memRead m (relAt m r + 8) 4
def relArg (m : Memory) (r : Nat) : Nat := memRead m (relAt m r + 12) 4
/-- Bytes of the field. -/
def relBytes (kind : Nat) : Nat := match kind with | 1 => 7 | 2 => 2 | _ => 4

def badReloc (m : Memory) (r : Nat) : Bool :=
  let k := relKind m r
  let v := tileBytes m (relTile m r) (relOff m r) (relBytes k)
  decide (memRead m (relAt m r + 1) 3 ≠ 0) || !(decide (1 ≤ k) && decide (k ≤ 3)) ||
    !(if k = 3 then decide (1 ≤ relArg m r) && decide (relArg m r ≤ 3) else decide (relArg m r = 0)) || decide (imgTiles m ≤ relTile m r) ||
    (List.range (relBytes k)).any (fun j => (imgByte m (relTile m r) (relOff m r + j)).isNone) ||
    (decide (k = 1) && (decide (bits v 52 4 ≠ 1) || decide (imgTiles m ≤ bits v 21 13))) || (decide (k = 2) && decide (imgTiles m ≤ bits v 0 13))

def check8 (m : Memory) : Option ImgFail :=
  match firstBadRec m 8 3 (sectCount m 3) (badList m) with
  | some f => some f
  | none => firstBadRec m 8 4 (sectCount m 4) (badReloc m)

/-- The group of an image tile set: the first whose run of GROUP_SETS reaches it (R567). -/
def groupOfSet (desc : Memory) (j : Nat) : Nat → Nat → Nat
  | 0, g => g
  | n + 1, g => if j < memRead desc (96 + g) 1 then g else groupOfSet desc (j - memRead desc (96 + g) 1) n (g + 1)

def groupOfTile (desc : Memory) (i : Nat) : Nat := groupOfSet desc (i / 48) 64 0

def check9 (m desc : Memory) : Option ImgFail :=
  firstBadRec m 9 3 (sectCount m 3) fun r => (List.range (xlEntries m r)).any fun e =>
    decide (groupOfTile desc (xlPeer (xlWord m r e)) ≠ groupOfTile desc (xlTile m r))

/-! ### Checks 10 to 14 -/

def qAt (m : Memory) (r : Nat) : Nat := sectOff m 5 + 32 * r

/-- A QUEUES record that breaks R573. A tile-owned queue has its address in space 0x1, every other one in space 0x0 (R311). -/
def badQueue (m : Memory) (r : Nat) : Bool :=
  let a := qAt m r
  let kind := memRead m a 1
  let id := memRead m (a + 4) 4
  let addr := memRead m (a + 8) 8
  !(decide (1 ≤ memRead m (a + 1) 1) && decide (memRead m (a + 1) 1 ≤ 32) && decide (memRead m (a + 2) 1 < 2) && decide (memRead m (a + 3) 1 < 32) &&
    decide (memRead m (a + 16) 16 = 0) && gZeroOk addr && decide (addr < 2 ^ 56) &&
    (match kind with
      | 0 => decide (id < imgTiles m) && decide (gSpace addr = 1) && decide (gTile addr < imgTiles m)
      | 1 | 2 => decide (id < 16) && decide (gSpace addr = 0)
      | 3 => decide (id < 7) && decide (gSpace addr = 0)
      | _ => false))

def check10 (m desc : Memory) : Option ImgFail :=
  let n := memRead desc 18 2
  if sectCount m 5 ≠ n then some ⟨10, sectIdx m 5, 0⟩ else firstBadRec m 10 5 n (badQueue m)

def check11 (m : Memory) : Option ImgFail :=
  let a := sectOff m 6
  if memRead m (a + 12) 4 = 0 && decide (memRead m (a + 44) 4 = 0) && decide (memRead m (a + 72) 56 = 0) then none else some ⟨11, sectIdx m 6, 0⟩

/-- COSTMODEL: offsets of the header, of group record `k`, and of superstep record `k` (R582). -/
def cmGroups (m : Memory) : Nat := memRead m (sectOff m 7 + 96) 4
def cmSteps (m : Memory) : Nat := memRead m (sectOff m 7 + 100) 4
def cmGroupAt (m : Memory) (k : Nat) : Nat := sectOff m 7 + 128 + 64 * k
def cmStepAt (m : Memory) (k : Nat) : Nat := sectOff m 7 + 128 + 64 * cmGroups m + 16 * k
def cmSRef (m : Memory) : Nat := memRead m (sectOff m 7) 4
def cmGRef (m : Memory) : Nat := memRead m (sectOff m 7 + 4) 1
def cmGateOn (m : Memory) : Bool := bit (memRead m (sectOff m 7 + 5) 1) 0
def cmEvents (m : Memory) (e : Nat) : Nat := memRead m (sectOff m 7 + 24 + 8 * e) 8
def cmWx (m : Memory) : Nat := memRead m (sectOff m 7 + 16) 8

/-- T of CONTROL: the target of the commit gate. -/
def ctlTarget (m : Memory) : Nat := memRead m (sectOff m 6 + 8) 4

def badCmHead (m desc : Memory) : Bool :=
  let a := sectOff m 7
  !(decide (memRead m (a + 6) 2 = 0) && decide (memRead m (a + 12) 4 = 0) && decide (memRead m (a + 104) 24 = 0) && decide (1 ≤ cmSRef m) &&
    decide (cmGRef m < imgGroups m) && decide (memRead m (a + 5) 1 < 2) && decide (cmGateOn m = decide (ctlTarget m ≠ 0)) &&
    decide (memRead m (a + 8) 4 ≤ memRead desc 20 4) && decide (cmGroups m = imgGroups m))

/-- The superstep records of a group. -/
def cmStepsOf (m : Memory) (g : Nat) : List Nat :=
  ((List.range (cmSteps m)).map (cmStepAt m)).filter fun a => decide (memRead m a 1 = g)

/-- The most powered lines of any image tile of a group. -/
def groupLines (m desc : Memory) (g : Nat) : Nat :=
  (imgRecs m).foldl (fun n p => if groupOfTile desc (recTile m p) = g then max n (1024 * popCount (recBanks m p) 32) else n) 0

def badCmGroup (m desc : Memory) (k : Nat) : Bool :=
  let a := cmGroupAt m k
  let g := memRead m a 1
  let n := memRead m (a + 4) 4
  let l := memRead m (a + 40) 4
  let steps := cmStepsOf m g
  let sum (f : Nat → Nat) : Nat := steps.foldl (fun t x => t + f x) 0
  !(decide (memRead m (a + 1) 3 = 0) && decide (memRead m (a + 44) 20 = 0) && decide (g < imgGroups m) &&
    (List.range k).all (fun j => decide (memRead m (cmGroupAt m j) 1 ≠ g)) && (!decide (g = cmGRef m) || decide (n = cmSRef m)) &&
    decide (steps.length = n) && decide (memRead m (a + 8) 8 = sum fun x => memRead m (x + 8) 4) &&
    decide (memRead m (a + 16) 8 = sum fun x => memRead m (x + 12) 4) && decide (memRead m (a + 24) 8 = sum fun x => l + 64 - memRead m (x + 8) 4) &&
    decide (l = groupLines m desc g))

/-- N_g of a group. -/
def cmNg (m : Memory) (g : Nat) : Nat :=
  match (List.range (cmGroups m)).find? fun k => decide (memRead m (cmGroupAt m k) 1 = g) with
  | some k => memRead m (cmGroupAt m k + 4) 4
  | none => 0

def badCmStep (m : Memory) (k : Nat) : Bool :=
  let a := cmStepAt m k
  let g := memRead m a 1
  !(decide (memRead m (a + 1) 3 = 0) && decide (memRead m (a + 4) 4 < cmNg m g) &&
    (List.range k).all fun j => !(decide (memRead m (cmStepAt m j) 1 = g) && decide (memRead m (cmStepAt m j + 4) 4 = memRead m (a + 4) 4)))

/-- RECORD counts the group records, then the superstep records; the header reads 0 (DESIGN CHOICE). -/
def check12 (m desc : Memory) : Option ImgFail :=
  if badCmHead m desc then some ⟨12, sectIdx m 7, 0⟩
  else match firstBadRec m 12 7 (cmGroups m) (badCmGroup m desc) with
    | some f => some f
    | none => (firstBelow (cmSteps m) (badCmStep m)).map fun k => ⟨12, sectIdx m 7, cmGroups m + k⟩

/-- Binding `b` of a job descriptor, by its offset (R520). -/
def bindAt (b : Nat) : Nat := 256 + 64 * b
def descBinds (desc : Memory) : Nat := memRead desc 15 1
def bindPort (desc : Memory) (b : Nat) : Nat := memRead desc (bindAt b + 16) 1
def bindsPort (desc : Memory) (k : Nat) : Bool := (List.range (descBinds desc)).any fun b => decide (bindPort desc b = k)

/-- Byte `k` of REQUIREMENTS; all zero when it is absent. -/
def requires (m : Memory) (k : Nat) : Nat := match sectOf m 8 with | some x => memRead m (x.2.off + k) 1 | none => 0

def check13 (m desc : Memory) : Option ImgFail :=
  let claims := memRead desc 11 1
  if (List.range 7).all (fun k => decide (requires m k ≤ 3) && (decide (requires m k = 0) || bindsPort desc k)) &&
    (match requires m 7 with | 0 => true | 1 => bit claims 0 | 2 => bit claims 1 | _ => false) then none
  else some ⟨13, sectIdx m 8, 0⟩

/-- The lines of image tiles that relocation touches, (tile, line), without repeats (R572). -/
def relocated (m : Memory) : List (Nat × Nat) :=
  let lists := (List.range (sectCount m 3)).flatMap fun r =>
    (List.range (ceilDiv (xlEntries m r) 4)).map fun j => (xlTile m r, xlLine m r + j)
  let recs := (List.range (sectCount m 4)).flatMap fun r =>
    [(relTile m r, relOff m r / 64), (relTile m r, (relOff m r + relBytes (relKind m r) - 1) / 64)]
  (lists ++ recs).eraseDups

def check14 (m : Memory) (len : Nat) : Option ImgFail := if len + 64 * (relocated m).length ≤ slotBytes then none else some (headFail 14)

/-- The first failing image check of R577. -/
def imageFails (m desc : Memory) (len : Nat) : Option ImgFail :=
  (check1 m len).orElse fun _ => (check2 m len).orElse fun _ => (check3 m len).orElse fun _ => (check4 m).orElse fun _ =>
  (check5 m desc).orElse fun _ => (check6 m len).orElse fun _ => (check7 m).orElse fun _ => (check8 m).orElse fun _ =>
  (check9 m desc).orElse fun _ => (check10 m desc).orElse fun _ => (check11 m).orElse fun _ => (check12 m desc).orElse fun _ =>
  (check13 m desc).orElse fun _ => check14 m len

/-! ### The command -/

/-- The image checks of a context run once its slot holds the image, and its descriptor goes to admission (R576 Orders 3 and 4). -/
def State.imageChecks (s : State) (c : Nat) : State :=
  let x := s.ctx c
  match imageFails x.image x.desc x.imageLen with
  | none => s.toAdmission c (loadStatus 3 0 0 0)
  | some f => s.toAdmission c (loadStatus 4 f.check f.sect f.rec_)

def execImageChecks (ctx : Nat) (s : State) : Host.Outcome State Fault Refusal :=
  whenever (.imageChecks ctx) (decide ((s.ctx ctx).admitSt = .checking) && s.slotFilled ctx && !s.pln.fatal) s (s.imageChecks ctx)

end Sys2Proof.Machine
end

