-- ==== Sys2Proof/Machine/Admit.lean ====
section
/-! DEFINITION. Admission (R511, R518 to R525): the job descriptor, the tests in their order, and what a grant sets. -/

namespace Sys2Proof.Machine

/-! ### The job descriptor (R520) -/

/-- The claims byte's bits: 0 W_TWIN, 1 W_ZRING, 2 TIMER_WATCH, 3 ENERGY_METERED, 4 DEBUG_TRACE, 5 SMBUS_CARTRIDGE. -/
def jClaim (d : Memory) (i : Nat) : Bool := bit (memRead d 11 1) i
def jMode (d : Memory) : Nat := memRead d 8 1
def jRate (d : Memory) : Nat := memRead d 10 1
def jSets (d : Memory) : Nat := memRead d 12 2
def jGroups (d : Memory) : Nat := memRead d 14 1
def jBlocks (d : Memory) : Nat := memRead d 16 2
def jQueues (d : Memory) : Nat := memRead d 18 2
def jWatches (d : Memory) : Nat := memRead d 20 4
def jFrames (d : Memory) : Nat := memRead d 24 4
/-- Reservation and copy-on-write reserve in a half: 0 for D4, 1 for D5. -/
def jResv (d : Memory) (h : Nat) : Nat := memRead d (28 + 4 * h) 4
def jCow (d : Memory) (h : Nat) : Nat := memRead d (36 + 4 * h) 4
def jPwin (d : Memory) : Nat := memRead d 44 4
def jDeadline (d : Memory) : Nat := memRead d 48 8
def jEnergy (d : Memory) : Nat := memRead d 56 8
def jWindow (d : Memory) : Nat := if memRead d 84 1 = 0 then 10 else memRead d 84 1

/-- A refusal's DETAIL: [3:0] the kind, [15:4] what it says (R521). -/
def refusal (kind x : Nat) : Nat := kind + x % 2 ^ 12 * 2 ^ 4

/-- Reserved bytes are zero and every field lies in its range (R520). -/
def jobOk (d : Memory) (len : Nat) : Bool :=
  let nb := descBinds d
  let w := memRead d 84 1
  decide (len = 256 + 64 * nb) && decide (nb ≤ 7) && decide (memRead d 2 2 = 0) && decide (memRead d 85 11 = 0) && decide (memRead d 160 96 = 0) &&
    decide (jMode d ≤ 2) && decide (memRead d 9 1 < 2) && (decide (jRate d = 0) || (decide (4 ≤ jRate d) && decide (jRate d ≤ 12))) &&
    decide (memRead d 11 1 < 64) && decide (1 ≤ jSets d) && decide (jSets d ≤ 120) && decide (1 ≤ jGroups d) && decide (jGroups d ≤ 64) &&
    decide (jBlocks d ≤ 256) && decide (jQueues d ≤ 32768) && decide (jWatches d ≤ 65536) && decide (jFrames d ≤ 16777216) &&
    (decide (w = 0) || (decide (6 ≤ w) && decide (w ≤ 16))) &&
    (List.range 64).all (fun g => let x := memRead d (96 + g) 1
      if g < jGroups d then decide (1 ≤ x) && decide (x ≤ 120) else decide (x = 0)) &&
    decide ((List.range 64).foldl (fun t g => t + memRead d (96 + g) 1) 0 = jSets d) && decide (jCow d 0 ≤ jResv d 0) && decide (jCow d 1 ≤ jResv d 1) &&
    (decide (jPwin d + jCow d 1 ≤ jResv d 1) || decide (jPwin d + jCow d 0 ≤ jResv d 0)) &&
    (List.range nb).all fun b =>
      decide (bindPort d b ≤ 6) && decide (memRead d (bindAt b + 17) 1 ≤ 15) && decide (memRead d (bindAt b + 18) 2 = 0) &&
        decide (memRead d (bindAt b + 24) 40 = 0) && (List.range b).all fun j => decide (bindPort d j ≠ bindPort d b)

/-- The role of W that a job claims: 0 none, 1 twin, 2 Z-ring extension (R419, R520). -/
def jRole (d : Memory) : Nat := if jClaim d 0 then 1 else if jClaim d 1 then 2 else 0

/-- The port through which traffic of the job that names port `k` will leave, with the role that it claims (R420). -/
def Lnk.wireFor (l : Lnk) (d : Memory) (k : Nat) : Nat :=
  if jRole d = 0 then l.wire k else ({ l with wcfg := jRole d } : Lnk).wire k

/-- A bound port is Up at a version with the features that the job needs (R391, R521). -/
def State.linkOk (s : State) (x : Ctx) (k : Nat) : Bool :=
  let p := s.port (s.lnk.wireFor x.desc k)
  decide (p.st = .up) && decide (requires x.image k ≤ p.version + 1) && (!(decide (k = 6) && jClaim x.desc 0) || decide (2 ≤ p.version)) &&
    (!(decide (k = 1) && decide (jPwin x.desc ≠ 0)) || decide (1 ≤ p.version))

/-- Order 1 of R521: ADMIT_VERSION. -/
def State.admitVersion (s : State) (x : Ctx) : Option Nat :=
  if memRead x.desc 0 2 ≠ 1 then some (refusal 4 1)
  else if !jobOk x.desc x.descLen then some (refusal 4 2)
  else if x.loadStatus % 8 ≠ 3 then some (refusal 4 3)
  else ((List.range (descBinds x.desc)).find? fun b => !s.linkOk x (bindPort x.desc b)).map fun b => refusal 4 (4 + bindPort x.desc b * 2 ^ 4)

/-! ### Shareable resources (R518, R519) -/

/-- RAS_TRACE.OWNER (R505). -/
def Ras.traceOwner (r : Ras) : Nat := bits r.trace 39 2

/-- Some admitted context has r ≠ 0. -/
def State.shadowing (s : State) : Bool := s.ras.rates.any fun kv => decide (kv.2 ≠ 0) && decide ((s.ctx kv.1).st ≠ .idle)

/-- Order 2 of R521: ADMIT_RESOURCE_CONFLICT. -/
def State.admitConflict (s : State) (d : Memory) : Option Nat :=
  if (jClaim d 0 && jClaim d 1) || ((jClaim d 0 || jClaim d 1) && decide (s.lnk.wcfg / 4 % 32 ≠ 0x1F)) then some (refusal 3 1)
  else if jClaim d 2 && jClaim d 3 then some (refusal 3 2)
  else if (jClaim d 4 && (decide (jRate d ≠ 0) || decide (s.ras.traceOwner ≠ 0) || s.shadowing)) ||
      (decide (jRate d ≠ 0) && decide (s.ras.traceOwner = 2)) then some (refusal 3 3)
  else if jClaim d 5 && decide (s.pwr.smbus ≠ 0) then some (refusal 3 4)
  else none

/-! ### Capacity (R30, R344, R467, R522, R623) -/

/-- A tile set holds a tile that is marked for retirement, or is quarantined for want of room in the pending list (R480, R556). -/
def State.quarantined (s : State) (n : Nat) : Bool :=
  mget false s.ras.quarantine n || (tilesOf [n]).any fun t => s.ras.retire.any fun r => decide (r.phys = s.pln.siteOf t)

def State.setFree (s : State) (n : Nat) : Bool :=
  decide ((s.tset n).owner = 0x1F) && decide ((s.tset n).st = .idle) && !mget false s.pln.withheld n && !s.quarantined n

/-- Every tile set of a domain is Idle. -/
def State.tdomIdle (s : State) (k : Nat) : Bool := (List.range 10).all fun j => decide ((s.tset (10 * k + j)).st = .idle)

/-- Free tile sets that a job of a mode may take, in the order of R522. -/
def State.setsFor (s : State) (mode : Nat) : List Nat :=
  (below 120 fun n => s.setFree n && !s.tdomIdle (n / 10) && decide ((s.tdom (n / 10)).mode = mode)) ++
    below 120 fun n => s.setFree n && s.tdomIdle (n / 10)

/-- The tile sets granted, ascending. -/
def State.granted (s : State) (d : Memory) : List Nat :=
  let xs := (s.setsFor (jMode d)).take (jSets d)
  below 120 xs.contains

/-- Groups, counter blocks and queue descriptors that no owner holds, ascending. -/
def State.freeGroups (s : State) : List Nat := below 64 fun g => decide ((s.group g).owner = 0x1F)
def State.freeBlocks (s : State) : List Nat := below 1024 fun b => decide (mget 0x1F s.syu.owners b = 0x1F)
def State.freeQueues (s : State) : List Nat := below 32768 fun q => decide ((s.queue q).ctx = 0x1F)

/-- WATCH_LIMIT over the admitted contexts. -/
def State.watchSum (s : State) : Nat :=
  ((List.range 16).filter fun c => decide ((s.ctx c).st ≠ .idle)).foldl (fun n c => n + (s.ctx c).watchLimit) 0

/-- Runs of free places, (first, length), between `lo` and `hi`; the keys are those that are taken, ascending. -/
def freeRuns : List Nat → Nat → Nat → List (Nat × Nat)
  | [], lo, hi => if lo < hi then [(lo, hi - lo)] else []
  | k :: ks, lo, hi =>
    if k < lo then freeRuns ks lo hi
    else if hi ≤ k then (if lo < hi then [(lo, hi - lo)] else [])
    else (if lo < k then [(lo, k - lo)] else []) ++ freeRuns ks (k + 1) hi

/-- The first `n` places of a list of runs. -/
def takeRuns : List (Nat × Nat) → Nat → List Nat
  | [], _ => []
  | (a, l) :: rs, n => (List.range (min l n)).map (fun j => a + j) ++ takeRuns rs (n - l)

/-- Free context frames of a half, as runs (R344, R359). -/
def State.poolRuns (s : State) (h : Nat) : List (Nat × Nat) :=
  let n := s.pln.physFrames
  if s.isOn (4 + h) then freeRuns (s.hbm.frames.map fun kv => kv.1) (if h = 0 then 36864 else n / 2) (if h = 0 then n / 2 else n) else []

def runTotal (rs : List (Nat × Nat)) : Nat := rs.foldl (fun n r => n + r.2) 0

/-- Frames become held for a context. -/
def State.holdFrames (s : State) (c : Nat) (cow : Bool) (fs : List Nat) : State :=
  { s with hbm := { s.hbm with frames := fs.foldl (fun m f => mset .pool m f (.held c cow)) s.hbm.frames } }

/-- Step 2 of R623: the copy-on-write reserve, of the lowest free frames (DESIGN CHOICE). -/
def State.takeCow (s : State) (c : Nat) (d : Memory) : State :=
  let s1 := s.holdFrames c true (takeRuns (s.poolRuns 0) (jCow d 0))
  s1.holdFrames c true (takeRuns (s1.poolRuns 1) (jCow d 1))

/-- The half of the partner window (R623 step 3), and its first frame. -/
def pwinHalf (d : Memory) : Nat := if jPwin d + jCow d 1 ≤ jResv d 1 then 1 else 0
def State.pwinFirst (s : State) (d : Memory) : Option Nat :=
  ((s.poolRuns (pwinHalf d)).find? fun r => decide (jPwin d ≤ r.2)).map fun r => r.1

/-- The lowest BASE for a window (R623 step 1). -/
def State.windowBase (s : State) (frames : Nat) : Option Nat :=
  let wins := ((List.range 17).map fun c => ((s.ctx c).fmBase, (s.ctx c).fmFrames)).filter fun w => decide (w.2 ≠ 0)
  let ok (b : Nat) : Bool := decide (b + frames ≤ 16777216) && wins.all fun w => decide (b + frames ≤ w.1) || decide (w.1 + w.2 ≤ b)
  ((0 :: wins.map fun w => ceilDiv (w.1 + w.2) 64 * 64).filter ok).min?

/-- The pool that admission would grant: the recommended number of tile sets, as far as they are free behind the job's own (DESIGN
CHOICE of the number and the order). -/
def poolWanted (d : Memory) : Nat := min 4 (max 1 (ceilDiv (2 * 48 * jSets d) (48 * 2 ^ jRate d)))
def State.poolSets (s : State) (d : Memory) : List Nat :=
  ((s.setsFor (jMode d)).filter fun n => !(s.granted d).contains n).take (poolWanted d)

/-- A pool exists already. -/
def State.hasPool (s : State) : Bool := (List.range 120).any fun n => decide ((s.tset n).owner = 0x10)

/-- Order 3 of R521: ADMIT_CAPACITY. While D4, which holds the Frame Map, is not On no job is admitted (R345); that the refusal names HBM D4
is a DESIGN CHOICE (log entry 173). -/
def State.admitCapacity (s : State) (c : Nat) (d : Memory) : Option Nat :=
  if (s.setsFor (jMode d)).length < jSets d then some (refusal 6 1)
  else if s.freeGroups.length < jGroups d then some (refusal 6 2)
  else if s.freeBlocks.length < jBlocks d then some (refusal 6 3)
  else if 65536 < s.watchSum + jWatches d then some (refusal 6 4)
  else if s.freeQueues.length < jQueues d then some (refusal 6 5)
  else if !s.isOn 4 || runTotal (s.poolRuns 0) < jResv d 0 || (s.windowBase (jFrames d)).isNone ||
      (decide (jPwin d ≠ 0) && decide (pwinHalf d = 0) && ((s.takeCow c d).pwinFirst d).isNone) then some (refusal 6 6)
  else if runTotal (s.poolRuns 1) < jResv d 1 ||
      (decide (jPwin d ≠ 0) && decide (pwinHalf d = 1) && ((s.takeCow c d).pwinFirst d).isNone) then some (refusal 6 7)
  else if jRate d ≠ 0 && !s.hasPool && (s.poolSets d).isEmpty then some (refusal 6 8)
  else if !s.isOn 1 then some (refusal 6 9)
  else none

/-! ### Deadline and energy (R523 to R525) -/

/-- t_rel and t_gate at the worst corner of a mode, in ns (R213, R259). -/
def tRel (mode : Nat) : Nat := match mode with | 0 => 220 | 1 => 160 | _ => 140
def tGate (mode : Nat) : Nat := match mode with | 0 => 3200 | 1 => 2400 | _ => 2100

/-- f: the P0 rate of a mode in Msteps/s (R510, R513). -/
def State.rateP0 (s : State) (mode : Nat) : Nat := mget 0 s.pln.fuses.rates (5 * mode)
/-- Event energy of R514: fJ for classes 0 to 8, mW for 9 and 10. -/
def State.eventOf (s : State) (mode e : Nat) : Nat := mget 0 s.pln.fuses.events (11 * mode + e)

/-- T of R523 in ns, times f. -/
def State.jobTime (s : State) (m d : Memory) : Nat :=
  let f := s.rateP0 (jMode d)
  let each (k : Nat) : Nat :=
    let a := cmGroupAt m k
    (memRead m (a + 8) 8 + memRead m (a + 16) 8 + (if jRate d = 0 then 0 else memRead m (a + 24) 8)) * 1000
      + f * (memRead m (a + 4) 4 * tRel (jMode d) + memRead m (a + 32) 8)
  ((List.range (cmGroups m)).map each).foldl max 0 + f * (cmWx m + if cmGateOn m then tGate (jMode d) else 0)

/-- Order 5 of R521: ADMIT_DEADLINE. -/
def State.admitDeadline (s : State) (m d : Memory) : Option Nat :=
  let f := s.rateP0 (jMode d)
  let t := s.jobTime m d
  if jDeadline d = 0 || decide (t ≤ f * jDeadline d) then none else some (refusal 1 (min 0xFFF ((t - f * jDeadline d) / (1000 * f))))

/-- E of R524 in fJ, times f. -/
def State.jobEnergy (s : State) (m d : Memory) : Nat :=
  let mode := jMode d
  s.rateP0 mode * (List.range 9).foldl (fun n e => n + cmEvents m e * s.eventOf mode e) 0
    + 1000 * (s.eventOf mode 9 + s.eventOf mode 10) * jSets d * s.jobTime m d

/-- Module power of a mode in W (R5). -/
def modeWatts (mode : Nat) : Nat := match mode with | 0 => 1300 | 1 => 1750 | _ => 2000

/-- Σ P_c over the admitted contexts and a new one, in µW, as a fraction. -/
def State.powerSum (s : State) (num den : Nat) : Nat × Nat :=
  ((List.range 16).filter fun c => decide ((s.ctx c).st ≠ .idle)).foldl (fun x c =>
    (x.1 * (s.cp c).powerDen + (s.cp c).powerNum * x.2, x.2 * (s.cp c).powerDen)) (num, den)

/-- The pool sets that the grant takes with the job (R467). -/
def State.poolGrant (s : State) (d : Memory) : List Nat := if jRate d = 0 || s.hasPool then [] else s.poolSets d

/-- Tile sets that nobody holds once the job has its own and the pool has its. -/
def State.unheldAfter (s : State) (d : Memory) : Nat :=
  (below 120 fun n => decide ((s.tset n).owner = 0x1F)).length - jSets d - (s.poolGrant d).length

/-- The module passes with a new context of power `num / den` µW (R525). -/
def State.moduleOk (s : State) (d : Memory) (num den : Nat) : Bool :=
  let x := s.powerSum num den
  let sys := (s.pln.fuses.sysMw + s.unheldAfter d * (s.eventOf 0 9 + s.eventOf 0 10)) * 1000
  decide (s.pln.fuses.convPermille * (sys * x.2 + x.1) ≤ s.pwr.ceilingW * 1000000000 * x.2)

/-- Order 6 of R521: ADMIT_ENERGY. The mode is tested first (DEDUCED: it is refused for every job). -/
def State.admitEnergy (s : State) (m d : Memory) : Option Nat :=
  let e := s.jobEnergy m d
  if !bit s.pln.fuses.modesAllowed (jMode d) || decide (s.pwr.ceilingW < modeWatts (jMode d)) then some (refusal 2 3)
  else if jEnergy d ≠ 0 && decide (s.rateP0 (jMode d) * jEnergy d * 1000000000 < e) then some (refusal 2 1)
  else if !s.moduleOk d e (s.jobTime m d) then some (refusal 2 2)
  else none

/-! ### Equal reservations (R415) -/

/-- The bindings of a descriptor on ±Y. -/
def yBinds (d : Memory) : List Nat := (List.range (descBinds d)).filter fun b => decide (bindPort d b = 2) || decide (bindPort d b = 3)
def bindTag (d : Memory) (b : Nat) : Nat := memRead d (bindAt b + 20) 4

/-- The declaration of the Y peer of binding `b`. -/
def State.declared (s : State) (d : Memory) (b : Nat) : Option Reserve :=
  s.lnk.reserves.find? fun r => decide (s.lnk.named r.port = bindPort d b) && decide (r.tag = bindTag d b)

/-- The own declaration leaves on ±Y. -/
def State.sendReserves (s : State) (c : Nat) (d : Memory) : State :=
  (yBinds d).foldl (fun s b => s.mgmt (bindPort d b) 4 [bindTag d b, jResv d 0, jResv d 1]) (s.modCtx c fun x => { x with reserveAt := some s.now })

/-- Declarations that were compared are used up. -/
def State.useReserves (s : State) (d : Memory) : State :=
  let used (r : Reserve) : Bool := (yBinds d).any fun b => decide (s.lnk.named r.port = bindPort d b) && decide (r.tag = bindTag d b)
  { s with lnk := { s.lnk with reserves := s.lnk.reserves.filter fun r => !used r } }

/-- Order 4 of R521: ADMIT_MEMORY_IMBALANCE, every peer having declared. -/
def State.admitImbalance (s : State) (d : Memory) : Option Nat :=
  if (yBinds d).all (fun b => match s.declared d b with
      | some r => decide (r.d4 = jResv d 0) && decide (r.d5 = jResv d 1)
      | none => true) then none
  else some (refusal 5 1)

/-! ### Refusal and grant -/

/-- The ADMIT completes with REFUSED, and nothing else changes (R521). -/
def State.refuseJob (s : State) (c detail : Nat) : State :=
  let x := s.ctx c
  let s1 := s.modCtx c fun x => { x with admitSt := .none, admitCmd := none, reserveAt := none }
  match x.admitCmd.bind fun fk => s.cmd fk.1 fk.2 with
  | some k => s1.complete k 5 detail 0
  | none => s1

/-- Rail of a point in mV (R510). -/
def railOf (mode point : Nat) : Nat := (match mode with | 0 => 600 | 1 => 700 | _ => 780) - 10 * point

/-- The contexts with a non-Idle tile set in a tile domain. -/
def State.tdomCtxs (s : State) (k : Nat) : List Nat :=
  below 16 fun c => (List.range 10).any fun j => decide ((s.tset (10 * k + j)).owner = c) && decide ((s.tset (10 * k + j)).st ≠ .idle)

/-- Mode, domain point and rail of a tile domain after a change of its tile sets, of a request or of the forced point (R511). -/
def State.refreshTdom (s : State) (k : Nat) : State :=
  let t := s.tdom k
  if s.tdomIdle k then s.setTdom k { t with mode := 3, point := t.forced }
  else
    let cs := s.tdomCtxs k
    let mode := match cs with | c :: _ => (s.cp c).mode | [] => t.mode
    let req := ((cs.map fun c => (s.cp c).request).min?).getD 0
    let point := max req t.forced
    s.setTdom k { t with mode := mode, point := point, railMv := if s.isOn (6 + k) then railOf mode point else 0 }

def State.refreshTdoms (s : State) : State := (List.range 12).foldl (fun s k => s.refreshTdom k) s

/-- A context's tile energy is charged by share: it claims its event timers, or shares a domain with one that does (R516). -/
def State.refreshEstimates (s : State) : State :=
  (List.range 16).foldl (fun s c =>
    let shares := (List.range 12).any fun k => (s.tdomCtxs k).contains c && (s.tdomCtxs k).any fun e => (s.ctx e).timerOwned
    if (s.ctx c).st = .idle then s else s.setCp c { s.cp c with estimated := shares }) s

/-- The tile domain of a set goes On, after D18, which it needs (R59 to R61). -/
def State.powerSet (s : State) (n : Nat) : State := (s.domTo 18 2).domTo (6 + n / 10) 2

/-- The counts that run since the tile set last entered Loading start anew (R113, R151, R198). -/
def TileErr.atLoading (e : TileErr) : TileErr := { e with parCount := 0, mxeResidue := 0, vxeResidue := 0, cacheParCount := 0 }

/-- Tile sets go to a context, in ascending order from group 0 on, each domain powered up first (R61, R522). -/
def State.grantSets (s : State) (c : Nat) (d : Memory) (groups : List Nat) : State :=
  let sets := s.granted d
  let s1 := ((List.range sets.length).zip sets).foldl (fun s x =>
    let g := groups.getD (groupOfSet d x.1 64 0) 0
    (s.powerSet x.2).setTset x.2 { owner := c, group := g, st := .loading }) s
  { s1 with tiles := mvals {} (fun t x => if sets.contains (tsetOf t) then { x with err := x.err.atLoading } else x) s1.tiles }

/-- The pool for shadow runs (R467, R468, R471). No rule gives a pool set a sync group: GROUP of CTX_TSET_OWNER_n reads 0 (DESIGN
CHOICE, log entry 169). -/
def State.grantPool (s : State) (d : Memory) (sets : List Nat) : State :=
  if jRate d = 0 then s
  else
    let s1 := sets.foldl (fun s n =>
      let s' := (s.powerSet n).setTset n { owner := 0x10, group := 0, st := .running }
      s'.setTdom (n / 10) { s'.tdom (n / 10) with mode := jMode d }) s
    let pool := ((List.range sets.length).zip sets).foldl (fun v x => v + (x.2 + 128) * 2 ^ (8 * x.1)) 0
    { s1 with ras := { s1.ras with pool := if sets.isEmpty then s1.ras.pool else pool, trace := setBits s1.ras.trace 39 2 1 } }

/-- The frames of the mapping (R623 step 4): D4's first, then D5's. -/
def State.mapFrames (s : State) (d : Memory) : List Nat × List Nat :=
  let share (h : Nat) : Nat := jResv d h - jCow d h - if jPwin d ≠ 0 && decide (pwinHalf d = h) then jPwin d else 0
  (takeRuns (s.poolRuns 0) (share 0), takeRuns (s.poolRuns 1) (share 1))

/-- HBM of a granted job (R623). Reservation frames that are not mapped stay held: the next ones in order. MEM_PWIN_1 takes the new
window even where it still names one of another context (DESIGN CHOICE, log entry 172). -/
def State.grantHbm (s : State) (c : Nat) (d : Memory) : State :=
  let base := (s.windowBase (jFrames d)).getD 0
  let s1 := s.takeCow c d
  let s2 := if jPwin d = 0 then s1
    else
      let first := (s1.pwinFirst d).getD 0
      (s1.holdFrames c false ((List.range (jPwin d)).map fun j => first + j)).setPwin 1 { first := first, frames := jPwin d, ctx := c, lost := false }
  let fs := s2.mapFrames d
  let all := fs.1 ++ fs.2
  let s3 := s2.holdFrames c false all
  let peer := decide (descBinds d ≠ 0)
  let m := min (jFrames d) all.length
  let fmap := ((List.range m).zip all).foldl (fun fm x =>
    mset {} fm (base + x.1) { valid := true, rd := true, wr := true, peer := peer, ctx := c, pframe := x.2 }) s3.hbm.fmap
  let s4 : State := { s3 with hbm := { s3.hbm with fmap := fmap } }
  s4.modCtx c fun x =>
    { x with fmBase := base, fmFrames := jFrames d, cowD4 := jCow d 0, cowD5 := jCow d 1 }

/-- Bindings become PENDING, and BIND leaves on each (R394). -/
def State.grantBinds (s : State) (c : Nat) (d : Memory) : State :=
  (List.range (descBinds d)).foldl (fun s b =>
    let k := bindPort d b
    let e : Binding := { st := 1, peerCtx := memRead d (bindAt b + 17) 1, tag := bindTag d b, peerId := memRead d (bindAt b) 16, since := s.now }
    ((s.setBinding k c e).mgmt k 2 [c, e.peerCtx, e.tag, e.peerId]).tryBind k c) s

/-- Claimed resources (R518). -/
def State.grantClaims (s : State) (c : Nat) (d : Memory) : State :=
  { s with
    lnk := { s.lnk with wcfg := if jRole d = 0 then s.lnk.wcfg else jRole d + c * 4 }
    pwr := { s.pwr with smbus := if jClaim d 5 then 1 else s.pwr.smbus, smbusCtx := if jClaim d 5 then c else s.pwr.smbusCtx }
    ras := { s.ras with rates := mset 0 s.ras.rates c (jRate d), trace := if jClaim d 4 then setBits s.ras.trace 39 2 2 else s.ras.trace } }

/-- Sync groups, counters and queues of a job: the lowest free ones (DESIGN CHOICE). -/
def State.grantTables (s : State) (c : Nat) (d : Memory) : State :=
  let gs := s.freeGroups.take (jGroups d)
  let bs := s.freeBlocks.take (jBlocks d)
  let qs := s.freeQueues.take (jQueues d)
  let s1 := gs.foldl (fun s g => s.setGroup g { owner := c }) s
  let s2 := qs.foldl (fun s q => s.setQueue q { s.queue q with ctx := c }) s1
  let y : Syu := { s2.syu with owners := bs.foldl (fun m b => mset 0x1F m b c) s2.syu.owners,
                               wrapSeen := mdrop (fun p => bs.contains (p / 256)) s2.syu.wrapSeen }
  let s3 : State := { s2 with syu := y }
  s3.modCtx c fun x =>
    { x with groups := gs, queues := qs, blocks := jBlocks d, watchLimit := jWatches d, timerOwned := jClaim d 2, watchdogMs := memRead d 82 2
             pblocks := ((List.range bs.length).zip bs).foldl (fun m jb => mset 0 m jb.1 jb.2) [], wrapNear := false }

/-- The PWR registers of a context (R526, R536). -/
def State.grantPower (s : State) (c : Nat) (m d : Memory) : State :=
  s.setCp c
    { mode := jMode d, pin := bit (memRead d 9 1) 0, windowLog2 := jWindow d, deadline := jDeadline d, energy := jEnergy d, sRef := cmSRef m
      gRef := (s.ctx c).groups.getD (cmGRef m) 0, metered := jClaim d 3, powerNum := s.jobEnergy m d, powerDen := max 1 (s.jobTime m d)
      claims := memRead d 11 1 }

/-- Admission grants a job (R521, R576 Order 5). -/
def State.admitJob (s : State) (c : Nat) : State :=
  let x := s.ctx c
  let d := x.desc
  let pool := s.poolGrant d
  let s1 := (s.grantTables c d).modCtx c fun x =>
    { x with st := .loading, admitSt := .loading, loadStatus := loadStatus 5 0 0 0, reserveAt := none, complete := false, ended := none
             teardownCmds := [], tableValid := false }
  let s2 := s1.grantPower c x.image d
  let s3 := (s2.grantSets c d (s2.ctx c).groups).grantPool d pool
  (((((s3.grantHbm c d).grantClaims c d).refreshTdoms).refreshEstimates).stateEvent c .loading).grantBinds c d

end Sys2Proof.Machine
end

