-- ==== Sys2Proof/Machine/Relocate.lean ====
section
/-! DEFINITION. Loading an image (R567 to R573, R576 Orders 6 and 7): device tiles, relocation, the memory and configuration of each
tile through its load copies, the queue descriptors, the TEL registers, and the repair copy (R572). -/

namespace Sys2Proof.Machine

/-- dev(i): the logical tile of image tile i on the granted tile sets (R567). -/
def devTile (sets : List Nat) (i : Nat) : Nat := 48 * sets.getD (i / 48) 0 + i % 48

/-- What relocation needs: the granted tile sets, and the values of VALUE32. -/
structure RelEnv where
  sets : List Nat
  jobTag : Nat
  ctx : Nat
  coord : Nat
  pln : Pln

def State.relEnv (s : State) (c : Nat) : RelEnv :=
  { sets := s.tsetsOf c, jobTag := memRead (s.ctx c).desc 4 4, ctx := c, coord := s.lnk.coord % 2 ^ 24, pln := s.pln }

/-- A relocated exchange entry (R570). -/
def RelEnv.entry (v : RelEnv) (w : Nat) : Nat :=
  let t := devTile v.sets (xlPeer w)
  if bits w 0 4 = 1 then setBits (setBits w 61 13 t) 96 13 (v.pln.siteOf t) else setBits w 40 13 t

/-- A relocated field (R571). -/
def RelEnv.field (v : RelEnv) (kind arg x : Nat) : Nat :=
  match kind with
  | 1 => setBits x 21 13 (devTile v.sets (bits x 21 13))
  | 2 => setBits x 0 13 (devTile v.sets (bits x 0 13))
  | _ => match arg with | 1 => v.jobTag | 2 => v.ctx | _ => v.coord

/-- The memory with the declared list of record `r` relocated, if it lies in image tile `i`. -/
def RelEnv.list (v : RelEnv) (m : Memory) (i : Nat) (t : Memory) (r : Nat) : Memory :=
  if xlTile m r = i then
    (List.range (xlEntries m r)).foldl (fun t e =>
      let a := 64 * xlLine m r + 16 * e
      memWrite t a 16 (v.entry (memRead t a 16))) t
  else t

/-- The memory with relocation record `r` applied, if its field lies in image tile `i`. -/
def RelEnv.reloc (v : RelEnv) (m : Memory) (i : Nat) (t : Memory) (r : Nat) : Memory :=
  let n := relBytes (relKind m r)
  if relTile m r = i then memWrite t (relOff m r) n (v.field (relKind m r) (relArg m r) (memRead t (relOff m r) n)) else t

/-- The memory of image tile `i`, its placements being `t`, with every list and field relocated (R570 to R572). -/
def RelEnv.relocate (v : RelEnv) (m : Memory) (i : Nat) (t : Memory) : Memory :=
  (List.range (sectCount m 4)).foldl (v.reloc m i) ((List.range (sectCount m 3)).foldl (v.list m i) t)

/-! ### Load copies (R578) -/

/-- The placements of image tile `i`. -/
def placesOf (m : Memory) (i : Nat) : List Place3 := match recOf m i with | some p => recPlacements m p | none => []

/-- The load copy of one placement: a descriptor of the firmware system context, whose source lies in the staging slot. A line lands with
its poison mark (R363); a source that a slice refuses gives one record, and nothing of the placement is copied (R353). -/
def State.loadCopy (s : State) (c t : Nat) (x : Place3) : State :=
  let va := s.slotAddr c x.off
  match s.runRefused 16 va x.lines 2 pfQueue false with
  | some (a, code, detail) => s.raise { code := code, ctxFatal := true, ctx := 16, addr := a, detail := detail }
  | none =>
    match s.takeLines ((List.range x.lines).map fun j => s.physLine 16 (va + 64 * j) false) with
    | (s1, ls) => ((List.range x.lines).zip ls).foldl (fun s l => s.modTile t fun y => y.putLine (x.line + l.1) l.2.1 l.2.2) s1

/-- The configuration of a tile (R568, R569): X is cleared. -/
def tileCfgOf (m : Memory) (seed p : Nat) : TileCfg :=
  { bankPwr := recBanks m p, startLine := (List.range 4).foldl (fun x t => mset 0 x t (recStart m p t)) []
    regions := (List.range 32).foldl (fun x n => mset 0 x n (recRegion m p n % 2 ^ 45)) []
    tags := (List.range 16).foldl (fun x n => mset 0 x n (recTag m p n)) [], seed := seed }

/-- One tile is loaded: its configuration, then its relocated placements (R572, R576 Order 6). Error counts that run since reset stay. -/
def State.loadTile (s : State) (c i : Nat) : State :=
  let x := s.ctx c
  let t := devTile (s.tsetsOf c) i
  match recOf x.image i with
  | none => s
  | some p =>
    let s1 := s.modTile t fun y => { cfg := tileCfgOf x.image (memRead x.desc 64 16) p, err := y.err, timerMode := x.timerOwned }
    ((placesOf x.image i).foldl (fun s y => s.loadCopy c t y) s1).modTile t fun y => { y with mem := (s.relEnv c).relocate x.image i y.mem }

/-- Queue descriptor `n` from QUEUES record `r` (R573). -/
def State.loadQueue (s : State) (c r n : Nat) : State :=
  let m := (s.ctx c).image
  let a := qAt m r
  let kind := memRead m a 1
  let addr := memRead m (a + 8) 8
  let sets := s.tsetsOf c
  s.modQueue n fun q =>
    { q with addr := if gSpace addr = 1 then setBits addr 21 13 (devTile sets (gTile addr)) else addr, l := memRead m (a + 3) 1, ownerKind := kind
             ownerId := if kind = 0 then devTile sets (memRead m (a + 4) 4) else memRead m (a + 4) 4, ctx := c, maxLines := memRead m (a + 1) 1
             openAtStart := bit (memRead m (a + 2) 1) 0, state := 0 }

/-- The TEL registers from CONTROL (R574). -/
def telOf (m : Memory) : Tel :=
  let a := sectOff m 6
  { gateCfg := memRead m a 8, target := memRead m (a + 8) 4, scaleCfg := memRead m (a + 16) 8 % 2 ^ 49, recordAddr := memRead m (a + 24) 8 % 2 ^ 56
    blockMapAddr := memRead m (a + 32) 8 % 2 ^ 56, calipersCfg := memRead m (a + 40) 4 % 2 ^ 17, noiseCfg := memRead m (a + 48) 8 % 2 ^ 48
    ringBase := memRead m (a + 56) 8 % 2 ^ 56, ringCtrl := memRead m (a + 64) 4 % 2 ^ 6 }

/-- Orders 6 and 7 of R576. -/
def State.loadImage (s : State) (c : Nat) : State :=
  let m := (s.ctx c).image
  let s1 := (List.range (imgTiles m)).foldl (fun s i => s.loadTile c i) s
  let qs := (s.ctx c).queues
  let s2 := ((List.range qs.length).zip qs).foldl (fun s x => s.loadQueue c x.1 x.2) s1
  s2.setTel c (telOf m)

/-- The image tile that a logical tile runs for its context. -/
def State.imageTile (s : State) (t : Nat) : Nat :=
  48 * ((s.tsetsOf (s.tset (tsetOf t)).owner).filter fun n => decide (n < tsetOf t)).length + t % 48

/-- The memory of image tile `i` as the staging slot of context `c` holds it, relocated: the repair copy (R572). -/
def State.repairMem (s : State) (c i : Nat) : Memory :=
  let m := (s.ctx c).image
  (s.relEnv c).relocate m i ((placesOf m i).foldl (fun t x => (List.range x.lines).foldl (fun t j =>
    memWrite t (64 * (x.line + j)) 64 (s.hbmLine (s.physLine 16 (s.slotAddr c (x.off + 64 * j)) false))) t) [])

/-- Line `l` of tile `t` is rewritten from the repair copy, by a read of Armature core 0 through its slice (R102 Order 3, R351, R363); a
line that no placement covers holds zero (R568). -/
def State.repairLine (s : State) (t l : Nat) : State :=
  let c := (s.tset (tsetOf t)).owner
  let i := s.imageTile t
  match (placesOf (s.ctx c).image i).find? fun x => decide (x.line ≤ l) && decide (l < x.line + x.lines) with
  | none => s.modTile t fun y => y.putLine l 0 false
  | some x =>
    let va := s.slotAddr c (x.off + 64 * (l - x.line))
    match s.sliceTest 16 va 6 0 false false false with
    | some (code, detail) => s.raise { code := code, ctxFatal := true, ctx := 16, addr := va, detail := detail }
    | none =>
      match s.takeLine (s.physLine 16 va false) with
      | (s1, _, p) => s1.modTile t fun y => y.putLine l (memRead (s1.repairMem c i) (64 * l) 64) p

end Sys2Proof.Machine
end

