-- ==== Sys2Proof/Machine/Superstep.lean ====
section
/-! DEFINITION. The superstep (R45 to R49, R88, R101 to R105, R248, R261, R466 to R470, R474, R529): a tile signals, a group's
synchronisation completes and the next superstep is released, samples are drawn, and a tile reruns its superstep. -/

namespace Sys2Proof.Machine

/-! ### Samples (R466 to R470) -/

/-- Pool tile sets that RAS_SHADOW_POOL names, in its order (R505). -/
def Ras.poolSets (r : Ras) : List Nat := ((List.range 4).filter fun j => bit r.pool (8 * j + 7)).map fun j => bits r.pool (8 * j) 7

/-- A pool tile takes shadow runs: it is neither removed, nor marked, nor is its set quarantined for a mark (R476, R480, R556). -/
def State.poolGood (s : State) (t : Nat) : Bool :=
  !mget false s.ras.removed t && !(s.ras.retire.any fun r => decide (r.phys = s.pln.siteOf t)) && !mget false s.ras.quarantine (tsetOf t)

/-- A pool tile that can take a run: a good one, neither running one nor promised to a sample (R467). -/
def State.poolFree (s : State) (t : Nat) : Bool :=
  (s.tile t).shadow.isNone && s.poolGood t &&
    !s.ras.samples.any fun x => (decide (x.pool = t) && x.poolDigest.isNone) || (decide (x.arbiter = some t) && x.arbDigest.isNone)

/-- The lowest-numbered free pool tile. -/
def State.freePool (s : State) : Option Nat := ((tilesOf s.ras.poolSets).filter s.poolFree).min?

/-- Entries of the trace buffer. DESIGN CHOICE: an entry takes 128 frames. -/
def Ras.traceEntries (r : Ras) : Nat := bits r.trace 24 15 / 128

/-- The lowest entry that no sample has. -/
def Ras.freeEntry (r : Ras) : Option Nat := firstBelow r.traceEntries fun n => !r.samples.any fun x => decide (x.entry = n)

/-- The tile-superstep is sampled (R466). -/
def State.sampled (s : State) (c g t : Nat) : Bool :=
  let r := mget 0 s.ras.rates c
  decide (r ≠ 0) && decide (grain s.ras.seed (s.group g).superstep t (64 * c + g) < 2 ^ (32 - r))

/-- Order 1 of R469 for one tile, or a missed sample (R473). -/
def State.drawSample (s : State) (c g t : Nat) : State :=
  if !s.sampled c g t then s
  else
    let s1 := { s with ras := { s.ras with sampled := satAdd s.ras.sampled 1 0xFFFFFFFFFFFFFFFF } }
    match s.freePool, s.ras.freeEntry with
    | some p, some n =>
      if s.ras.traceOwner = 1 then
        let x : Sample := { id := s.nextId, entry := n, tile := t, ctx := c, group := g, superstep := (s.group g).superstep, image := s.tile t, log := []
                            own := none, pool := p, loaded := false, poolDigest := none, arbiter := none, arbDigest := none, mismatch := false }
        { s1.modTile t (fun y => { y with cap := some s.nextId, digest := {} }) with
          nextId := s.nextId + 1, ras := { s1.ras with samples := s1.ras.samples ++ [x] } }
      else { s1 with ras := { s1.ras with missed := satAdd s1.ras.missed 1 0xFFFFFFFFFFFFFFFF } }
    | _, _ => { s1 with ras := { s1.ras with missed := satAdd s1.ras.missed 1 0xFFFFFFFFFFFFFFFF } }

/-! ### Release of a superstep (R45, R102, R120, R158) -/

/-- A thread at the release. A tile with a fill operation in hand saves once that is finished. -/
def Tile.releaseThread (t : Tile) (n : Nat) : Tile :=
  t.modThread n fun th =>
    { th with st := if th.st = .halted then .halted else .issuing, saved := if t.rerun.late then th.saved else t.save n, outOps := 0,
              suppressOut := 0, countOps := 0, suppressCount := 0, votes := [] }

/-- Every thread of the tile has halted (R88). -/
def Tile.allHalted (t : Tile) : Bool := (List.range 4).all fun n => decide ((t.thread n).st = .halted)

/-- The rerun state at a release: that of a fill operation in hand lasts, with its counts and lines of R104, until the operation is
finished, which it is before any operation of the superstep that is released (R47, R105, R267; DEDUCED, log entry 135). -/
def Rerun.atRelease (r : Rerun) : Rerun :=
  match r.current with
  | some d => if d.fill then { r with late := true } else {}
  | none => {}

def Tile.release (t : Tile) : Tile :=
  { (List.range 4).foldl Tile.releaseThread { t with rerun := t.rerun.atRelease } with phase := .compute, xList := [], xLoaded := false }

/-- The superstep that the group's number names is released at every tile: ring headers first (R332), then the threads; a tile whose
threads have all halted enters its exchange phase at once (R261). -/
def State.releaseGroup (s : State) (c g : Nat) : State :=
  let ts := s.groupTiles g
  let s1 := ts.foldl State.ringRelease s
  let s2 := ts.foldl (fun s t => s.modTile t Tile.release) s1
  let s3 := ts.foldl (fun s t => s.drawSample c g t) s2
  let s4 := s3.setGroup g { s3.group g with releasedAt := s.now }
  (ts.filter fun t => (s4.tile t).allHalted).foldl State.enterExchange s4

/-! ### TILE_SIGNAL (R248, R469 Order 3) -/

/-- Fill work that the tile has to finish before it signals is finished (R268). -/
def Tile.fillReady (t : Tile) : Bool := !t.fillView.fillSwap && (!t.xDrain || t.fillView.fillDone)

def State.canSignal (s : State) (t : Nat) : Bool :=
  let x := s.tile t
  s.tileRuns t && x.shadow.isNone && decide (x.phase = .exchange) && x.xLoaded && !x.rerun.pending && !x.rerun.late && s.captured t && x.fillReady &&
    x.xList.all fun e => decide (e.st = .done)

/-- The rerun whose outcome the signal decides: not that of a fill operation, which ends on its own (R105). -/
def State.endRerun (s : State) (t : Nat) : State :=
  match (s.tile t).rerun.current with
  | some d => if d.fill then s else s.rerunOk t
  | none => s

def State.tileSignal (s : State) (t : Nat) : State :=
  let c := s.tileCtx t
  ((((s.modTile t Tile.fillView).endRerun t).ringSignal t).sendPatina t c).modTile t fun x => { x with phase := .signalled }

def execTileSignal (tile : Nat) (s : State) : Host.Outcome State Fault Refusal :=
  whenever (.tileSignal tile) (s.canSignal tile) s (s.tileSignal tile)

/-! ### SYNCHRONISATION_COMPLETE (R261, R529) -/

/-- A domain holds releases now: for up to half of each 1 ms (R530). DESIGN CHOICE: the first half. -/
def State.holdsNow (s : State) (k : Nat) : Bool := (s.tdom k).held && decide (s.now % ticksMs 1 < ticksUs 500)

/-- Every tile of the group has signalled, and no domain holds releases (R530, R531). -/
def State.canSync (s : State) (g : Nat) : Bool :=
  let x := s.group g
  decide (x.owner < 16) && decide ((s.ctx x.owner).st = .running) && !x.complete && !s.pln.fatal &&
    (s.groupTiles g).all fun t => decide ((s.tile t).phase = .signalled) && !s.holdsNow (tdomOf t)

/-- Nanoseconds of the 100 MHz reference, saturating in 32 bits. -/
def ns32 (ticks : Nat) : Nat := min (10 * ticks) 0xFFFFFFFF

/-- A job step has ended at this release of g_ref (R529). -/
def CtxPwr.jobStep (x : CtxPwr) (now : Nat) : CtxPwr :=
  let d := 10 * (now - x.stepSince)
  let y := { x with lastNs := min d 0xFFFFFFFF, worstNs := max x.worstNs (min d 0xFFFFFFFF), stepSince := now }
  if x.deadline ≠ 0 && decide (x.deadline < d) then
    { y with misses := satAdd x.misses 1 0xFFFFFFFF, winMisses := x.winMisses + 1, winExcess := max x.winExcess (d - x.deadline) }
  else y

/-- The stamp of a release of g_ref. -/
def State.stampRef (s : State) (c g : Nat) : State :=
  let x := s.cp c
  if x.gRef = g && decide (x.sRef ≠ 0) && decide ((s.group g).superstep % x.sRef = 0) then s.setCp c (x.jobStep s.now) else s

/-- The context's job completes when all of its groups are complete. -/
def State.jobDone (s : State) (c : Nat) : State :=
  if (s.ctx c).groups.all fun g => (s.group g).complete then (s.modCtx c fun x => { x with complete := true }).startTeardown c none else s

/-- The number rises and the next superstep is released; a group whose tiles have all halted is complete, and its number stops. -/
def State.syncComplete (s : State) (g : Nat) : State :=
  let x := s.group g
  let c := x.owner
  let times := { x with superstepNs := ns32 (s.now - x.releasedAt), exchangeNs := ns32 (s.now - x.lastEntry) }
  if (s.groupTiles g).all fun t => (s.tile t).allHalted then (s.setGroup g { times with complete := true }).jobDone c
  else ((s.setGroup g { times with superstep := x.superstep + 1 }).stampRef c g).releaseGroup c g

def execSynchronisationComplete (group : Nat) (s : State) : Host.Outcome State Fault Refusal :=
  whenever (.synchronisationComplete group) (s.canSync group) s (s.syncComplete group)

/-! ### SUPERSTEP_RERUN (R102, R105, R474) -/

def State.canRerun (s : State) (t : Nat) : Bool :=
  let x := s.tile t
  s.tileRuns t && x.rerun.pending && (x.rerun.fillOnly || (x.pendingLines.isEmpty &&
    (List.range 4).all fun n => (x.thread n).main.ticketsIdle && (x.thread n).fill.ticketsIdle))

/-- Order 4 for thread `n`, with the counts of R103 and R222. -/
def Tile.restoreThread (t : Tile) (n : Nat) : Tile :=
  let sv := (t.thread n).saved
  let t1 := t.modThread n fun th =>
    { th with main := sv.regs, st := if sv.halted then .halted else .issuing, suppressOut := th.outOps + th.suppressOut, outOps := 0
              suppressCount := th.countOps + th.suppressCount, countOps := 0 }
  let put {α : Type} [DecidableEq α] (d : α) (m sv : SMap α) (w : Nat) : SMap α :=
    sv.foldl (fun m kv => mset d m kv.1 kv.2) (mdrop (fun k => decide (k / w = n)) m)
  { t1 with blocks := put {} t.blocks sv.blocks 4, cache := put 0 t.cache sv.cache 16, norms := put {} t.norms sv.norms 4 }

/-- The operand-cache entry of a detection holds what the release saved of it, with right parity (R105, R160). -/
def Tile.restoreEntry (t : Tile) (d : Detection) : Tile :=
  if d.kind = .cache then
    { t with cache := mset 0 t.cache d.place (mget 0 (t.thread (d.place / 16)).saved.cache d.place)
             err := { t.err with badCache := mdrop (fun e => decide (e = d.place)) t.err.badCache } }
  else t

/-- The tile at the start of its rerun; a capture starts its digest again. Every operand-cache entry is restored with its
parity (R160), or, when a fill operation reruns alone, the entry that failed. -/
def Tile.restore (t : Tile) : Tile :=
  let r := { t.rerun with pending := false, count := t.rerun.count + 1 }
  if t.rerun.fillOnly then
    let t1 := match t.rerun.current with | some d => t.restoreEntry d | none => t
    { t1 with rerun := { r with fillOnly := false } }
  else { (List.range 4).foldl Tile.restoreThread t with phase := .compute, digest := {}, rerun := r, err := { t.err with badCache := [] } }

/-- The sample's shadow run, if one has begun, is void, and the tile captures again: entries of operations that are issued again are
replaced, the others stay (R474). -/
def Sample.again (x : Sample) : Sample :=
  { x with log := x.log.map LogEnt.restart, own := none, loaded := false, poolDigest := none, arbiter := none, arbDigest := none
           mismatch := false }

def State.restartLog (s : State) (t : Nat) : State :=
  match s.ras.samples.find? fun x => decide (x.tile = t) && decide (x.superstep = s.superstepOf t) with
  | none => s
  | some x =>
    let r := { s.ras with samples := s.ras.samples.map fun y => if y.id = x.id then x.again else y }
    { s with ras := r, tiles := mvals {} (fun n y =>
        if y.shadow = some x.id then { cfg := {}, err := y.err } else if n = t then { y with cap := some x.id } else y) s.tiles }

/-- Order 3: a fetch line is rewritten from the repair copy. -/
def State.repair (s : State) (t : Nat) : State :=
  match (s.tile t).rerun.current with
  | some d =>
    match d.kind with
    | .parity => if (s.tile t).fetchLine d.place then s.repairLine t d.place else s
    | _ => s
  | none => s

def State.rerun (s : State) (t : Nat) : State :=
  let s1 := s.repair t
  (if (s.tile t).rerun.fillOnly then s1 else s1.restartLog t).modTile t Tile.restore

def execSuperstepRerun (tile : Nat) (s : State) : Host.Outcome State Fault Refusal :=
  whenever (.superstepRerun tile) (s.canRerun tile) s (s.rerun tile)

end Sys2Proof.Machine
end

