-- ==== Sys2Proof/Machine/Sync.lean ====
section
/-! DEFINITION. Counters and watches (R275 to R308): CINC, CWATCH and CREAD, the arrival of items at the SYU, update
windows, notifications, timeouts, the deadlock watchdog, and management registrations. -/

namespace Sys2Proof.Machine

/-! ### The counter table -/

/-- The physical counter of a virtual ID (R276). -/
def State.phys (s : State) (c vid : Nat) : Nat := mget 0 (s.ctx c).pblocks (vid / 256) * 256 + vid % 256

/-- The watch is active: it has not ended in the window in progress. -/
def Watch.active (w : Watch) : Bool := w.ended.isNone

/-- Active watches of a context (R292). -/
def Syu.watchesOf (y : Syu) (c : Nat) : Nat := (y.watches.filter fun w => w.active && decide (w.reg.ctx = c)).length

/-- The check of a counter operand: its reason of R107 (R43, R281). `peer` allows space 0x2. -/
def State.checkCounter (s : State) (c a n : Nat) (peer : Bool) : Option Nat :=
  if gReserved a then some 1
  else if !gZeroOk a then some 2
  else if gSpace a = 3 then (if (List.range n).all (fun i => s.vidOk c (gVid a + i)) then none else some 4)
  else if peer && decide (gSpace a = 2) && decide (gPeerSpace a = 3) && s.reaches c (gPort a) then none
  else some 4

/-! ### CINC (R281, R282, R208) -/

/-- The tile gate at a CINC to GATE (R208). -/
def Tile.contribute (t : Tile) : Tile :=
  match t.gate with
  | .off => t
  | .opened => { t with gate := .wait }
  | .wait => t
  | .commit => { t with gate := .wait, gateStep := t.gateStep + 1 }
  | .skip => { t with gate := .wait, gateStep := t.gateStep + 1 }

/-- A CINC to GATE sends the pending Patina counts first (R210); a pool tile sends nothing. -/
def State.contribute (s : State) (o : Op) (a : Nat) : State :=
  if gSpace a = 3 && decide (gVid a = bits (s.tel o.ctx).gateCfg 0 16) && decide ((s.tile o.tile).gate ≠ .off) then
    (if (s.tile o.tile).shadow.isSome then s.modTile o.tile fun t => { t with patina := [] } else s.sendPatina o.tile o.ctx).modTile
      o.tile Tile.contribute
  else s

/-- The increment of a CINC enters VC1. -/
def State.sendInc (s : State) (o : Op) (a : Nat) : State :=
  (s.sendSyu (.tile o.tile) o.ctx (some o.who) none 0
    (if gSpace a = 3 then .inc (gVid a) (wLen o.w) else .remote a (wLen o.w))).flushRemote

def cincEffect (s : State) (o : Op) : Eff :=
  match s.outside o o.d (wLen o.w) 8 with
  | (sup, s1) =>
    let s2 := s1.asyncTicket o sup
    .done (if sup then (if (s.tile o.tile).shadow.isSome then s2.contribute o o.d else s2) else (s2.contribute o o.d).sendInc o o.d)

def cincSpec : OpSpec :=
  { enc := fun _ o =>
      { opd := .mem, fields := decide (wFmt o.w = 0) && decide (wAux o.w = 0) && decide (1 ≤ wLen o.w) && decide (wLen o.w ≤ 16) }
    accs := fun s o => [{ fld := 0, foot := 8, reach := .global (s.checkCounter o.ctx o.d 1 true) }]
    effect := cincEffect }

def execCinc (tile thread : Nat) (w : BitVec 128) (s : State) : Host.Outcome State Fault Refusal :=
  runOp (.cinc tile thread w) tile thread w cincSpec s

/-! ### CWATCH (R286, R294) -/

/-- The expected value (R286 FMT[2]). -/
def cwatchExpect (s : State) (o : Op) : Nat :=
  if bit (wFmt o.w) 2 then o.pre.getK (wOpb o.w) + wLen o.w else (s.tile o.tile).narrow o.b 8

def cwatchOwn (s : State) (o : Op) : Option Chk :=
  match fillIllegal s o with
  | some c => some c
  | none => if wAux o.w ≠ 0 && !(s.ctx o.ctx).timerOwned then some ⟨0x0503, counterAddr (gVid o.a), wAux o.w⟩ else none

/-- The registration of a CWATCH. -/
def cwatchReg (s : State) (o : Op) : WReg :=
  { ctx := o.ctx, vid := gVid o.a, cmp := bits (wFmt o.w) 0 2, expect := cwatchExpect s o, t := wAux o.w
    dest := .cwatch o.who (o.d / 64), bank := none, hostCmd := none }

def cwatchEffect (s : State) (o : Op) : Eff :=
  let r := cwatchReg s o
  match s.outside o o.a r.expect 8 with
  | (sup, s1) =>
    let s2 := s1.asyncTicket o sup
    if sup then .done s2
    else
      let s3 := s2.sendSyu (.tile o.tile) o.ctx (some o.who) none 0 (.reg r)
      .done (if r.t = 0 then s3
             else s3.modTile o.tile fun t => { t with timers := t.timers ++ [(s2.nextId, s.now + 2 ^ r.t)] })

def cwatchSpec : OpSpec :=
  { enc := fun _ o =>
      { tkt := .required, opd := .mem, opa := .mem, opb := if bit (wFmt o.w) 2 then .idx 3 else .mem
        fields := decide (wFmt o.w < 8) && decide (wAux o.w < 32) && (bit (wFmt o.w) 2 || decide (wLen o.w = 0)) }
    accs := fun s o =>
      [{ fld := 0, foot := 64, reach := .tile 1 64 false true },
       { fld := 1, foot := 8, reach := .global (s.checkCounter o.ctx o.a 1 false) }] ++
      (if bit (wFmt o.w) 2 then [] else [{ fld := 2, foot := 8, reach := .tile 1 8 true false, consumer := 4 }])
    own := cwatchOwn
    effect := cwatchEffect }

def execCwatch (tile thread : Nat) (w : BitVec 128) (s : State) : Host.Outcome State Fault Refusal :=
  runOp (.cwatch tile thread w) tile thread w cwatchSpec s

/-! ### CREAD (R297) -/

/-- The reads of a CREAD enter VC1, one for each counter. -/
def State.sendReads (s : State) (o : Op) (rd vid : Nat) : Nat → Nat → State
  | 0, _ => s
  | n + 1, i => (s.sendSyu (.tile o.tile) o.ctx (some o.who) none 0 (.read (vid + i) rd i)).sendReads o rd vid n (i + 1)

def creadEffect (s : State) (o : Op) : Eff :=
  let line := o.d / 64
  if (s.tile o.tile).shadow.isSome then
    .done ((s.modTile o.tile fun t => { t with pendingLines := t.pendingLines ++ [(0, o.thread, line)] }).takeTicket o)
  else
    let rd := s.nextId
    let r : CReadOp := { id := rd, who := o.who, line := line, n := wLen o.w, vals := [], served := 0, stamp := s.stampNow }
    let s1 := { s.modTile o.tile (fun t => { t with pendingLines := t.pendingLines ++ [(rd, o.thread, line)] }) with
                nextId := rd + 1, syu := { s.syu with creads := s.syu.creads ++ [r] } }
    .done ((s1.sendReads o rd (gVid o.a) (wLen o.w) 0).takeTicket o)

def creadSpec : OpSpec :=
  { enc := fun _ o =>
      { opd := .mem, opa := .mem
        fields := decide (wFmt o.w = 0) && decide (wAux o.w = 0) && decide (1 ≤ wLen o.w) && decide (wLen o.w ≤ 8) }
    accs := fun s o =>
      [{ fld := 0, foot := 64, reach := .tile 1 64 false true },
       { fld := 1, foot := 8 * wLen o.w, reach := .global (s.checkCounter o.ctx o.a (wLen o.w) false) }]
    effect := creadEffect }

def execCread (tile thread : Nat) (w : BitVec 128) (s : State) : Host.Outcome State Fault Refusal :=
  runOp (.cread tile thread w) tile thread w creadSpec s

/-! #### Packets of a slice of the SYU in VC2 (R51)

Notifications and values of a CREAD that one slice sends to one destination arrive in the order in which they were sent. The values of
one CREAD may come from several slices, and its line is written with the last of them, so what is known of a value is kept: a later
packet of its slice that has arrived shows that it has arrived too. -/

/-- Where a notification goes: a tile, a TEL block, the host interface, or the translation slice of an address in HBM. -/
def Notif.place (n : Notif) : Nat × Nat :=
  match n.reg.dest with
  | .cwatch w _ => (0, w.tile)
  | .global a => if gSpace a = 0 then (3, gFrame a % 64) else (0, gTile a)
  | .tel => (1, n.reg.ctx)
  | .host => (2, 0)

/-- The slice of the SYU that sends a notification. -/
def State.notifSlice (s : State) (n : Notif) : Nat := s.counterSlice n.reg.ctx n.reg.vid

/-- Every value of the CREAD has been sent, and each that may not have arrived was sent by one of the packets' slices before them. -/
def CReadOp.before (r : CReadOp) (tile : Nat) (ps : List (Nat × Nat)) : Bool :=
  decide (r.who.tile = tile) && decide (r.served = r.n) && r.packets.all fun p => ps.any fun q => decide (p.1 = q.1) && decide (p.2 < q.2)

/-- The packets of one tile, by slice and number, that no earlier packet of their slice precedes. -/
def State.tileNext (s : State) (tile : Nat) (ps : List (Nat × Nat)) : Bool :=
  !(s.syu.notifs.any fun n => decide (n.place = (0, tile)) && ps.any fun q => decide (s.notifSlice n = q.1) && decide (n.id < q.2)) &&
    !s.syu.creads.any fun r => r.before tile ps

/-- The packets have arrived at the tile, and with them the values that their slices sent it before. -/
def Syu.arrived (y : Syu) (tile : Nat) (ps : List (Nat × Nat)) : Syu :=
  { y with creads := y.creads.map fun r =>
      if r.who.tile = tile then
        { r with packets := r.packets.filter fun p => !ps.any fun q => decide (p.1 = q.1) && decide (p.2 < q.2) }
      else r }

/-- The values that the SYU served arrive at the tile (R297). -/
def State.cread (s : State) (rd : Nat) : Option CReadOp := s.syu.creads.find? fun r => decide (r.id = rd) && decide (r.served = r.n)

/-- Nothing that its slices sent the tile before lies before the CREAD's values (R51). -/
def State.canCread (s : State) (rd : Nat) : Bool :=
  !s.pln.fatal && (s.cread rd).any fun r => s.tileNext r.who.tile r.packets

def State.creadResult (s : State) (rd : Nat) : State :=
  match s.cread rd with
  | none => s
  | some r =>
    let v := packElems 64 ((List.range r.n).map fun i => mget 0 r.vals i)
    let s1 := { s with syu := { s.syu with creads := s.syu.creads.filter fun x => !decide (x.id = rd) }.arrived r.who.tile r.packets }
    let s2 := s1.modTile r.who.tile fun t =>
      { t.putLine r.line v false with pendingLines := t.pendingLines.filter fun p => !decide (p.1 = rd) }
    ((s2.logInput r.who.tile (.cread r.who.thread r.who.opIndex r.line v)).freeTicket r.who true).flushRemote

def execCreadResult (read : Nat) (s : State) : Host.Outcome State Fault Refusal :=
  whenever (.creadResult read) (s.canCread read) s (s.creadResult read)

/-! ### Arrival at the SYU (R285, R305) -/

def State.syuIn (s : State) (i : Nat) : Option SyuItem := s.syu.inbound.find? fun x => decide (x.id = i)

/-- An item can arrive: nothing of its source lies before it, and nothing holds it (R51, R53). -/
def State.canArrive (s : State) (i : Nat) : Bool :=
  match s.syuIn i with
  | none => false
  | some x => decide (x.port = 7) && s.firstOfSource x && !s.holdsItem x && !s.pln.fatal

/-- An increment that fails the check of R285: discarded, answered, recorded. A host SIGNAL completes with the record (R445). -/
def State.refuseInc (s : State) (x : SyuItem) : State :=
  let running := (s.ctx x.ctx).tableValid
  let r := counterInvalid x running
  let s1 := s.answerPeer x.id 6 (if running then 2 else 3)
  (s1.faultCmd x.hostCmd r).raise r

/-- What arrival does with an item. -/
def State.arriveSyu (s : State) (i : Nat) : State :=
  match s.syuIn i with
  | none => s
  | some x =>
    let s1 := { s with syu := { s.syu with inbound := s.syu.inbound.filter fun y => !decide (y.id = i) } }
    let s2 := { s1 with syu := { s1.syu with accepted := s1.syu.accepted ++ [x] } }
    match x.body with
    | .inc v _ => if s.vidOk x.ctx v then s2 else s1.refuseInc x
    | .reg r =>
      if s.vidOk x.ctx r.vid then s2
      else s1.regResult x.id r (if (s.ctx x.ctx).tableValid then 2 else 5) 0
    | _ => if s.vidOk x.ctx x.vid then s2 else s1

def execIncrementArrival (item : Nat) (s : State) : Host.Outcome State Fault Refusal :=
  whenever (.incrementArrival item) (s.canArrive item) s (s.arriveSyu item)

/-! ### Update windows (R288, R289, R296) -/

/-- The comparison of R288. -/
def watchHolds (cmp c x : Nat) : Bool :=
  let d := sext 64 ((c + 2 ^ 64 - x % 2 ^ 64) % 2 ^ 64)
  match cmp with
  | 0 => decide (0 ≤ d) | 1 => decide (0 < d) | 2 => decide (c = x) | _ => decide (c ≠ x)

/-- SYU_STORAGE_UNCORRECTABLE (R278). -/
def syuBad (ctx n watch : Nat) : FaultRec := { code := 0x0B07, ctxFatal := true, ctx := ctx, detail := n + watch * 2 ^ 18 }

/-- The notification of a watch that has ended is on its way (R289, R291). -/
def State.sendNotif (s : State) (w : Watch) (v : Nat) (timeout : Bool) : State :=
  let n : Notif := { id := s.nextId, item := w.item, reg := w.reg, slot := w.slot, observed := v, timeout := timeout, stamp := s.stampNow }
  { s with nextId := s.nextId + 1, syu := { s.syu with notifs := s.syu.notifs ++ [n] } }

/-- Where a watch's record locates it (R287). -/
def State.watchLoc (s : State) (w : WReg) (r : FaultRec) : FaultRec :=
  match w.dest with
  | .cwatch who _ => { r with locValid := true, tile := who.tile, superstep := s.superstepOf who.tile, opIndex := who.opIndex }
  | _ => r

/-- The record is written; IN_FILL of the thread whose CWATCH it was (R273). -/
def State.watchFault (s : State) (w : WReg) (r : FaultRec) : State :=
  match w.dest with
  | .cwatch who _ => (s.noteThread who.tile who.thread who.fill).raise (s.watchLoc w r)
  | _ => s.raise r

/-- The lowest free watch slot; a watch keeps its slot until its notification has left (R289, R292). DESIGN CHOICE (log entry 162): R292
does not say which free slot a registration takes. -/
def Syu.freeSlot (y : Syu) : Option Nat := firstBelow 65536 fun n => !y.watches.any fun w => decide (w.slot = n)

/-- The destination of a management registration is valid (R293). -/
def State.destOk (s : State) (c : Nat) (d : WDest) : Bool :=
  match d with
  | .global a =>
    decide (a % 64 = 0) && gZeroOk a &&
      ((decide (gSpace a = 0) && decide (gFrame a < (s.ctx c).fmFrames)) ||
       (decide (gSpace a = 1) && decide (gTile a < 5760) && decide ((s.tset (tsetOf (gTile a))).owner = c)))
  | _ => true

/-- WATCH_CAPACITY, or STATUS 3 of a management registration (R292, R305). -/
def State.watchFull (s : State) (id : Nat) (r : WReg) (noSlot : Nat) : State :=
  if r.bank.isSome || r.hostCmd.isSome then s.regResult id r 3 0
  else s.watchFault r { code := 0x0502, ctxFatal := true, ctx := r.ctx, addr := counterAddr r.vid,
                        detail := s.syu.watchesOf r.ctx + noSlot * 2 ^ 17 }

/-- Accepting a registration (R289, R292, R305); a teardown that began in this window has invalidated the table (R303 Order 1). The slot
is written anew, so an error that its storage held is gone (R278). -/
def State.acceptReg (s : State) (x : SyuItem) (r : WReg) (p : Nat) : State :=
  if !(s.ctx r.ctx).tableValid then s.regResult x.id r 5 0
  else if !s.destOk r.ctx r.dest then s.regResult x.id r 4 0
  else
    match s.syu.freeSlot with
    | some n =>
      if (s.ctx r.ctx).watchLimit ≤ s.syu.watchesOf r.ctx then s.watchFull x.id r 0
      else
        let w : Watch := { slot := n, item := x.id, phys := p, reg := r, since := s.now }
        ({ s with syu := { s.syu with watches := s.syu.watches ++ [w], badSlots := mset none s.syu.badSlots n none } }).regResult x.id r 1 n
    | none => s.watchFull x.id r 1

/-- A watch ends with the value `v` when `cond` holds of it; it keeps its slot until the window's end. -/
def Watch.endIf (w : Watch) (cond : Bool) (v : Nat) (timeout : Bool) : Watch :=
  if w.active && cond then { w with ended := some (v, timeout) } else w

/-- The active watches on counter `p` that hold at value `v` end (R289). -/
def State.evaluate (s : State) (p v : Nat) : State :=
  let f (w : Watch) : Watch := w.endIf (decide (w.phys = p) && watchHolds w.reg.cmp v w.reg.expect) v false
  { s with syu := { s.syu with watches := s.syu.watches.map f } }

/-- An applied increment (R280, R283, R300): the counter, WRAP_NEAR, the ticket, the peer's ACK, the host command. -/
def State.applyInc (s : State) (x : SyuItem) (p vid amt : Nat) : State :=
  let v := mget 0 s.syu.counters p
  let v' := (v + amt) % 2 ^ 64
  let s1 := { s with syu := { s.syu with counters := mset 0 s.syu.counters p v' } }
  let s2 := if decide (v < 2 ^ 62) && decide (2 ^ 62 ≤ v') && !mget false s.syu.wrapSeen p then
      ({ s1 with syu := { s1.syu with wrapSeen := mset false s1.syu.wrapSeen p true } }.setCtx x.ctx
        { s1.ctx x.ctx with wrapNear := true }).raise { code := 0x0506, ctx := x.ctx, addr := counterAddr vid, detail := vid }
    else s1
  let s3 := (match x.who with | some w => s2.freeTicket w false | none => s2).answerPeer x.id 5 0
  match x.hostCmd with
  | some (f, n) => (match s3.cmd f n with | some k => s3.complete k 0 0 0 | none => s3)
  | none => s3

/-- The value of counter `p`. -/
def State.counter (s : State) (p : Nat) : Nat := mget 0 s.syu.counters p

/-- Value `i` of a CREAD leaves the slice that serves it, as packet `num`. -/
def CReadOp.served1 (r : CReadOp) (i v slice num : Nat) : CReadOp :=
  { r with vals := mset 0 r.vals i v, served := r.served + 1, packets := r.packets ++ [(slice, num)] }

/-- One item of step 1 of a window (R296). -/
def State.windowItem (s : State) (x : SyuItem) (p : Nat) : State :=
  match x.body with
  | .inc vid amt => (s.applyInc x p vid amt).evaluate p ((s.counter p + amt) % 2 ^ 64)
  | .reg r => (s.acceptReg x r p).evaluate p (s.counter p)
  | .read _ rd i =>
    { s with nextId := s.nextId + 1
             syu := { s.syu with creads := s.syu.creads.map fun r =>
               if r.id = rd then r.served1 i (s.counter p) (p / 256 % 64) s.nextId else r } }
  | _ => s

/-- Step 2: the timeout requests for watches that are still active. -/
def State.windowTimeouts (s : State) (p : Nat) (xs : List SyuItem) : State :=
  let items := xs.filterMap fun x => match x.body with | .tmo _ w => some w | _ => none
  let f (w : Watch) : Watch := w.endIf (decide (w.phys = p) && items.contains w.item) (s.counter p) true
  { s with syu := { s.syu with watches := s.syu.watches.map f } }

/-- Insertion in ascending slot order. -/
def insertBySlot (w : Watch) : List Watch → List Watch
  | [] => [w]
  | x :: xs => if w.slot ≤ x.slot then w :: x :: xs else x :: insertBySlot w xs

/-- The accepted items of physical counter `p`. -/
def State.windowOf (s : State) (p : Nat) : List SyuItem :=
  s.syu.accepted.filter fun x => decide (s.phys x.ctx x.vid = p)

/-- The storage of the counter is uncorrectable (R278): the record of its owner. -/
def State.badCounter (s : State) (p ctx : Nat) : Option FaultRec :=
  if mget none s.syu.badCounters p = some true then some (syuBad ctx p 0) else none

/-- The storage of the watch is uncorrectable. -/
def State.badSlot (s : State) (w : Watch) : Bool := decide (mget none s.syu.badSlots w.slot = some true)

/-- The storage of the counter or of a watch on it is uncorrectable (R278). -/
def State.syuError (s : State) (p ctx : Nat) : Option FaultRec :=
  match s.badCounter p ctx with
  | some r => some r
  | none => (s.syu.watches.find? fun w => decide (w.phys = p) && s.badSlot w).map fun w => syuBad w.reg.ctx w.slot 1

/-- A single-bit error of a counter is corrected on read and counted (R278). -/
def State.counterFix (s : State) (p : Nat) : State :=
  if mget none s.syu.badCounters p = some false then
    { s with syu := { s.syu with secded := satAdd s.syu.secded 1 0xFFFFFFFF, badCounters := mset none s.syu.badCounters p none } }
  else s

/-- The same of a watch slot. -/
def State.slotFix (s : State) (n : Nat) : State :=
  if mget none s.syu.badSlots n = some false then
    { s with syu := { s.syu with secded := satAdd s.syu.secded 1 0xFFFFFFFF, badSlots := mset none s.syu.badSlots n none } }
  else s

/-- The same of the watches on counter `p` and of the counter. -/
def State.syuFix (s : State) (p : Nat) : State :=
  (s.syu.watches.filter fun w => decide (w.phys = p)).foldl (fun s w => s.slotFix w.slot) (s.counterFix p)

/-- The end of a window of counter `p`: the watches that ended in it leave in ascending slot order (R289, R296), without a
notification when their context's table has become invalid (R303 Order 2). -/
def State.windowEnd (s : State) (p : Nat) : State :=
  let done := s.syu.watches.filter fun w => decide (w.phys = p) && !w.active
  (done.foldr insertBySlot []).foldl
    (fun s w => match w.ended with
      | some (v, timeout) => if (s.ctx w.reg.ctx).tableValid then s.sendNotif w v timeout else s
      | none => s)
    { s with syu := { s.syu with watches := s.syu.watches.filter fun w => !(decide (w.phys = p) && !w.active) } }

/-- The items of counter `p` are no longer accepted ones. -/
def State.takeWindow (s : State) (p : Nat) : State :=
  { s with syu := { s.syu with accepted := s.syu.accepted.filter fun x => !decide (s.phys x.ctx x.vid = p) } }

/-- A window that meets an uncorrectable storage error (R278): the owner's teardown refuses what it had accepted (R303 Order 1). What no
teardown has refused, in the firmware system context, is refused in the same way; nothing of the window is applied. DESIGN CHOICE (log
entry 163). -/
def State.windowFails (s : State) (p : Nat) (r : FaultRec) : State :=
  let s1 := s.raise r
  (s1.windowOf p).foldl State.refuseEnded (s1.takeWindow p)

/-- One update window of counter `p` (R296). -/
def State.window (s : State) (p : Nat) : State :=
  let xs := s.windowOf p
  match s.syuError p ((xs.map fun x => x.ctx).headD 0x1F) with
  | some r => s.windowFails p r
  | none => (((xs.foldl (fun s x => s.windowItem x p) ((s.takeWindow p).syuFix p)).windowTimeouts p xs).windowEnd p).afterOrder7

def execUpdateWindow (counter : Nat) (s : State) : Host.Outcome State Fault Refusal :=
  whenever (.updateWindow counter) (!(s.windowOf counter).isEmpty && !s.pln.fatal) s (s.window counter)

/-! ### Notifications (R290 to R293) -/

def State.notif (s : State) (n : Nat) : Option Notif := s.syu.notifs.find? fun x => decide (x.id = n)

/-- The notification record (R291). -/
def Notif.record (n : Notif) : Nat :=
  n.observed + n.reg.expect % 2 ^ 64 * 2 ^ 64 + (if n.timeout then 2 else 1) * 2 ^ 128 + n.reg.vid * 2 ^ 160 + n.reg.cmp * 2 ^ 176
    + n.reg.ctx * 2 ^ 184 + n.slot * 2 ^ 192

/-- NOTIFY_WRITE_REFUSED for a destination in tile memory (R293): the reason, if the write is refused. -/
def State.notifyRefused (s : State) (a : Nat) : Option Nat :=
  let t := s.tile (gTile a)
  let l := gOff a / 64
  if !t.powered l then some 1 else if !t.dmaOk l then some 2 else none

/-- A notification reaches its destination. A refused write is recorded without a location (R287, R293). -/
def State.notify (s : State) (n : Notif) : State :=
  let s1 := { s with syu := { s.syu with notifs := s.syu.notifs.filter fun x => !decide (x.id = n.id) } }
  match n.reg.dest with
  | .cwatch who line =>
    let s2 := s1.landLine who.tile line n.record false false
    (s2.modTile who.tile fun t => { t with timers := t.timers.filter fun x => !decide (x.1 = n.item) }).freeTicket who false
  | .global a =>
    if gSpace a = 0 then s1.issueMem (.notif n.reg.vid) .syu n.reg.ctx a true false [(n.record, false)]
    else
      match s.notifyRefused a with
      | none => s1.landLine (gTile a) (gOff a / 64) n.record false false
      | some r => s1.raise { code := 0x0507, ctxFatal := true, ctx := n.reg.ctx, addr := a, detail := gOff a / 64 + r * 2 ^ 15 }
  | .tel => s1.setTel n.reg.ctx { s1.tel n.reg.ctx with gateMet := true, watching := false }
  | .host =>
    match n.reg.hostCmd with
    | some (f, k) =>
      (match s1.cmd f k with
        | some c => s1.complete c 0 0 (n.observed + (if n.timeout then 2 else 1) * 2 ^ 64)
        | none => s1)
    | none => s1

/-- A notification at a tile shows that what its slice sent the tile before has arrived. -/
def State.notifArrived (s : State) (x : Notif) : State :=
  match x.place with
  | (0, t) => { s with syu := s.syu.arrived t [(s.notifSlice x, x.id)] }
  | _ => s

def State.applyNotif (s : State) (n : Nat) : State :=
  match s.notif n with
  | some x => ((s.notifArrived x).notify x).flushRemote.afterOrder7
  | none => s

/-- Nothing that its slice sent to the same destination before lies before the notification (R51). -/
def State.notifNext (s : State) (x : Notif) : Bool :=
  match x.place with
  | (0, t) => s.tileNext t [(s.notifSlice x, x.id)]
  | d => !s.syu.notifs.any fun n => decide (n.place = d) && decide (s.notifSlice n = s.notifSlice x) && decide (n.id < x.id)

/-- The notification can arrive. -/
def State.canNotify (s : State) (n : Nat) : Bool := !s.pln.fatal && (s.notif n).any s.notifNext

def execWatchNotification (notif : Nat) (s : State) : Host.Outcome State Fault Refusal :=
  whenever (.watchNotification notif) (s.canNotify notif) s (s.applyNotif notif)

/-! ### Timeouts and the deadlock watchdog (R294, R295, R301, R302) -/

/-- The counter that the CWATCH behind registration item `i` names. -/
def State.watchVid (s : State) (i : Nat) : Option Nat :=
  match s.syu.watches.find? fun w => decide (w.item = i) with
  | some w => some w.reg.vid
  | none =>
    match (s.syu.inbound ++ s.syu.accepted).find? fun x => decide (x.id = i) with
    | some x => some x.vid
    | none => (s.syu.notifs.find? fun n => decide (n.item = i)).map fun n => n.reg.vid

/-- The tile's event timer has expired for the CWATCH whose registration is item `i`. -/
def State.timerDue (s : State) (t i : Nat) : Bool :=
  (s.tile t).timers.any fun x => decide (x.1 = i) && decide (x.2 ≤ s.now)

/-- The timeout request leaves (R295). -/
def State.timerExpires (s : State) (t i : Nat) : State :=
  let s1 := s.modTile t fun x => { x with timers := x.timers.filter fun y => !decide (y.1 = i) }
  match s.watchVid i with
  | some v => s1.sendSyu (.tile t) (s.tileCtx t) none none 0 (.tmo v i)
  | none => s1

def execWatchTimeout (tile item : Nat) (s : State) : Host.Outcome State Fault Refusal :=
  whenever (.watchTimeout tile item) (s.timerDue tile item && !s.pln.fatal) s (s.timerExpires tile item)

/-- The active watch in slot `n`. -/
def State.watchAt (s : State) (n : Nat) : Option Watch := s.syu.watches.find? fun w => w.active && decide (w.slot = n)

/-- The SYU's own timer for a watch that no CWATCH registered (R295). -/
def State.mgmtDue (s : State) (n : Nat) : Bool :=
  match s.watchAt n with
  | none => false
  | some w => decide (w.reg.t ≠ 0) && decide (w.since + 2 ^ w.reg.t ≤ s.now) &&
      (match w.reg.dest with | .cwatch _ _ => false | _ => true) &&
      !s.syu.accepted.any fun x => match x.body with | .tmo _ i => decide (i = w.item) | _ => false

def State.mgmtExpires (s : State) (n : Nat) : State :=
  match s.watchAt n with
  | none => s
  | some w =>
    let x : SyuItem := { id := s.nextId, src := .syu, ctx := w.reg.ctx, who := none, hostCmd := none, tag := 0, body := .tmo w.reg.vid w.item,
                         stamp := s.stampNow }
    { s with nextId := s.nextId + 1, syu := { s.syu with accepted := s.syu.accepted ++ [x] } }

def execManagementWatchTimeout (slot : Nat) (s : State) : Host.Outcome State Fault Refusal :=
  whenever (.managementWatchTimeout slot) (s.mgmtDue slot && !s.pln.fatal) s (s.mgmtExpires slot)

/-- WATCHDOG_MS, 0 taken as 1 (R301). -/
def State.watchdogMs (s : State) (c : Nat) : Nat := max 1 (s.ctx c).watchdogMs

def State.deadlocked (s : State) (n : Nat) : Bool :=
  match s.watchAt n with
  | none => false
  | some w => decide (w.reg.t = 0) && decide (w.since + ticksMs (s.watchdogMs w.reg.ctx) ≤ s.now)

/-- WATCH_DEADLOCK (R301, R302); the watchdog reads the watch and its counter, and finds what their storage holds (R278). -/
def State.deadlock (s : State) (n : Nat) : State :=
  match s.watchAt n with
  | none => s
  | some w =>
    let late : FaultRec := { code := 0x0501, ctxFatal := true, ctx := w.reg.ctx, addr := counterAddr w.reg.vid
                             detail := (w.reg.expect % 2 ^ 64 + 2 ^ 64 - mget 0 s.syu.counters w.phys) % 2 ^ 32 }
    if s.badSlot w then s.raise (syuBad w.reg.ctx n 1)
    else match s.badCounter w.phys w.reg.ctx with
    | some r => s.raise r
    | none => ((s.slotFix n).counterFix w.phys).watchFault w.reg late

def execDeadlockWatchdog (slot : Nat) (s : State) : Host.Outcome State Fault Refusal :=
  whenever (.deadlockWatchdog slot) (s.deadlocked slot && !s.pln.fatal) s (s.deadlock slot)

/-! ### Management registrations (R293, R305) -/

/-- The source of a bank: an Armature core or the Plinth controller. -/
def bankSrc (b : Nat) : Src := if b < 16 then .arm b else .plinth

/-- The registration that a bank submits with a value of SYU_WATCH_CFG. -/
def bankReg (w : WBank) (b v : Nat) : WReg :=
  { ctx := bits v 16 5, vid := bits v 0 16, cmp := bits v 21 2, expect := w.expect, t := bits v 23 5, dest := .global w.dest
    bank := some b, hostCmd := none }

/-- A write of SYU_WATCH_CFG with GO (R305). -/
def State.submitWatch (s : State) (b v : Nat) : State :=
  let w := mget {} s.syu.banks b
  let s1 := { s with syu := { s.syu with banks := mset {} s.syu.banks b { w with cfg := bits v 0 28, busy := some s.nextId } } }
  s1.sendSyu (bankSrc b) (bits v 16 5) none none 0 (.reg (bankReg w b v))

def execManagementWatchRegistration (bank value : Nat) (s : State) : Host.Outcome State Fault Refusal :=
  whenever (.managementWatchRegistration bank value) (bit value 31 && !s.pln.fatal && s.isOn 18) s
    ((s.access (if bank < 16 then 2 else 1) 0x300010).submitWatch bank value)

end Sys2Proof.Machine
end

