-- ==== Sys2Proof/Machine/Tel.lean ====
section
/-! DEFINITION. The TEL block (R205 to R234): the commit gate, Patina totals, Calipers windows, the noise estimate, the numerics
record and the telemetry ring. -/

namespace Sys2Proof.Machine

/-! ### Configuration fields (R235 to R239) -/

def Tel.gateVid (t : Tel) : Nat := bits t.gateCfg 0 16
def Tel.nfVid (t : Tel) (n : Nat) : Nat := bits t.gateCfg (if n % 2 = 0 then 16 else 32) 16
def Tel.decideVid (t : Tel) : Nat := bits t.gateCfg 48 16
def Tel.eMin (t : Tel) : Int := sext 8 (bits t.scaleCfg 8 8)
def Tel.eMax (t : Tel) : Int := sext 8 (bits t.scaleCfg 16 8)
def Tel.growInterval (t : Tel) : Nat := bits t.scaleCfg 24 16
def Tel.skipLimit (t : Tel) : Nat := bits t.scaleCfg 40 8
def Tel.skipEnable (t : Tel) : Bool := bit t.scaleCfg 48
def Tel.noiseEnable (t : Tel) : Bool := bit t.calipersCfg 16
def Tel.ringOn (t : Tel) : Bool := bit t.ringCtrl 5
def Tel.ringL (t : Tel) : Nat := bits t.ringCtrl 0 5

/-! ### Counts and reports (R221, R225) -/

/-- The item is the first of its tile on the way to the TEL block (R51). -/
def State.telItem (s : State) (i : Nat) : Option TelItem :=
  match s.telItems.find? fun x => decide (x.id = i) with
  | none => none
  | some x => if s.telItems.any (fun y => decide (y.tile = x.tile) && decide (y.id < i)) then none else some x

def State.dropTel (s : State) (i : Nat) : State := { s with telItems := s.telItems.filter fun x => !decide (x.id = i) }

/-- Totals of 64 bits. -/
def Patina.plus (a b : Patina) : Patina :=
  { total := (a.total + b.total) % 2 ^ 64, zero := (a.zero + b.zero) % 2 ^ 64, saturated := (a.saturated + b.saturated) % 2 ^ 64
    nonfinite := (a.nonfinite + b.nonfinite) % 2 ^ 64 }

def addTotals (t c : SMap Patina) : SMap Patina := c.foldl (fun t kv => mmod {} t kv.1 fun p => p.plus kv.2) t

/-- Counts for the open step, or for the one after it; late counts belong to the open step (R207, R213 Order 4, R221). -/
def Tel.counts (t : Tel) (step : Nat) (c : SMap Patina) : Tel :=
  if t.step < step then { t with nextTotals := addTotals t.nextTotals c } else { t with totals := addTotals t.totals c }

def State.canCounts (s : State) (i : Nat) : Bool :=
  !s.pln.fatal && match s.telItem i with | some x => (match x.body with | .counts _ _ => true | _ => false) | none => false

def State.receiveCounts (s : State) (i : Nat) : State :=
  match s.telItem i with
  | some x => (match x.body with
    | .counts n c => ((s.dropTel i).setTel x.ctx ((s.tel x.ctx).counts n c)).flushRemote
    | _ => s)
  | none => s

def execPatinaCountsReceive (item : Nat) (s : State) : Host.Outcome State Fault Refusal :=
  whenever (.patinaCountsReceive item) (s.canCounts item) s (s.receiveCounts item)

/-- A window exponent is clamped at the close of a step (R226). -/
def clampW (w : Int) : Int := max (-1100) (min w 1000)

/-- The window exponent in force: W_INIT for step 0, as it stands even outside the range of R238 (DESIGN CHOICE, log entry 181); a window
that no report has reached keeps it, clamped since the first close (R226). -/
def Tel.windowW (t : Tel) (x : Caliper) : Int :=
  let w := sext 16 (bits t.calipersCfg 0 16)
  if x.wset then x.w else if t.step = 0 then w else clampW w

/-- One contribution (R225). -/
def Caliper.apply (x : Caliper) (w : Int) (v : FVal) (count : Nat) (nonfinite : Bool) : Caliper :=
  let y := { x with count := (x.count + count) % 2 ^ 64, nonfinite := x.nonfinite || nonfinite || v.nonFinite }
  match v with
  | .fin _ m e =>
    let q := roundAt .rtz m e w
    let y1 := { y with sticky := y.sticky || !magLe m e q w }
    if 2 ^ 128 ≤ y1.v + q then { y1 with v := 2 ^ 128 - 1, saturated := true } else { y1 with v := y1.v + q }
  | _ => y

def State.canReport (s : State) (i : Nat) : Bool :=
  !s.pln.fatal && match s.telItem i with | some x => (match x.body with | .calipers _ _ _ _ _ => true | _ => false) | none => false

def State.receiveReport (s : State) (i : Nat) : State :=
  match s.telItem i with
  | some x => (match x.body with
    | .calipers layer q v n nf =>
      let t := s.tel x.ctx
      let c := mget {} t.calipers (8 * layer + q)
      ((s.dropTel i).setTel x.ctx { t with calipers := mset {} t.calipers (8 * layer + q) (c.apply (t.windowW c) (decodeF fp64 v) n nf) }).flushRemote
    | _ => s)
  | none => s

def execCalipersReport (item : Nat) (s : State) : Host.Outcome State Fault Refusal :=
  whenever (.calipersReport item) (s.canReport item) s (s.receiveReport item)

/-! ### The decision (R213 to R215) -/

/-- The watch on GATE for the open step (R205, R211). -/
def State.telWatch (s : State) (c : Nat) : State :=
  let t := s.tel c
  let r : WReg := { ctx := c, vid := t.gateVid, cmp := 0, expect := (t.step + 1) * t.target % 2 ^ 64, t := 0, dest := .tel
                    bank := none, hostCmd := none }
  (s.setTel c { t with watching := true, gateMet := false }).sendSyu (.tel c) c none none 0 (.reg r)

/-- Votes counted for step `n`: the NF counter against its base (R213 Order 2). -/
def State.nfValue (s : State) (c n : Nat) : Nat := mget 0 s.syu.counters (s.phys c ((s.tel c).nfVid n))
def Tel.base (t : Tel) (n : Nat) : Nat := if n % 2 = 0 then t.base0 else t.base1
def State.votesOf (s : State) (c n : Nat) : Nat := (s.nfValue c n + 2 ^ 64 - (s.tel c).base n) % 2 ^ 64

/-- E and the streaks (R214). -/
def Tel.decide_ (t : Tel) (skip : Bool) : Tel :=
  let e := sext 8 t.e
  if skip then
    { t with skipStreak := min (t.skipStreak + 1) 255, commitStreak := 0, e := if t.eMin < e then wrapInt 8 (e - 1) else t.e }
  else
    let n := t.commitStreak + 1
    if t.growInterval ≠ 0 && decide (n = t.growInterval) then
      { t with skipStreak := 0, commitStreak := 0, e := wrapInt 8 (min (e + 1) t.eMax) }
    else { t with skipStreak := 0, commitStreak := n % 2 ^ 32 }

/-- The record of a SKIP (R215, R241): `t` before and `u` after the update. -/
def skipRec (c : Nat) (t u : Tel) : FaultRec :=
  let d := u.e + u.skipStreak * 2 ^ 8
  if t.skipLimit ≠ 0 && decide (u.skipStreak = t.skipLimit) then { code := 0x0403, ctxFatal := true, ctx := c, detail := d }
  else if sext 8 t.e = t.eMin then { code := 0x0402, ctx := c, detail := d }
  else { code := 0x0401, ctx := c, detail := d }

/-- W for the next step (R226). -/
def Caliper.nextW (x : Caliper) (w : Int) : Int :=
  clampW (if x.saturated then w + 64 else if x.v ≠ 0 then (x.v.log2 : Int) + 1 + w - 112 else w)

/-- A window at the close of its step. -/
def Tel.closeWindow (t : Tel) (x : Caliper) : Caliper := { w := x.nextW (t.windowW x), wset := true }

/-- Both kinds of windows of the step in `t` are closed (R213 Order 4, R226), and `u` goes on with the next step. -/
def Tel.close (t u : Tel) : Tel :=
  { u with totals := t.nextTotals, nextTotals := [], calipers := mvals {} (fun _ x => t.closeWindow x) t.calipers }

/-- The saturation bitmap (R217, R230). -/
def Tel.satBitmap (t : Tel) : Nat :=
  t.totals.foldl (fun b kv =>
    let j := (memByte t.blockMap kv.1).toNat
    if kv.2.saturated ≠ 0 && decide (j < 255) then setBit b j true else b) 0

/-- The numerics record (R229). -/
def numRecord (step decision e skip commit bitmap : Nat) : Nat :=
  step % 2 ^ 64 + decision * 2 ^ 64 + e * 2 ^ 72 + skip * 2 ^ 80 + enc fp32 (fPow2 (sext 8 e)) * 2 ^ 96
    + enc fp32 (fPow2 (-sext 8 e)) * 2 ^ 128 + commit % 2 ^ 32 * 2 ^ 160 + bitmap * 2 ^ 256

/-- One write of the TEL block to HBM. -/
def State.telWrite (s : State) (c a v : Nat) : State := s.issueMem (.tel) (.tel c) c a true false [(v, false)]

/-- The decision is delivered to every tile of the context; a sampled tile logs it (R213 Order 6, R472). -/
def State.deliverDecision (s : State) (c n : Nat) (commit : Bool) : State :=
  s.tiles.foldl (fun s kv =>
    if (s.tset (tsetOf kv.1)).owner = c then (s.modTile kv.1 fun t => t.decided n commit).logInput kv.1 (.decision commit n) else s) s

/-! ### The telemetry ring (R231 to R233) -/

/-- The header of a record (R233). -/
def telHead (typ flags slot step : Nat) : Nat := typ + 2 ^ 16 + flags * 2 ^ 24 + slot % 2 ^ 32 * 2 ^ 32 + step % 2 ^ 64 * 2 ^ 64

/-- A record without its header's slot: type, flags, body from byte 16 on. -/
structure TelRec where
  typ : Nat
  flags : Nat
  body : Nat
  deriving DecidableEq, Repr

def patinaRec (t : Tel) (kv : Nat × Patina) : TelRec :=
  { typ := 2, flags := 0
    body := kv.1 + (memByte t.blockMap kv.1).toNat * 2 ^ 16 + kv.2.total * 2 ^ 64 + kv.2.zero * 2 ^ 128 + kv.2.saturated * 2 ^ 192
      + kv.2.nonfinite * 2 ^ 256 }

/-- The value reported for a window: V × 2^W read under R133, rounded once (R226). -/
def Tel.reported (t : Tel) (x : Caliper) : Nat :=
  let w := t.windowW x
  enc fp64 (if x.sticky then .fin false (4 * x.v + 1) (w - 2) else .fin false x.v w)

def caliperRec (t : Tel) (kv : Nat × Caliper) : TelRec :=
  let x := kv.2
  { typ := 3, flags := b2n x.sticky + 2 * b2n x.saturated + 4 * b2n x.nonfinite
    body := kv.1 / 8 + kv.1 % 8 * 2 ^ 16 + wrapInt 16 (t.windowW x) * 2 ^ 32 + t.reported x * 2 ^ 64 + x.count * 2 ^ 128 + x.v * 2 ^ 192 }

/-- The windows of the step with a count, in ascending layer, then quantity. -/
def Tel.openWindows (t : Tel) : List (Nat × Caliper) := t.calipers.filter fun kv => decide (0 < kv.2.count)

/-- The sum of a quantity's reported values, in ascending layer order (R228). -/
def Tel.sumOf (t : Tel) (q : Nat) : FVal :=
  (t.openWindows.filter fun kv => decide (kv.1 % 8 = q)).foldl (fun a kv => rnd fp64 (fAdd a (decodeF fp64 (t.reported kv.2)))) fPosZero

/-- The noise estimate (R228): P, Q, whether it is INVALID, and B_noise. The product of M and P is rounded, and the difference again. DESIGN
CHOICE, log entry 139. -/
def Tel.noise (t : Tel) : FVal × FVal × Bool × FVal :=
  let m := bits t.noiseCfg 0 16
  let b := bits t.noiseCfg 16 32
  let p := t.sumOf 3
  let q := t.sumOf 4
  let bad := decide (m < 2) || p.nonFinite || q.nonFinite || fLe q p ||
    t.openWindows.any fun kv => (decide (kv.1 % 8 = 3) || decide (kv.1 % 8 = 4)) && kv.2.saturated
  let num := rnd fp64 (fAdd (rnd fp64 (fMul (fNat m) p)) (fNeg q))
  let den := rnd fp64 (fAdd q (fNeg p))
  (p, q, bad, if bad then fPosZero else rnd fp64 (fMul (fNat b) (rnd fp64 (fDiv num den))))

def noiseRec (t : Tel) : TelRec :=
  match t.noise with
  | (p, q, bad, x) =>
    { typ := 4, flags := b2n bad
      body := enc fp64 p + enc fp64 q * 2 ^ 64 + bits t.noiseCfg 0 16 * 2 ^ 128 + bits t.noiseCfg 16 32 * 2 ^ 160 + enc fp64 x * 2 ^ 192 }

/-- What a decision appends behind its STEP record: `t` holds the windows of the step. -/
def Tel.followers (t : Tel) : List TelRec :=
  ((t.totals.filter fun kv => decide (0 < kv.2.total)).map (patinaRec t)) ++ (t.openWindows.map (caliperRec t)) ++
    (if t.noiseEnable then [noiseRec t] else [])

/-- The STEP record; the counts of what follows are 0 when it is truncated. -/
def stepRec (t u : Tel) (decision votes : Nat) (truncated : Bool) : TelRec :=
  let np := (t.totals.filter fun kv => decide (0 < kv.2.total)).length
  { typ := 1, flags := b2n truncated
    body := decision + u.e * 2 ^ 8 + u.skipStreak * 2 ^ 16 + u.commitStreak % 2 ^ 32 * 2 ^ 32 +
      (if truncated then 0 else np % 2 ^ 16 * 2 ^ 64 + t.openWindows.length % 2 ^ 16 * 2 ^ 80) + votes % 2 ^ 32 * 2 ^ 96 + t.satBitmap * 2 ^ 128 }

/-- Records into the next slots of the ring. -/
def State.telAppend (s : State) (c step : Nat) (rs : List TelRec) : State :=
  let t := s.tel c
  let line (x : Nat × TelRec) : Nat × Nat × Bool :=
    (t.ringBase + 64 * ((t.head + x.1) % 2 ^ t.ringL), telHead x.2.typ x.2.flags (t.head + x.1) step + x.2.body * 2 ^ 128, false)
  (s.issueWrites .tel (.tel c) c (((List.range rs.length).zip rs).map line)).setTel c { t with head := (t.head + rs.length) % 2 ^ 32 }

/-- Records that found no room (R232, R241). -/
def State.telDrop (s : State) (c n : Nat) : State :=
  (s.setTel c { s.tel c with dropped := satAdd (s.tel c).dropped n 0xFFFFFFFF }).raise { code := 0x0405, ctx := c, detail := n }

/-- Order 8 of R213: `t` holds the windows of the step and `u` the values after it. -/
def State.telRecords (s : State) (c : Nat) (t u : Tel) (decision votes : Nat) : State :=
  let rs := stepRec t u decision votes false :: t.followers
  let used := (t.head + 2 ^ 32 - t.tail) % 2 ^ 32
  let room := 2 ^ t.ringL - used
  if !t.ringOn then s
  else if rs.length ≤ room then s.telAppend c t.step rs
  else if 1 ≤ room then (s.telAppend c t.step [stepRec t u decision votes true]).telDrop c (rs.length - 1)
  else s.telDrop c rs.length

/-- The teardown of a SKIP_LIMIT decision follows Order 7 (R215): once DECIDE is raised and its watchers are notified. -/
def State.endAfterDecide (s : State) (c : Nat) (r : FaultRec) : State := s.modCtx c fun x => { x with afterDecide := some r }

/-- Orders 2 to 8 of R213: `v` is what the NF counter of the step holds. In a SKIP_LIMIT decision nothing is appended behind Order 7
(DEDUCED). -/
def State.decideStep (s : State) (c v : Nat) : State :=
  let t := s.tel c
  let n := t.step
  let votes := s.votesOf c n
  let skip := t.skipEnable && decide (votes ≠ 0)
  let u := { t.decide_ skip with step := n + 1, last := if skip then 2 else 1, gateMet := false, watching := false
                                 base0 := if n % 2 = 0 then v else t.base0, base1 := if n % 2 = 0 then t.base1 else v }
  let r := skipRec c t u
  let s1 := if skip then s.writeRec r else s
  let s2 := s1.setTel c (t.close u)
  let s3 := s2.telWrite c t.recordAddr (numRecord n u.last u.e u.skipStreak u.commitStreak t.satBitmap)
  let s4 := s3.deliverDecision c n (!skip)
  let s5 := s4.sendSyu (.tel c) c none none 0 (.inc t.decideVid 1)
  if skip && r.ctxFatal then s5.endAfterDecide c r else (s5.telRecords c t u u.last votes).telWatch c

/-- A decision: the TEL block reads the NF counter of the step (R213 Order 2, R278). -/
def State.gateDecision (s : State) (c : Nat) : State :=
  let p := s.phys c ((s.tel c).nfVid (s.tel c).step)
  match s.badCounter p c with
  | some r => s.raise r
  | none => (s.counterFix p).decideStep c (s.nfValue c (s.tel c).step)

def execGateDecision (ctx : Nat) (s : State) : Host.Outcome State Fault Refusal :=
  whenever (.gateDecision ctx) ((s.tel ctx).gateMet && decide ((s.ctx ctx).st = .running) && !s.pln.fatal) s (s.gateDecision ctx)

/-! ### TEL_RING_TAIL (R231, R234) -/

/-- A write of TEL_RING_TAIL from a master that may write it, forward and not past HEAD. -/
def State.tailMoves (s : State) (master c v : Nat) : Bool :=
  let t := s.tel c
  (decide (master = 2) || decide (master = 0x10) || decide (master = 0x11 + c)) &&
    decide ((v + 2 ^ 32 - t.tail) % 2 ^ 32 ≤ (t.head + 2 ^ 32 - t.tail) % 2 ^ 32)

def State.moveTail (s : State) (c v : Nat) : State := s.setTel c { s.tel c with tail := v % 2 ^ 32 }

def execTelRingTailWrite (master ctx value : Nat) (s : State) : Host.Outcome State Fault Refusal :=
  whenever (.telRingTailWrite master ctx value) (s.tailMoves master ctx (value % 2 ^ 32) && s.claims master && s.isOn 18) s
    ((s.access master (0xA0004C + 0x1000 * ctx)).moveTail ctx value)

end Sys2Proof.Machine
end

