-- ==== Sys2Proof/Machine/Loader.lean ====
section
/-! DEFINITION. The life of a context (R31, R57, R99, R223, R234, R303, R313, R415, R521, R576): admission decides, the load-time checks
move it to Running, and its teardown ends. Loads and stores of the Armature cores (R580, R581). -/

namespace Sys2Proof.Machine

/-! ### ADMISSION and RESERVE_TIMEOUT (R415, R521) -/

/-- The descriptor is the earliest that waits (R521). -/
def State.firstWaiting (s : State) (c : Nat) : Bool :=
  decide ((s.ctx c).admitSt = .awaiting) && !s.pln.fatal &&
    (List.range 16).all fun e => decide ((s.ctx e).admitSt ≠ .awaiting) || decide ((s.ctx c).arrived ≤ (s.ctx e).arrived)

/-- Orders 1 to 3 of R521. -/
def State.earlyTests (s : State) (c : Nat) : Option Nat :=
  let x := s.ctx c
  (s.admitVersion x).orElse fun _ => (s.admitConflict x.desc).orElse fun _ => s.admitCapacity c x.desc

/-- Orders 4 to 6 of R521. -/
def State.lateTests (s : State) (c : Nat) : Option Nat :=
  let x := s.ctx c
  (s.admitImbalance x.desc).orElse fun _ => (s.admitDeadline x.image x.desc).orElse fun _ => s.admitEnergy x.image x.desc

/-- Every Y peer has declared. -/
def State.allDeclared (s : State) (c : Nat) : Bool := (yBinds (s.ctx c).desc).all fun b => (s.declared (s.ctx c).desc b).isSome

/-- Admission can go on: the first tests refuse, or RESERVE is still to be sent, or every Y peer has declared. -/
def State.canAdmit (s : State) (c : Nat) : Bool :=
  s.firstWaiting c && ((s.earlyTests c).isSome || (s.ctx c).reserveAt.isNone || s.allDeclared c)

/-- The decision once the declarations are there. -/
def State.decideJob (s : State) (c : Nat) : State :=
  if s.allDeclared c then
    let s1 := s.useReserves (s.ctx c).desc
    match s.lateTests c with
    | some d => s1.refuseJob c d
    | none => (s1.admitJob c).loadImage c
  else s

def State.admission (s : State) (c : Nat) : State :=
  match s.earlyTests c with
  | some d => s.refuseJob c d
  | none => (if (s.ctx c).reserveAt.isNone then s.sendReserves c (s.ctx c).desc else s).decideJob c

def execAdmission (ctx : Nat) (s : State) : Host.Outcome State Fault Refusal :=
  whenever (.admission ctx) (s.canAdmit ctx) s (s.admission ctx)

/-- No RESERVE has come from the Y peer of a port within 30 s. -/
def State.reserveLate (s : State) (k c : Nat) : Bool :=
  let d := (s.ctx c).desc
  s.firstWaiting c && (match (s.ctx c).reserveAt with | some t => decide (t + ticksMs 30000 ≤ s.now) | none => false) &&
    (yBinds d).any fun b => decide (bindPort d b = k) && (s.declared d b).isNone

def execReserveTimeout (port ctx : Nat) (s : State) : Host.Outcome State Fault Refusal :=
  whenever (.reserveTimeout port ctx) (s.reserveLate port ctx) s (s.refuseJob ctx (refusal 5 2))

/-! ### Load-time checks (R576 Order 8) -/

/-- The region check of entry `n` (R99): test 1 extent, 2 dark bank. -/
def Tile.regionTest (t : Tile) (n : Nat) : Option Nat :=
  let e := t.region n
  if regLines e = 0 then none
  else if 32768 < regBase e + regLines e then some (n + 1 * 2 ^ 5)
  else if (List.range 32).any fun b => !bit t.cfg.bankPwr b && decide (regBase e < 1024 * b + 1024) && decide (1024 * b < regBase e + regLines e)
    then some (n + 2 * 2 ^ 5)
  else none

/-- The first failing region check of a tile, as Detail (R99, R107). -/
def Tile.regionCheck (t : Tile) : Option Nat :=
  match (List.range 32).findSome? t.regionTest with
  | some d => some d
  | none => (firstBelow 4 fun th => !t.mayFetch th (mget 0 t.cfg.startLine th)).map fun th => 0x1F + 3 * 2 ^ 5 + th * 2 ^ 7

/-- The tag check of entry `n` (R223). -/
def Tile.tagTest (t : Tile) (n : Nat) : Option Nat :=
  let e := t.tag n
  if regLines e = 0 then none
  else if 32768 < regBase e + regLines e then some (n + 1 * 2 ^ 4)
  else if tagClass e = 3 then some (n + 2 * 2 ^ 4)
  else if tagClass e = 2 && decide (4095 < tagId e + (regLines e - 1) / 8) then some (n + 3 * 2 ^ 4)
  else none

/-- The first failing check of a tile: its record (R99, R223), which names no superstep and no operation (DESIGN CHOICE, log entry 96). -/
def State.tileCheck (s : State) (c t : Nat) : Option FaultRec :=
  match (s.tile t).regionCheck with
  | some d => some { code := 0x010B, ctxFatal := true, ctx := c, tile := t, detail := d }
  | none => ((List.range 16).findSome? (s.tile t).tagTest).map fun d => { code := 0x0406, ctxFatal := true, ctx := c, tile := t, detail := d }

/-- A frame range of a context that reads or writes may use. -/
def State.mappedRange (s : State) (c a n : Nat) (write : Bool) : Bool :=
  decide (gSpace a = 0) && gZeroOk a &&
    (List.range ((a + n - 1) / 65536 - a / 65536 + 1)).all fun j =>
      let va := a + 65536 * j
      let e := s.entryAt c va
      decide (gFrame a + j < 16777216) && e.valid && decide (e.ctx = c) && (if write then e.wr else e.rd)

/-- The gate configuration (R234): the first failing test. -/
def State.gateTest (s : State) (c : Nat) : Option Nat :=
  let t := s.tel c
  let vids := (List.range 4).map fun j => bits t.gateCfg (16 * j) 16
  let e := sext 8 t.scaleCfg
  if t.target = 0 then none
  else if vids.any fun v => decide (256 * (s.ctx c).blocks ≤ v) then some 1
  else if vids.eraseDups.length < 4 then some 2
  else if !(decide (t.eMin ≤ e) && decide (e ≤ t.eMax) && decide (-126 ≤ t.eMin) && decide (t.eMax ≤ 126)) then some 3
  else if !(decide (t.recordAddr % 64 = 0) && decide (t.blockMapAddr % 64 = 0) && s.mappedRange c t.recordAddr 64 true &&
      s.mappedRange c t.blockMapAddr 4096 false) then some 4
  else if t.ringOn && !(decide (6 ≤ t.ringL) && decide (t.ringL ≤ 20)) then some 5
  else if t.noiseEnable && decide (bits t.noiseCfg 0 16 < 2) then some 6
  else none

/-- Tests 1 to 4 of R313 on a descriptor. A tile-owned queue whose OWNER_ID is not the tile of its address fails test 3 (DEDUCED). -/
def State.queueTest (s : State) (c n : Nat) : Option Nat :=
  let q := s.queue n
  let t := s.tile q.tile
  let lines := (64 + q.size) / 64
  if q.addr % 64 ≠ 0 || decide (q.l < 12) || decide ((if q.onTile then 20 else 24) < q.l) then some 1
  else if q.maxLines = 0 || decide (32 < q.maxLines) then some 2
  else if q.onTile && !(decide (gSpace q.addr = 1) && decide (q.ownerId = q.tile) && decide (gOff q.addr + 64 + q.size ≤ 0x200000) &&
      (List.range lines).all fun j => t.powered (gOff q.addr / 64 + j) && t.mrx (gOff q.addr / 64 + j)) then some 3
  else if !q.onTile && !s.mappedRange c q.addr (64 + q.size) true then some 4
  else none

/-- Two queues share a byte. -/
def queuesOverlap (p q : Queue) : Bool := decide (p.addr < q.addr + 64 + q.size) && decide (q.addr < p.addr + 64 + p.size)

/-- Test 5 of R313 on descriptor `n` against those below it. -/
def State.queueCrowded (s : State) (qs : List Nat) (n : Nat) : Bool :=
  let q := s.queue n
  let low := qs.filter fun m => decide (m < n)
  (q.onTile && decide (16 ≤ (low.filter fun m => (s.queue m).onTile && decide ((s.queue m).tile = q.tile)).length)) ||
    low.any fun m => queuesOverlap (s.queue m) q

/-- The first failing queue check (R313), as Detail (R341). -/
def State.queueCheck (s : State) (c : Nat) : Option Nat :=
  let qs := below 32768 (s.ctx c).queues.contains
  match qs.findSome? fun n => (s.queueTest c n).map fun k => n + k * 2 ^ 16 with
  | some d => some d
  | none => (qs.find? (s.queueCrowded qs)).map fun n => n + 5 * 2 ^ 16

/-- The one record of Order 8: the first failure in the order of R576. -/
def State.loadCheck (s : State) (c : Nat) : Option FaultRec :=
  match (s.ctxTiles c).findSome? (s.tileCheck c) with
  | some r => some r
  | none =>
    match s.gateTest c with
    | some k => some { code := 0x0407, ctxFatal := true, ctx := c, detail := k }
    | none => (s.queueCheck c).map fun d => { code := 0x0601, ctxFatal := true, ctx := c, detail := d }

/-! ### LOADING_COMPLETE (R31, R394, R576) -/

/-- The image is loaded and every binding is ACTIVE. -/
def State.canLoaded (s : State) (c : Nat) : Bool :=
  decide ((s.ctx c).st = .loading) && decide ((s.ctx c).admitSt = .loading) && !s.pln.fatal &&
    (List.range 7).all fun k => decide ((s.binding k c).st = 0) || decide ((s.binding k c).st = 2)

/-- A tile at the move to Running (R65, R119, R158, R207): its threads start, its accumulators are clear, its gate is OPEN(0), or OFF where T is 0. -/
def Tile.start (t : Tile) (gateOn : Bool) : Tile :=
  { t with threads := (List.range 4).foldl (fun m n => mset {} m n { st := .issuing }) [], gate := if gateOn then .opened else .off, gateStep := 0
           phase := .compute, blocks := [], cache := [], norms := [] }

/-- The context's queues leave FREE (R312). -/
def Queue.opened (q : Queue) : Queue := { q with state := if q.openAtStart then 2 else 1 }

/-- Lines of HBM that a block of the device reads for a context. -/
def State.readMapped (s : State) (c a n : Nat) : State × List (Nat × Bool) :=
  s.takeLines ((List.range n).map fun j => s.physLine c (a + 64 * j) false)

/-- The TEL block at the move to Running (R205, R211, R229, R230): nothing where the gate is off (DEDUCED). -/
def State.startTel (s : State) (c : Nat) : State :=
  let t := s.tel c
  if t.target = 0 then s
  else
    match s.readMapped c t.blockMapAddr 64 with
    | (s1, ls) =>
      let map := memWrite [] 0 4096 (packElems 512 (ls.map fun x => x.1))
      let e := bits t.scaleCfg 0 8
      let s2 := s1.setTel c { t with e := e, blockMap := map }
      (s2.telWrite c t.recordAddr (numRecord 0xFFFFFFFFFFFFFFFF 0 e 0 0 0)).telWatch c

/-- The context runs: every group starts superstep 0. -/
def State.run (s : State) (c : Nat) : State :=
  let x := s.ctx c
  let on := decide ((s.tel c).target ≠ 0)
  let s1 := (s.ctxTiles c).foldl (fun s t => s.modTile t fun y => y.start on) s
  let s2 := x.queues.foldl (fun s n => s.modQueue n Queue.opened) s1
  let s3 := (s.tsetsOf c).foldl (fun s n => s.setTset n { s.tset n with st := .running }) s2
  let s4 := s3.setCtx c { x with st := .running, tableValid := true, loadStatus := loadStatus 6 0 0 0 }
  let s5 := s4.setCp c { s4.cp c with ledger := 0, windowOpen := 0, windows := 0, stepSince := s.now }
  (x.groups.foldl (fun s g => s.releaseGroup c g) (s5.startTel c)).stateEvent c .running

/-- The ADMIT completes with OK. -/
def State.admitOk (s : State) (c : Nat) : State :=
  match (s.ctx c).admitCmd.bind fun fk => s.cmd fk.1 fk.2 with
  | some k => (s.modCtx c fun x => { x with admitCmd := none }).complete k 0 0 0
  | none => s

def State.loadingComplete (s : State) (c : Nat) : State :=
  match s.loadCheck c with
  | some r => s.raise r
  | none => (s.run c).admitOk c

def execLoadingComplete (ctx : Nat) (s : State) : Host.Outcome State Fault Refusal :=
  whenever (.loadingComplete ctx) (s.canLoaded ctx) s (s.loadingComplete ctx)

/-! ### TEARDOWN_COMPLETE (R30, R31, R303, R467, R517, R518) -/

/-- The teardown of a context can end: nothing of it is on its way to the SYU. -/
def State.canEnd (s : State) (c : Nat) : Bool :=
  decide ((s.ctx c).st = .tearing) && !s.pln.fatal && !s.syu.inbound.any fun i => decide (i.ctx = c)

/-- A tile is given back: zeros everywhere, gates off; the error counts that run since reset stay. -/
def Tile.cleared (t : Tile) : Tile := { err := { t.err with badWords := [], badCache := [], meshUpset := [] } }

def State.clearSets (s : State) (sets : List Nat) : State :=
  { s with tiles := mvals {} (fun n t => if sets.contains (tsetOf n) then t.cleared else t) s.tiles
           tsets := mdrop sets.contains s.tsets }

/-- Orders 5 and 6 of R303. -/
def Syu.freeBlocks (y : Syu) (c : Nat) : Syu :=
  let mine (b : Nat) : Bool := decide (mget 0x1F y.owners b = c)
  { y.clearBlocks mine with owners := mdrop mine y.owners }

/-- Claims are released (R518). -/
def State.releaseClaims (s : State) (c : Nat) : State :=
  { s with
    lnk := { s.lnk with wcfg := if s.lnk.wcfg / 4 % 32 = c then 0x1F * 4 else s.lnk.wcfg }
    pwr := { s.pwr with smbus := if s.pwr.smbus = 1 && decide (s.pwr.smbusCtx = c) then 0 else s.pwr.smbus
                        smbusCtx := if s.pwr.smbusCtx = c then 0x1F else s.pwr.smbusCtx }
    ras := { s.ras with rates := mset 0 s.ras.rates c 0
                        trace := if bit (s.cp c).claims 4 && decide (s.ras.traceOwner = 2) then setBits s.ras.trace 39 2 0 else s.ras.trace } }

/-- The pool returns once no context with r ≠ 0 remains, and the trace buffer with it where shadow recompute owns it (R467, R468). -/
def State.releasePool (s : State) : State :=
  let sets := below 120 fun n => decide ((s.tset n).owner = 0x10)
  if s.shadowing || (sets.isEmpty && decide (s.ras.traceOwner ≠ 1)) then s
  else
    let s1 := s.clearSets sets
    { s1 with ras := { s1.ras with pool := 0, trace := if s1.ras.traceOwner = 1 then setBits s1.ras.trace 39 2 0 else s1.ras.trace } }

/-- A descriptor returns to the free pool, written anew: an error that its storage held is gone, as with a counter (R278, R337, R339;
DEDUCED, log entry 46). -/
def State.freeQueue (s : State) (n : Nat) : State :=
  let s1 := s.setQueue n { epoch := (s.queue n).epoch }
  { s1 with rmn := { s1.rmn with badQueues := mset none s1.rmn.badQueues n none } }

/-- The context is Idle; waiting TEARDOWN commands complete (R446). Order 6 of R303 names BLOCKS only; that the rest of SYU_CTX_CFG_c and
the entries of SYU_CTX_MAP_c go back to their reset values is a DESIGN CHOICE (log entry 164). -/
def State.endTeardown (s : State) (c : Nat) : State :=
  let x := s.ctx c
  let s1 := s.clearSets (s.tsetsOf c)
  let s2 := x.groups.foldl (fun s g => s.setGroup g {}) { s1 with syu := s1.syu.freeBlocks c }
  let s3 := x.queues.foldl State.freeQueue s2
  let s4 := ((s3.releaseClaims c).setCp c { ledger := (s.cp c).ledger }).setTel c {}
  let s5 := ((s4.setCtx c {}).releasePool).refreshTdoms.refreshEstimates
  x.teardownCmds.foldl (fun s fk => match s.cmd fk.1 fk.2 with | some k => s.complete k 0 0 0 | none => s) (s5.stateEvent c .idle)

def execTeardownComplete (ctx : Nat) (s : State) : Host.Outcome State Fault Refusal :=
  whenever (.teardownComplete ctx) (s.canEnd ctx) s (s.endTeardown ctx)

end Sys2Proof.Machine
end

