-- ==== Sys2Proof/Machine/Power.lean ====
section
/-! DEFINITION. Power and energy while the device runs (R57, R60, R61, R511, R515 to R517, R526 to R533, R537): the ledger, energy
windows, the limits of temperature, input and rails, and domain power. -/

namespace Sys2Proof.Machine

/-! ### LEDGER_INTERVAL (R515, R516) -/

/-- Tile sets of a context in a tile domain. -/
def State.setsIn (s : State) (c k : Nat) : Nat := ((List.range 10).filter fun j => decide ((s.tset (10 * k + j)).owner = c)).length

/-- The part of `x` that falls to weight `w` of the weights `ws`. -/
def shareOf (x w : Nat) (ws : List Nat) : Nat := if ws.sum = 0 then 0 else x * w / ws.sum

/-- Mode of the spine (R512). -/
def State.spineMode (s : State) : Nat :=
  (List.range 12).foldl (fun m k => if s.tdomIdle k || decide ((s.tdom k).mode = 3) then m else max m (s.tdom k).mode) 0

/-- The mode whose event energies weigh the counts of a domain (R511, R512, R514): its own for a tile domain, that of the spine for the
others (DEDUCED, log entry 161: R514 gives the energies by mode, and D3 to D5 have none). -/
def State.weightMode (s : State) (d : Nat) : Nat := if 6 ≤ d && d ≤ 17 then (s.tdom (d - 6)).mode % 3 else s.spineMode

/-- The events of one owner in a domain, weighted by their energies (R514). `counts` holds classes 0 to 8. -/
def State.eventWeight (s : State) (mode : Nat) (counts : List Nat) : Nat :=
  (List.range 9).foldl (fun n e => n + counts.getD e 0 * s.eventOf mode e) 0

/-- The weights of contexts 0 to 15 and of the firmware system context in a domain. -/
def State.eventWeights (s : State) (u : LedgerIn) (d : Nat) : List Nat :=
  (List.range 17).map fun c => s.eventWeight (s.weightMode d) ((u.events.getD d []).getD c [])

/-- What a Running context is charged for domain `d` in one interval, in µJ. -/
def State.charge (s : State) (u : LedgerIn) (d c : Nat) : Nat :=
  let e := u.energy.getD d 0
  let st := min (u.stat.getD d 0) e
  let ws := s.eventWeights u d
  if 6 ≤ d && d ≤ 17 then
    let k := d - 6
    if (s.tdomCtxs k).any fun o => (s.ctx o).timerOwned then e * s.setsIn c k / 10
    else st * s.setsIn c k / 10 + shareOf (e - st) (ws.getD c 0) ws
  else if d = 3 || d = 4 || d = 5 || d = 18 then st * (s.tsetsOf c).length / 120 + shareOf (e - st) (ws.getD c 0) ws
  else 0

/-- Contexts whose account runs (R517). -/
def State.charged (s : State) : List Nat := below 16 fun c => decide ((s.ctx c).st = .running)

/-- The interval's energies are divided; the rest falls to the firmware system context. The conversion loss is counted with D0
(DESIGN CHOICE), so that both sums agree. -/
def State.closeInterval (s : State) (u : LedgerIn) : State :=
  let m := 2 ^ 64
  let own (c : Nat) : Nat := ((List.range 20).map fun d => s.charge u d c).sum
  let total := ((List.range 20).map fun d => u.energy.getD d 0).sum + u.loss
  let s1 := (List.range 20).foldl (fun s d =>
    s.setDom d { s.dom d with energy := ((s.dom d).energy + u.energy.getD d 0 + if d = 0 then u.loss else 0) % m }) s
  let s2 := s.charged.foldl (fun t c => t.setCp c { t.cp c with ledger := ((t.cp c).ledger + own c) % m }) s1
  { s2 with pwr := { s2.pwr with fwEnergy := (s2.pwr.fwEnergy + (total - (s.charged.map own).sum)) % m } }

def execLedgerInterval (use : LedgerIn) (s : State) : Host.Outcome State Fault Refusal :=
  guardWf (.ledgerInterval use) (.next (s.closeInterval use))

/-! ### ENERGY_WINDOW_CLOSE (R526, R527, R529) -/

/-- The next window of the context has ended. -/
def State.canClose (s : State) (c : Nat) : Bool :=
  let x := s.cp c
  decide ((s.ctx c).st = .running) && !s.pln.fatal && decide (x.windows < (s.group x.gRef).superstep / 2 ^ x.windowLog2)

/-- E_w in µJ. -/
def CtxPwr.used (x : CtxPwr) : Nat := x.ledger - x.windowOpen

/-- E_w × S_ref, and B_w × S_ref. -/
def CtxPwr.usedScaled (x : CtxPwr) : Nat := x.used * x.sRef
def CtxPwr.budgetScaled (x : CtxPwr) : Nat := x.energy * 2 ^ x.windowLog2

/-- E_w exceeds a budget that exists. -/
def CtxPwr.overBudget (x : CtxPwr) : Bool := decide (x.energy ≠ 0) && decide (x.budgetScaled < x.usedScaled)

/-- The requested point after the window (R526). -/
def CtxPwr.nextRequest (x : CtxPwr) : Nat :=
  if x.energy = 0 || x.pin then 0
  else if x.overBudget then min 4 (x.request + 1)
  else if 100 * x.usedScaled ≤ 94 * x.budgetScaled then x.request - 1
  else x.request

/-- A domain of the context stays at a lower index than it requests (R527). -/
def State.sharedLow (s : State) (c : Nat) : Bool :=
  (List.range 12).any fun k => decide (0 < s.setsIn c k) && decide ((s.tdom k).point < (s.cp c).request)

/-- Why ENERGY_OVER is written: 1 P4, 2 PIN_POINT, 3 a shared domain. `x` is the context before the window's close (DEDUCED). -/
def State.overReason (s : State) (c : Nat) (x : CtxPwr) : Option Nat :=
  if !x.overBudget then none
  else if x.pin then some 2
  else if x.request = 4 then some 1
  else if s.sharedLow c then some 3
  else none

/-- DEADLINE_MISS of a window (R529, R537). -/
def missRecs (c : Nat) (x : CtxPwr) : List FaultRec :=
  if x.deadline ≠ 0 && decide (0 < x.winMisses) then
    [{ code := 0x0801, ctx := c, detail := min x.winMisses 0xFFFF + min (x.winExcess / 1000) 0xFFFF * 2 ^ 16 }]
  else []

/-- ENERGY_OVER of a window (R527, R537). -/
def State.overRecs (s : State) (c : Nat) (x : CtxPwr) : List FaultRec :=
  match s.overReason c x with
  | some r => [{ code := 0x0802, ctx := c,
                 detail := (s.cp c).request + r * 2 ^ 3 + min (x.usedScaled * 1000 / x.budgetScaled) 0xFFFF * 2 ^ 16 }]
  | none => []

def State.closeWindow (s : State) (c : Nat) : State :=
  let x := s.cp c
  let s1 := (s.setCp c { x with request := x.nextRequest, windowOpen := x.ledger, windows := x.windows + 1, winMisses := 0
                                winExcess := 0 }).refreshTdoms
  s1.raiseAll (missRecs c x ++ s1.overRecs c x)

def execEnergyWindowClose (ctx : Nat) (s : State) : Host.Outcome State Fault Refusal :=
  whenever (.energyWindowClose ctx) (s.canClose ctx) s (s.closeWindow ctx)

/-! ### Power removed by a device-fatal cause (R530, R532) -/

/-- The ports lose their power: each is Down, without a signal (R389, R426). -/
def State.portsDark (s : State) : State :=
  { s with lnk := { s.lnk with ports := mvals {} (fun _ p => { p.down with signal := false }) s.lnk.ports } }

/-- The domains from `lo` on lose their power: HBM content and training are lost, the ports are down. -/
def State.losePower (s : State) (lo : Nat) : State :=
  let s1 := (List.range 20).foldl (fun s d => if lo ≤ d then s.domTo d 0 else s) s
  let s2 := (s1.loseDomain 0).loseDomain 1
  let s3 := (List.range 12).foldl (fun s k => s.setTdom k { s.tdom k with railMv := 0 }) s2
  { s3.portsDark with pln := { s3.pln with trainPowered := false, hbmLost := true, stressed := true } }

/-! ### SENSOR_POLL (R530, R605) -/

/-- The sensors of a tile domain and of the spine, as index and reading. DESIGN CHOICE: 4k to 4k + 3 lie in Tk, 48 to 55 in the spine. -/
def nearSensors (t : TempsIn) (k : Nat) : List (Nat × Nat) :=
  ((List.range 4).map fun j => (4 * k + j, t.die.getD (4 * k + j) 0)) ++ (List.range 8).map fun j => (48 + j, t.die.getD (48 + j) 0)

/-- The hottest of a list of readings, the first of equals. -/
def hottest : List (Nat × Nat) → Nat × Nat
  | [] => (0, 0)
  | x :: xs => let y := hottest xs; if x.2 < y.2 then y else x

/-- Detail of THERMAL_THROTTLE and THERMAL_TRIP (R537). -/
def heatDetail (x : Nat × Nat) (stack : Bool) : Nat := x.2 % 256 + x.1 * 2 ^ 8 + b2n stack * 2 ^ 14

/-- The 100 µs interval of R530 to R533. -/
def State.forceIvl (s : State) : Nat := s.now / ticksUs 100

/-- Where FORCED stood when interval `i` began. -/
def TDom.start (t : TDom) (i : Nat) : Nat := if t.ivl = some i then t.base else t.forced

/-- A cause moves the forced point from where it stood at the start of interval `i`. Of several causes in one interval the largest index
counts (R533), so that none raises what another has raised already. -/
def TDom.force (t : TDom) (i : Nat) (move : Nat → Nat) : TDom :=
  { t with forced := if t.ivl = some i then max t.forced (move t.base) else move t.forced, base := t.start i, ivl := some i }

/-- What a cause of R530 or R531 does to a forced point: one index up to P4, or one down to P0. -/
def raisePoint (p : Nat) : Nat := min 4 (p + 1)
def lowerPoint (p : Nat) : Nat := p - 1

/-- A tile domain's steering is written: HELD follows both causes, and its point follows FORCED (R511). -/
def State.putTdom (s : State) (k : Nat) (t : TDom) : State := (s.setTdom k { t with held := t.heatHeld || t.capHeld }).refreshTdom k

/-- A tile domain while the input power is above its limit (R531): FORCED rises, and at P4 releases are held. -/
def TDom.capped (t : TDom) (i : Nat) (on : Bool) : TDom :=
  if on then { t.force i raisePoint with capHeld := t.capHeld || decide (t.start i = 4) } else { t with capHeld := false }

/-- A tile domain whose hottest sensor reads `c` (R530). An episode ends when the forced point is back at P0 (DESIGN CHOICE). -/
def TDom.heated (t : TDom) (i c : Nat) : TDom :=
  let hot := decide (95 < c)
  let cool := decide (c ≤ 93)
  let m := t.force i (if hot then raisePoint else if cool then lowerPoint else id)
  { m with heatHeld := hot && (t.heatHeld || (decide (t.start i = 4) && decide (97 < c)))
           episode := hot || (t.episode && !(cool && decide (m.forced = 0))) }

/-- One tile domain at a poll: the temperature and, while its episode lasts, the input power act on the domain in this interval. -/
def State.pollDomain (u : TempsIn) (s : State) (k : Nat) : State :=
  let t := s.tdom k
  let h := hottest (nearSensors u k)
  let s1 := s.putTdom k ((t.capped s.forceIvl s.pwr.capEpisode).heated s.forceIvl h.2)
  if decide (95 < h.2) && !t.episode then s1.raise { code := 0x0803, detail := heatDetail h false } else s1

/-- One HBM stack at a poll. An episode ends at 95 °C or below (DESIGN CHOICE). -/
def State.pollStack (s : State) (x : Nat × Nat) : State :=
  let hot := decide (95 < x.2)
  let s1 : State := { s with pwr := { s.pwr with stackEpisode := mset false s.pwr.stackEpisode x.1 hot } }
  if hot && !mget false s.pwr.stackEpisode x.1 then s1.raise { code := 0x0803, detail := heatDetail x true } else s1

/-- PWR_TJ and PWR_INPUT take the readings. -/
def State.readSensors (s : State) (u : TempsIn) (die hbm : Nat × Nat) : State :=
  { s with pwr := { s.pwr with dieMax := die.2 % 256, dieSensor := die.1, hbmMax := hbm.2 % 256, hbmStack := hbm.1,
                               vinMv := u.vinMv % 65536, pinW := u.pinW % 65536 } }

/-- THERMAL_TRIP, with what R530 and R605 let follow: THERM_TRIP# stays asserted through a reset. -/
def State.thermalTrip (s : State) (x : Nat × Nat) (stack : Bool) : State :=
  let s1 := (s.raise { code := 0x0804, devFatal := true, detail := heatDetail x stack }).losePower 3
  ({ s1 with pln := { s1.pln with thermTrip := true, tripped := true } } : State).out .thermTrip

/-- Every sensor is read; a device-fatal cause supersedes every other one (R530, R533). A trip is
written once; after a reset a reading at 105 °C or above trips again (DEDUCED, log entry 110). -/
def State.poll (s : State) (u : TempsIn) : State :=
  let dies := (List.range 56).map fun i => (i, u.die.getD i 0)
  let hbms := (List.range 12).map fun i => (i, u.hbm.getD i 0)
  let s1 := s.readSensors u (hottest dies) (hottest hbms)
  if s.pln.tripped then s1
  else if 105 ≤ (hottest dies).2 then s1.thermalTrip (hottest dies) false
  else if 105 ≤ (hottest hbms).2 then s1.thermalTrip (hottest hbms) true
  else if s.pln.fatal then s1
  else hbms.foldl State.pollStack ((List.range 12).foldl (State.pollDomain u) s1)

def execSensorPoll (temps : TempsIn) (s : State) : Host.Outcome State Fault Refusal :=
  guardWf (.sensorPoll temps) (.next (s.poll temps))

/-! ### POWER_CAP (R531) -/

/-- A mean input power over 1 ms, which limits nothing any more after a device-fatal cause (R533). Above the ceiling an episode opens; below
0.97 of it the episode and its holds end, and the forced points fall by R530 alone (DESIGN CHOICE, log entry 108). -/
def State.cap (s : State) (mw : Nat) : State :=
  let limit := 1000 * s.pwr.ceilingW
  let on := (decide (limit < mw) || s.pwr.capEpisode) && !decide (100 * mw < 97 * limit)
  let s1 : State := { s with pwr := { s.pwr with pinW := mw / 1000 % 65536 } }
  if s.pln.fatal then s1
  else
    let s2 := (List.range 12).foldl (fun s k => s.putTdom k ((s.tdom k).capped s.forceIvl on))
      ({ s1 with pwr := { s1.pwr with capEpisode := on } } : State)
    if on && !s.pwr.capEpisode then s2.raise { code := 0x0805, detail := min (mw / 1000) 0xFFFF } else s2

def execPowerCap (milliwatts : Nat) (s : State) : Host.Outcome State Fault Refusal :=
  guardWf (.powerCap milliwatts) (.next (s.cap milliwatts))

/-! ### RAIL_FAULT (R532) -/

def execRailFault (domain : Nat) (high : Bool) (s : State) : Host.Outcome State Fault Refusal :=
  guardWf (.railFault domain high)
    (.next ((s.raise { code := 0x0807, devFatal := true, detail := domain + b2n high * 2 ^ 5 }).losePower 1))

/-! ### DOMAIN_POWER_DOWN (R57, R60, R61) -/

/-- The domains that need domain `d` (R59). -/
def neededBy (d e : Nat) : Bool :=
  if d = 0 then decide (e ≠ 0)
  else if d = 1 then decide (2 ≤ e)
  else if d = 18 then decide (3 ≤ e) && decide (e ≤ 17)
  else false

/-- PWR_DOMAIN_STATE_n.HELD: R57 or R61 forbids power-down (R63). -/
def State.domHeld (s : State) (d : Nat) : Bool :=
  if d = 1 then (List.range 120).any fun n => decide ((s.tset n).st ≠ .idle)
  else decide (6 ≤ d) && decide (d ≤ 17) && !s.tdomIdle (d - 6)

/-- Every domain that needs `d` is Off, and `d` is not the always-on domain (R59, R60). -/
def State.orderOk (s : State) (d : Nat) : Bool := decide (d ≠ 0) && (List.range 20).all fun e => !neededBy d e || decide ((s.dom e).st = 0)

/-- A domain goes Off. -/
def State.domOff (s : State) (d : Nat) : State :=
  let s1 := s.domTo d 0
  if d = 3 then s1.portsDark
  else if 6 ≤ d && d ≤ 17 then s1.setTdom (d - 6) { s1.tdom (d - 6) with railMv := 0 }
  else s1

/-- D4 and D5 follow the drain of R374; another domain goes Off, or a request that would break the order is refused into the audit
log. One that R57 or R61 forbids changes nothing. -/
def State.powerDown (s : State) (d : Nat) : State :=
  if d = 4 || d = 5 then s.domainDown (d - 4)
  else if (s.dom d).st ≠ 2 then s
  else if !s.orderOk d then s.refusePower d 0
  else if s.domHeld d then s
  else s.domOff d

def execDomainPowerDown (domain : Nat) (s : State) : Host.Outcome State Fault Refusal :=
  guardWf (.domainPowerDown domain) (.next (s.powerDown domain))

end Sys2Proof.Machine
end

