-- ==== Sys2Proof/Machine/Boot.lean ====
section
/-! DEFINITION. Bring-up and reset (R24, R453, R538 to R556, R558, R609): what persists, limited changes, image selection, the rows of
the boot sequence, the repair of the tile map, and readiness. A command runs as many rows as its operand says, which also holds
what the boot meets in the physical device (DESIGN CHOICE, log entry 112). -/

namespace Sys2Proof.Machine

/-! ### What a reset leaves (R540) -/

/-- Fuses, flash and what runs on from them, and which frames are retired (R359): everything else is at its reset value. -/
def State.bare (s : State) : State :=
  let p := s.pln
  { State.reset with
    pending := s.pending, now := s.now, nextId := s.nextId, freeCtr := s.freeCtr, outbox := s.outbox
    ras := { retire := s.ras.retire }
    hbm := { frames := s.hbm.frames.filter fun kv => decide (kv.2 = .retired) }
    mbx := { channels := romChannels, gen := p.fuses.cbtGens, provisioned := s.mbx.provisioned }
    pwr := { State.reset.pwr with ceilingW := p.fuses.ceilingW, reductions := p.fuses.reductions }
    pln := { fuses := p.fuses, slotA := p.slotA, slotB := p.slotB, cbtFlash := p.cbtFlash, auditChange := p.auditChange
             auditMark := p.auditMark, auditGeneral := p.auditGeneral, auditGeneralCount := p.auditGeneralCount
             openChange := p.openChange, poweredMs := p.poweredMs, moved := p.moved } }

/-- A reset while D0 stays powered: the ports' signal is a matter of the cables. -/
def State.warmBare (s : State) : State :=
  let b := s.bare
  let p := { b.pln with trainPowered := s.pln.trainPowered, hbmLost := s.pln.hbmLost, stressed := s.pln.stressed, pb0 := s.pln.pb0,
                        pb1 := s.pln.pb1, pbSince := s.pln.pbSince, thermTrip := s.pln.thermTrip, smbAddr := s.pln.smbAddr, eid := s.pln.eid }
  { b with pln := p, lnk := { ports := mvals {} (fun _ x => { signal := x.signal, enable := true }) s.lnk.ports } }

/-- Power is off: the clock of this powering ends (R560). -/
def State.powerOff (s : State) : State :=
  let b := s.bare
  { b with now := 0, pln := { b.pln with poweredMs := s.poweredTime } }

/-- Event data of a RESET entry (R540, R560): cause, path, and of a DEVICE_FATAL record before it bytes 0–3 and 24–31 (DESIGN
CHOICE of the layout). -/
def resetData (cause path : Nat) (r : Option FaultRec) : Nat :=
  cause + path * 2 ^ 8 + match r with
    | some r => bits r.encode 0 32 * 2 ^ 32 + bits r.encode 192 64 * 2 ^ 64
    | none => 0

/-- The master that a cause stands for (R539, R560). -/
def causeAgent (cause : Nat) : Nat := if cause = 0 then 1 else if cause = 5 then 3 else 0x10

/-- The RESET entry, and PLN_RESET_CAUSE. -/
def State.noteReset (s : State) (cause path declined : Nat) (old : Pln) : State :=
  let s1 := s.auditGeneral 1 (causeAgent cause) 0 (resetData cause path (if old.fatal then old.fatalRec else none))
  { s1 with pln := { s1.pln with path := path, cause := cause, causePath := path, afterFatal := old.fatal, declined := declined } }

/-! ### Limited changes (R557, R558) -/

/-- The setting's number in a Detail (R562). -/
def Limited.setting : Limited → Nat
  | .tileMap _ _ => 1
  | .ceiling _ => 2
  | .cbt _ => 3
  | .floor _ _ => 4

/-- The event of its audit entry (R560). -/
def Limited.event : Limited → Nat
  | .tileMap _ _ => 2
  | .ceiling _ => 3
  | .cbt _ => 4
  | .floor _ _ => 5

/-- The steps that the setting has (R557). -/
def Limited.steps : Limited → Nat
  | .tileMap _ _ => 4
  | .ceiling _ => 8
  | .cbt _ => 16
  | .floor _ _ => 32

/-- The steps it has used. -/
def Fuses.used (f : Fuses) : Limited → Nat
  | .tileMap _ _ => f.gens.length
  | .ceiling _ => f.reductions
  | .cbt _ => f.cbtGens
  | .floor _ _ => f.floorSteps

/-- The old and the new value that its audit entry holds (R560). -/
def Fuses.values (f : Fuses) : Limited → Nat × Nat
  | .tileMap _ _ => (f.gens.length, f.gens.length + 1)
  | .ceiling w => (f.ceilingW, w)
  | .cbt _ => (f.cbtGens, f.cbtGens + 1)
  | .floor verjo v => (if verjo then f.verjoFloor else f.fwFloor, v)

/-- An entry of the change part. -/
def State.auditChangeEnt (s : State) (e : AuditEnt) : State := { s with pln := { s.pln with auditChange := s.pln.auditChange ++ [e] } }

/-- Entry `i` of the change part is marked DONE or ABANDONED. -/
def State.markChange (s : State) (i : Nat) (done : Bool) : State :=
  let f (e : AuditEnt) : AuditEnt := if done then { e with done := true } else { e with abandoned := true }
  { s with pln := { s.pln with auditChange := s.pln.auditChange.modify i f } }

/-- A RETIRE_MARK entry of a site that failed in this boot, once for a site (R560). -/
def State.bootMark (s : State) (site : Nat) : State :=
  if s.pln.auditMark.any (fun x => decide (x.data % 2 ^ 16 = site)) || decide (160 ≤ s.pln.auditMark.length) then s
  else
    let e : AuditEnt := { time := s.poweredTime, event := 6, agent := 1, data := site + 4 * 2 ^ 16 }
    { s with pln := { s.pln with auditMark := s.pln.auditMark ++ [e] } }

/-- A generation takes effect: its fuse record, the sites of the moved tiles, the marks of the sites it retires, and the pending list
without them (R554, R560). -/
def State.newGeneration (s : State) (record : List (Nat × Bool)) (moved : List (Nat × Nat × Nat)) : State :=
  let old := moved.map fun x => x.2.1
  let s1 := old.foldl State.bootMark s
  let f := s1.pln.fuses
  { s1 with pln := { s1.pln with fuses := { f with gens := f.gens ++ [record] }
                                 moved := moved.foldl (fun m x => mset 0 m x.1 (x.2.2 + 1)) s1.pln.moved }
            ras := { s1.ras with retire := s1.ras.retire.filter fun r => !old.contains r.phys } }

/-- The change takes effect, with its fuse step burnt. -/
def State.takeEffect (s : State) (x : Limited) : State :=
  let f := s.pln.fuses
  match x with
  | .tileMap record moved => s.newGeneration record moved
  | .ceiling w =>
    { s with pln := { s.pln with fuses := { f with reductions := f.reductions + 1, ceilingW := w } },
             pwr := { s.pwr with ceilingW := w, reductions := f.reductions + 1 } }
  | .cbt t =>
    { s with pln := { s.pln with fuses := { f with cbtGens := f.cbtGens + 1 } }, mbx := { s.mbx with gen := f.cbtGens + 1, provisioned := t } }
  | .floor verjo v =>
    let g := { f with floorSteps := f.floorSteps + 1, fwFloor := if verjo then f.fwFloor else v, verjoFloor := if verjo then v else f.verjoFloor }
    { s with pln := { s.pln with fuses := g } }

/-- A step and a place in the change part are left (R557, R560). -/
def State.mayChange (s : State) (x : Limited) : Bool :=
  decide (s.pln.fuses.used x < x.steps) && decide (s.pln.auditChange.length < 96)

/-- The audit entry with INTENT (R560), by master `m`. -/
def State.intent (s : State) (m : Nat) (x : Limited) : State :=
  let v := s.pln.fuses.values x
  s.auditChangeEnt { time := s.poweredTime, event := x.event, agent := m, intent := true, counter := s.pln.fuses.used x + 1
                     data := v.1 + v.2 * 2 ^ 64 }

/-- Orders 2 to 5 of R558. `cut`: power is lost after INTENT (1), after the step has burnt (2), or not (0). -/
def State.limited (s : State) (m : Nat) (x : Limited) (cut : Nat) : State :=
  let i := s.pln.auditChange.length
  let s1 := s.intent m x
  if cut = 0 then (s1.takeEffect x).markChange i true
  else ({ s1 with pln := { s1.pln with openChange := some { entry := i, burnt := decide (cut = 2), change := x } } } : State).powerOff

/-- The recovery of a change that power loss cut short (R558). -/
def State.recoverChange (s : State) : State :=
  match s.pln.openChange with
  | none => s
  | some x =>
    let s1 : State := { s with pln := { s.pln with openChange := none } }
    let s2 := if x.burnt then s1.takeEffect x.change else s1
    (s2.markChange x.entry x.burnt).raise { code := 0x0C0C, detail := x.change.setting + b2n x.burnt * 2 ^ 4 }

/-! ### Image selection (R542) -/

/-- The rows of the boot sequence, in the order in which they end: R541 on the cold and the warm full path, R551 on the fast one, which
runs no BIST. -/
def bootRows (path : Nat) : List BootPart :=
  if path = 1 then [.image, .pll, .control, .pcie, .spine, .hbm, .links, .tiles, .commit]
  else [.image, .pll, .control, .pcie, .spine, .links, .hbm, .bist, .tiles, .commit]

/-- The key is the one whose hash the fuses hold, and under it the image's signature verifies (R542). -/
def Fuses.authentic (f : Fuses) (g : Signature) (hash : Nat) : Bool := decide (sha3 g.key 96 = f.signer) && ecdsaOk g.key hash g.r g.s

/-- Why a slot does not qualify: 1 signature, 2 SVN below the floor, 3 format. -/
def Slot.reason (x : Slot) (floor : Nat) : Option Nat :=
  if !x.auth then some 1 else if !x.form then some 3 else if x.svn < floor then some 2 else none

def State.rejectSlot (s : State) (i : Nat) (r : Option Nat) : State :=
  match r with
  | some k => s.raise { code := 0x0C02, detail := i + k * 2 }
  | none => s

/-- Neither slot qualifies: D1 to D19 stay off and FAILED is set; the boot has every row to run again, on the cold path, since D4 and D5
are without power (R538, R542, R551). -/
def State.noImage (s : State) : State :=
  let s1 := (List.range 20).foldl (fun s d => if d = 0 then s else s.domTo d 0) s
  { s1 with pln := { s1.pln with slot := 0, failed := true, ready := false, path := 0, causePath := 0, boot := bootRows 0
                                 trainPowered := false, hbmLost := true, stressed := false } }

/-- Of slots A and B with the reasons why they do not qualify: the ROM starts the one of the higher SVN, A of equals (R542). FAILED stays
while a boot record with DEVICE_FATAL stands (R561). -/
def State.pickImage (s : State) (a b : Option Nat) : State :=
  let p := s.pln
  let s1 := (s.rejectSlot 0 a).rejectSlot 1 b
  if a.isNone && (b.isSome || decide (p.slotB.svn ≤ p.slotA.svn)) then
    { s1 with pln := { s1.pln with slot := 1, running := p.slotA, failed := p.bootFatal } }
  else if b.isNone then { s1 with pln := { s1.pln with slot := 2, running := p.slotB, failed := p.bootFatal } }
  else s1.noImage

/-- The ROM selects and authenticates an image. -/
def State.selectImage (s : State) : State := s.pickImage (s.pln.slotA.reason s.pln.fuses.fwFloor) (s.pln.slotB.reason s.pln.fuses.fwFloor)

/-! ### The Channel Binding Table (R453) -/

/-- Channels 6 to 63 as a table of sender + 256 × receiver binds them. -/
def State.bindChannels (s : State) (t : SMap Nat) : State :=
  { s with mbx := { s.mbx.writeLock true with channels := (List.range 58).foldl (fun m i =>
      let v := mget 0 t (i + 6)
      mset {} m (i + 6) { sender := v % 256, receiver := v / 256 }) s.mbx.channels } }

/-- Where power is lost in change `k` of this boot, 0 the Channel Binding Table and 1 the tile map. -/
def bootCut (b : BootIn) (k : Nat) : Nat := if b.cut = 2 * k + 1 then 1 else if b.cut = 2 * k + 2 then 2 else 0

/-- A table that differs from the last one uses a generation, or is refused. -/
def State.provision (s : State) (b : BootIn) : State :=
  let x := Limited.cbt s.pln.cbtFlash
  if s.pln.cbtFlash = s.mbx.provisioned then s.bindChannels s.pln.cbtFlash
  else if !s.mayChange x then
    ({ s with mbx := s.mbx.writeLock true } : State).raise { code := 0x0A09, detail := s.pln.fuses.cbtGens }
  else if bootCut b 0 = 0 then (s.limited 1 x 0).bindChannels s.pln.cbtFlash
  else s.limited 1 x (bootCut b 0)

/-! ### The rows of a boot (R541, R543 to R547, R551) -/

/-- A boot record with DEVICE_FATAL: FAILED (R561). -/
def State.bootFail (s : State) (r : FaultRec) : State :=
  let s1 := s.raise { r with devFatal := true }
  { s1 with pln := { s1.pln with failed := true, bootFatal := true } }

/-- Domains go On. -/
def State.domsOn (s : State) (ds : List Nat) : State := ds.foldl (fun s d => s.domTo d 2) s

/-- The tile domains. -/
def tileDomains : List Nat := (List.range 12).map fun k => 6 + k

/-- Order 2, after the provisioning of the Channel Binding Table (DESIGN CHOICE of the row). -/
def State.bootPll (b : BootIn) (s : State) : State :=
  let s1 := s.provision b
  match b.pll with
  | some (k, i) => s1.bootFail { code := 0x0C03, detail := k % 4 + i % 16 * 2 ^ 4 }
  | none => s1

/-- Order 4. -/
def State.bootPcie (s : State) : State :=
  let s1 := s.domsOn [2]
  { s1 with hif := { s1.hif with configReady := true } }

/-- The spine proof runs of the blocks of which `here` holds (R545). -/
def State.spineProof (s : State) (b : BootIn) (here : Nat → Bool) : State :=
  match b.spine with
  | some (k, i) => if here k then s.bootFail { code := 0x0C05, detail := k % 16 + i % 256 * 2 ^ 4 } else s
  | none => s

/-- Order 5: the spine, and its proof runs but for the collective units. -/
def State.bootSpine (b : BootIn) (s : State) : State := (s.domsOn [18, 19]).spineProof b fun k => decide (k ≠ 6)

/-- Order 8: the ports that are enabled begin training; the proof runs of the collective units (block 6). -/
def State.bootLinks (b : BootIn) (s : State) : State :=
  ((List.range 7).foldl (fun s k => s.train k) (s.domsOn [3])).spineProof b fun k => decide (k = 6)

/-- Frames that an earlier run retired return to the pool at a cold boot, unless they fail their read-back again (R359, R546). -/
def State.retireAgain (s : State) (b : BootIn) : State :=
  let bad := (s.hbm.frames.filter fun kv => b.badFrames.contains kv.1).map fun kv => kv.1
  let s1 : State := { s with hbm := { s.hbm with frames := bad.foldl (fun m f => mset .pool m f .retired) [] } }
  bad.foldl (fun s f => s.raise { code := 0x030C, detail := f }) s1

/-- The window of the firmware system context is mapped onto the system region (R344; DESIGN CHOICE of its place, log entry 150). -/
def State.mapSystem (s : State) : State :=
  let s1 : State := { s with hbm := { s.hbm with sysMapped := true, sysGone := [] } }
  s1.modCtx 16 fun x => { x with fmBase := sysBase, fmFrames := sysFrames }

/-- Order 6: training of every stack and initialisation; on the fast path only where a channel fails its check (R551). -/
def State.bootHbm (b : BootIn) (s : State) : State :=
  let s1 := (s.domsOn [4, 5]).mapSystem
  let s2 : State := { s1 with pln := { s1.pln with hbmLost := false } }
  if s.pln.path = 1 && !b.channelFails then s2
  else
    match b.hbm with
    | some (k, ch) => s2.bootFail { code := 0x0C04, detail := k % 16 + ch % 32 * 2 ^ 4 }
    | none =>
      let s3 := if s.pln.path = 0 then s2.retireAgain b else s2
      { s3 with pln := { s3.pln with trainPowered := true } }

/-! ### Tile tests and repair (R547, R549, R553 to R556) -/

/-- Records of a site's failing banks (R547). -/
def bistRecs (b : BootIn) (site : Nat) : List FaultRec :=
  (b.bist.filter fun x => decide (x.1 = site)).map fun x =>
    { code := 0x0C06, detail := site + x.2.1 % 32 * 2 ^ 13 + x.2.2 % 2 * 2 ^ 18 }

/-- Records of its engines that failed twice (R549). -/
def proofRecs (b : BootIn) (site : Nat) : List FaultRec :=
  (b.proof.filter fun x => decide (x.1 = site) && x.2.2.2).map fun x =>
    { code := 0x0C07, detail := site + x.2.1 % 8 * 2 ^ 13 + x.2.2.1 % 2 * 2 ^ 16 }

/-- Records of a candidate site, which runs both (R551, R553). -/
def siteRecs (b : BootIn) (site : Nat) : List FaultRec := bistRecs b site ++ proofRecs b site

/-- Good spares of a domain that are not assigned, ascending (R23, R553): never recorded, neither as retired nor as bad. -/
def Pln.goodSpares (p : Pln) (k : Nat) : List Nat :=
  let used := p.fuses.gens.flatten.map (fun x => x.1) ++ p.moved.map fun kv => kv.2 - 1
  ((List.range 512).map (siteOfDomain k)).filter fun x => !p.selected x && !used.contains x

/-- The search for a spare, highest index first, with `e` entries of the fuse record used: the spare or the cause of R562, and the
spares found bad. -/
def takeSpare (b : BootIn) : Nat → List Nat → (Nat ⊕ Nat) × List Nat
  | _, [] => (.inr 1, [])
  | e, x :: xs =>
    if 32 < e + 2 then (.inr 3, [])
    else if !(siteRecs b x).isEmpty then (match takeSpare b (e + 1) xs with | (r, bad) => (r, x :: bad))
    else (.inl x, [])

/-- One retiring tile. -/
def Pln.candTile (p : Pln) (b : BootIn) (c : Cand) (t : Nat) : Cand :=
  if 4 ≤ p.fuses.gens.length || decide (96 ≤ p.auditChange.length) then { c with stay := c.stay ++ [(t, 2)] }
  else
    match takeSpare b c.record.length ((p.goodSpares (tdomOf t)).reverse.filter fun x => !c.tested.contains x) with
    | (.inl x, bad) =>
      { c with record := c.record ++ bad.map (fun y => (y, true)) ++ [(p.siteOf t, false)], moved := c.moved ++ [(t, p.siteOf t, x)]
               tested := c.tested ++ bad ++ [x] }
    | (.inr k, bad) =>
      { c with record := c.record ++ bad.map (fun y => (y, true)), stay := c.stay ++ [(t, k)], tested := c.tested ++ bad }

/-- The retiring tiles, ascending: domains in turn, and logical numbers within each (R553). -/
def State.retiring (s : State) (failed : List Nat) : List Nat :=
  let ts := (s.ras.retire.map (fun r => r.phys) ++ failed).filterMap s.pln.logicalAt
  if ts.isEmpty then [] else below 5760 ts.contains

/-- The commit of the candidate map, when a tile moved, as one limited change, with its record (R554). -/
def State.commitMap (s : State) (c : Cand) (cut : Nat) : State :=
  let x := Limited.tileMap c.record c.moved
  if c.moved.isEmpty then s
  else if cut ≠ 0 then s.limited 1 x cut
  else
    let t := s.limited 1 x 0
    t.raise { code := 0x0C08, detail := t.pln.generation % 8 + c.moved.length % 32 * 2 ^ 3 + (c.record.filter fun x => x.2).length % 32 * 2 ^ 8 }

/-- A tile that keeps its site: its mark stays pending and its tile set is withheld, with one record (R555, R556). -/
def State.withhold (failed : List Nat) (s : State) (x : Nat × Nat) : State :=
  let site := s.pln.siteOf x.1
  let s1 := if failed.contains site then s.bootMark site else s
  let s2 : State :=
    if s1.ras.retire.any fun r => decide (r.phys = site) then s1
    else if s1.ras.retire.length < 32 then { s1 with ras := { s1.ras with retire := s1.ras.retire ++ [{ phys := site, cause := 4 }] } }
    else { s1 with pln := { s1.pln with pendingFull := true } }
  let n := tsetOf x.1
  if mget false s2.pln.withheld n then s2
  else ({ s2 with pln := { s2.pln with withheld := mset false s2.pln.withheld n true } } : State).raise
    { code := 0x0C09, detail := n + x.2 * 2 ^ 7 + site * 2 ^ 9 }

/-- Proof runs of `b` whose repeat passed count toward R465. -/
def State.proofTransients (b : BootIn) (s : State) : State :=
  (b.proof.filter fun x => !x.2.2.2).foldl (fun s x => match s.pln.logicalAt x.1 with | some t => s.transient t | none => s) s

/-- How many proof runs of a site passed at their repeat. -/
def repeatsOf (b : BootIn) (site : Nat) : Nat := (b.proof.filter fun x => decide (x.1 = site) && !x.2.2.2).length

/-- The same of spares that were tested and found bad: they are no tile's, and RAS_TRANSIENT alone counts them. -/
def State.spareTransients (s : State) (b : BootIn) (c : Cand) : State :=
  let bad := c.tested.filter fun x => !c.moved.any fun y => decide (y.2.2 = x)
  { s with ras := { s.ras with transient := satAdd s.ras.transient (bad.map (repeatsOf b)).sum 0xFFFFFFFF } }

/-- The same of spares that tiles have moved to, each counted at its tile, once the tile is there (R465). -/
def State.movedTransients (s : State) (b : BootIn) (c : Cand) : State :=
  c.moved.foldl (fun s y => (List.range (repeatsOf b y.2.2)).foldl (fun s _ => s.transient y.1) s) s

/-- Those of the sites that logical tiles use, each once. -/
def Pln.logicalSites (p : Pln) (sites : List Nat) : List Nat := sites.eraseDups.filter fun x => (p.logicalAt x).isSome

/-- Order 7: D6 to D17 and the BIST of every selected site. -/
def State.bootBist (b : BootIn) (s : State) : State :=
  let sites := s.pln.logicalSites (b.bist.map fun x => x.1)
  let s1 := (sites.flatMap (bistRecs b)).foldl State.raise (s.domsOn tileDomains)
  { s1 with pln := { s1.pln with bootFailed := sites } }

/-- Orders 9 and 10: the proof runs of the logical tiles, and the candidate map with the tests of its spares. -/
def State.bootTiles (b : BootIn) (s : State) : State :=
  let sites := (s.pln.logicalSites (b.proof.map fun x => x.1)).filter fun x => !(proofRecs b x).isEmpty
  let s1 := (sites.flatMap (proofRecs b)).foldl State.raise (s.domsOn tileDomains)
  let failed := (s1.pln.bootFailed ++ sites).eraseDups
  let c := (s1.retiring failed).foldl (s1.pln.candTile b) {}
  let s2 := (c.tested.flatMap (siteRecs b)).foldl State.raise ((s1.proofTransients b).spareTransients b c)
  { s2 with pln := { s2.pln with bootFailed := failed, cand := c } }

/-! ### Readiness (R550) -/

/-- Time since the path began, in 10 ms, saturating (R561). -/
def State.elapsed (s : State) : Nat :=
  match s.pln.pathSince with
  | none => 0
  | some t => min ((s.now - t) / ticksMs 10) 0xFFFF

/-- The queue that firmware makes for the PF's DMA commands, served by engine 15 (R444; DESIGN CHOICE, log entry 150). -/
def pfQueueMade : Queue := { ctx := 16, ownerKind := 2, ownerId := 15, state := 2 }

/-- The domains that R550 wants On. -/
def readyDomains : List Nat := [0, 1, 2, 4, 5, 18]

/-- READY, with the tile domains Off again and the firmware system context at work; its staging slots are where firmware puts them in the system region. -/
def State.bootReady (s : State) : State :=
  let s1 := (tileDomains.foldl State.domOff s).drawn 1
  let s2 : State := { s1 with pln := { s1.pln with ready := true, stagingFirst := s.freeValue % (sysFrames - 16 * 768 + 1) } }
  ((s2.setQueue 32767 pfQueueMade).modCtx 16 fun x => { x with tableValid := true }).raise
    { code := 0x0C01, detail := s2.pln.path + s2.elapsed * 2 ^ 16 }

/-- Order 11: the commit, the tile sets that are withheld, and readiness, which waits while a domain that R550 wants On is not. -/
def State.bootCommit (b : BootIn) (s : State) : State :=
  let c := s.pln.cand
  let cut := if c.moved.isEmpty then 0 else bootCut b 1
  let s1 := s.commitMap c cut
  if cut ≠ 0 then s1
  else
    let s2 := c.stay.foldl (State.withhold s1.pln.bootFailed) (s1.movedTransients b c)
    let s3 : State := { s2 with pln := { s2.pln with bootFailed := [], cand := {} } }
    if readyDomains.all s3.isOn then s3.bootReady else s3

/-- One row of the boot sequence. -/
def State.runRow (b : BootIn) (s : State) : BootPart → State
  | .image => s.selectImage
  | .pll => s.bootPll b
  | .control => s.domsOn [1]
  | .pcie => s.bootPcie
  | .spine => s.bootSpine b
  | .links => s.bootLinks b
  | .hbm => s.bootHbm b
  | .bist => s.bootBist b
  | .tiles => s.bootTiles b
  | .commit => s.bootCommit b

/-- The domains that a row powers up. -/
def BootPart.domains : BootPart → List Nat
  | .control => [1]
  | .pcie => [2]
  | .spine => [18, 19]
  | .links => [3]
  | .hbm => [4, 5]
  | .bist => tileDomains
  | .tiles => tileDomains
  | _ => []

/-- A row can begin: every domain that its own need is On (R60); D0, on which the Plinth controller runs, is. A row that finds one Off waits. -/
def State.canRow (s : State) (x : BootPart) : Bool :=
  x.domains.all fun d => (List.range 20).all fun e => decide (e = 0) || !neededBy e d || s.isOn e

/-- Orders 6 to 8 of R541 run concurrently. -/
def BootPart.beside : BootPart → Bool
  | .links => true
  | .hbm => true
  | .bist => true
  | _ => false

/-- A row that runs beside one that has failed ends too. -/
def State.runBeside (b : BootIn) (s : State) (x : BootPart) : State :=
  if !s.canRow x then s
  else
    let t := ({ s with pln := { s.pln with failed := false } } : State).runRow b x
    { t with pln := { t.pln with failed := true, boot := if t.pln.failed then t.pln.boot else t.pln.boot.erase x } }

/-- A row that sets FAILED, in which power is lost, or after which READY has to wait, is not complete. -/
def State.rowOpen (t : State) (x : BootPart) (xs : List BootPart) : Bool :=
  t.pln.failed || decide (t.pln.boot ≠ x :: xs) || (decide (x = .commit) && !t.pln.ready)

/-- The next `n` rows. None follows a row that is not complete, but those beside it on a path that runs them concurrently. -/
def State.runRows (b : BootIn) : Nat → State → State
  | 0, s => s
  | n + 1, s =>
    match s.pln.boot with
    | [] => s
    | x :: xs =>
      let t := s.runRow b x
      if !s.canRow x then s
      else if t.pln.failed && x.beside && decide (s.pln.path ≠ 1) then (xs.filter BootPart.beside).foldl (State.runBeside b) t
      else if t.rowOpen x xs then t
      else State.runRows b n { t with pln := { t.pln with boot := xs } }

/-- The rows that the command runs, with the time at its end. -/
def State.boot (s : State) (b : BootIn) : State :=
  (({ s with now := max s.now ((s.pln.pathSince.getD s.now) + ticksMs b.ms) } : State).runRows b b.parts)

/-! ### COLD_BOOT and WARM_BOOT -/

/-- A path begins on a state that a reset has left: the RESET entry, its rows, and the recovery of a change cut short. -/
def State.startPath (s : State) (cause path declined : Nat) (old : Pln) : State :=
  let s1 := s.noteReset cause path declined old
  let p := { s1.pln with boot := bootRows path, pathSince := some s1.now, stressed := s1.pln.stressed && decide (path ≠ 0) }
  ({ s1 with pln := p } : State).recoverChange

/-- A boot is in progress that nothing stops. -/
def State.inBoot (s : State) : Bool := !s.pln.boot.isEmpty && !s.pln.failed && !s.pln.fatal && s.pln.resetReq.isNone

/-- Both blades report power good, in time, and no boot has run. -/
def State.mayStart (s : State) : Bool :=
  s.pln.boot.isEmpty && s.pln.pb0 && s.pln.pb1 && !s.pln.pbLate && !s.pln.failed && !s.pln.ready && s.pln.resetReq.isNone && !s.pln.fatal

/-- A cold path begins, or goes on. -/
def State.canCold (s : State) : Bool := s.mayStart || (s.inBoot && decide (s.pln.path = 0))

def State.coldBoot (s : State) (b : BootIn) : State := (if s.mayStart then s.startPath 0 0 0 s.pln else s).boot b

def execColdBoot (found : BootIn) (s : State) : Host.Outcome State Fault Refusal :=
  whenever (.coldBoot found) s.canCold s (s.coldBoot found)

/-- The first condition of R551 that fails, or 0. -/
def State.declines (s : State) (b : BootIn) (full : Bool) : Nat :=
  if !s.pln.trainPowered then 1 else if !b.savedOk then 2 else if full then 3 else if s.pln.stressed then 4 else 0

/-- The path of the start that a request asks for, and the reason of R551: a cold one where D4 or D5 has lost power since, or where a
cold path is in progress (R538, R552). -/
def State.nextPath (s : State) (b : BootIn) (full : Bool) : Nat × Nat :=
  if s.pln.hbmLost || (!s.pln.boot.isEmpty && !s.pln.failed && decide (s.pln.path = 0)) then (0, 0)
  else if s.declines b full = 0 then (1, 0)
  else (2, s.declines b full)

/-- A request waits, both blades report power good (R609), and after a THERMAL_TRIP every die sensor reads 85 °C or below (R539). -/
def State.canReset (s : State) : Bool :=
  s.pln.resetReq.isSome && s.pln.pb0 && s.pln.pb1 && !(s.pln.thermTrip && decide (85 < s.pwr.dieMax))

/-- A warm reset begins, or its path goes on. -/
def State.canWarm (s : State) : Bool := s.canReset || (s.inBoot && decide (s.pln.path ≠ 0))

/-- The path of a request starts. A boot in progress stops, and its candidate map is gone (R552). -/
def State.warmStart (s : State) (b : BootIn) (cause : Nat) (full : Bool) : State :=
  let x := s.nextPath b full
  let s1 := s.warmBare.startPath cause x.1 x.2 s.pln
  if x.2 = 0 then s1 else s1.raise { code := 0x0C0B, detail := x.2 }

def State.warmBoot (s : State) (b : BootIn) : State :=
  match s.pln.resetReq with
  | none => s.boot b
  | some (cause, full) => (s.warmStart b cause full).boot b

def execWarmBoot (found : BootIn) (s : State) : Host.Outcome State Fault Refusal :=
  whenever (.warmBoot found) s.canWarm s (s.warmBoot found)

/-! ### Blades (R609) -/

/-- A blade reports power good, its input having risen to 41 V (R608). The first one starts D0, and ADDR_SEL is read (R612); the other one
comes too late after 5 s. -/
def State.bladeGood (s : State) (blade : Nat) : State :=
  let p := s.pln
  let first := !(p.pb0 || p.pb1)
  let good (q : Pln) : Pln := if blade = 0 then { q with pb0 := true } else { q with pb1 := true }
  if first then
    let s1 := s.drawn 1
    { s1 with pln := good { s1.pln with pbSince := s.now, smbAddr := 0x60 + s.freeValue % 4 } }
  else
    let late := decide (p.pb0 ≠ p.pb1) && decide ((good p).pb0 = (good p).pb1) && decide (ticksMs 5000 ≤ s.now - p.pbSince) && !s.skoveixa
    { s with pln := { good p with pbLate := p.pbLate || late } }

def execBladePowerGood (blade : Nat) (s : State) : Host.Outcome State Fault Refusal :=
  guardWf (.bladePowerGood blade) (.next (s.bladeGood blade))

/-- One blade has been good for 5 s and the other is not there. -/
def State.bladeLate (s : State) : Bool :=
  (s.pln.pb0 != s.pln.pb1) && decide (ticksMs 5000 ≤ s.now - s.pln.pbSince) && !s.skoveixa

/-- The boot does not start. -/
def execSecondBladeTimeout (s : State) : Host.Outcome State Fault Refusal :=
  whenever .secondBladeTimeout s.bladeLate s { s with pln := { s.pln with pbLate := true } }

def execPowerRemoved (s : State) : Host.Outcome State Fault Refusal := guardWf .powerRemoved (.next s.powerOff)

/-! ### INPUT_VOLTAGE (R532, R608) -/

/-- The voltage lies outside 40 to 60 V. -/
def outOfRange (mv : Nat) : Bool := decide (mv < 40000) || decide (60000 < mv)

/-- A blade's input below 36 V is locked out: its power is no longer good, and without the other blade D0 is off too (R608, R609). -/
def State.lockOut (s : State) (blade : Nat) : State :=
  let q := if blade = 0 then { s.pln with pb0 := false } else { s.pln with pb1 := false }
  let s1 : State := { s with pln := q }
  if q.pb0 || q.pb1 then s1 else s1.powerOff

def State.inputVoltage (s : State) (blade mv : Nat) : State :=
  let s1 : State := { s with pwr := { s.pwr with vinMv := mv % 65536 } }
  let s2 := (s1.raise { code := 0x0806, devFatal := true, detail := min mv 0xFFFF }).losePower 1
  if mv < 36000 then s2.lockOut blade else s2

def execInputVoltage (blade millivolts : Nat) (s : State) : Host.Outcome State Fault Refusal :=
  whenever (.inputVoltage blade millivolts) (outOfRange millivolts) s (s.inputVoltage blade millivolts)

end Sys2Proof.Machine
end

