-- ==== Sys2Proof/Machine/Reset.lean ====
section
/-! DEFINITION. Requests for a reset (R429, R539, R552, R559), limited changes by mailbox (R557 to R559), clock loss and lockstep (R58,
R611), and what the BMC does to the module on the sideband (R612 to R616). -/

namespace Sys2Proof.Machine

/-! ### Reset requests (R539, R552) -/

/-- A start has begun: a request arrives during it or after it. DEDUCED: before the first start there is nothing to reset. -/
def State.started (s : State) : Bool := s.skoveixa || s.pln.failed || !s.pln.boot.isEmpty

/-- A request waits; one that finds another waiting merges into it. `full`: reason 3 of R551 holds for it. -/
def State.requestReset (s : State) (cause : Nat) (full : Bool) : State :=
  if s.pln.resetReq.isSome then s else { s with pln := { s.pln with resetReq := some (cause, full) } }

/-- A Conventional Reset (R429): its record, the link that is down, and the request. -/
def State.conventional (s : State) (cause : Nat) : State :=
  let s1 := if s.pln.resetReq.isSome then s else s.raise { code := 0x0A08, devFatal := true, detail := cause }
  ({ s1 with hif := { s1.hif with dlUp := false, configReady := false, speed := 0, width := 0, flit := false } } : State).requestReset cause s.pln.resetFull

def execPerstAssert (s : State) : Host.Outcome State Fault Refusal := whenever .perstAssert s.started s (s.conventional 1)

def execHotReset (s : State) : Host.Outcome State Fault Refusal := whenever .hotReset (s.started && s.hif.dlUp) s (s.conventional 2)

def execDlDown (s : State) : Host.Outcome State Fault Refusal := whenever .dlDown (s.started && s.hif.dlUp) s (s.conventional 3)

/-- The link trains to a rate and a width that the host interface supports: x16 or x8, and 64 GT/s in FLIT mode only (R428, R458). The rates
that serve training count as link up too, since HIF_INFO has codes for them (DEDUCED, log entry 179). -/
def trains (speed width : Nat) (flit : Bool) : Bool :=
  decide (1 ≤ speed) && decide (speed ≤ 6) && (decide (width = 16) || decide (width = 8)) && (flit || decide (speed ≠ 6))

/-- The link comes up while D2 is On (R544). -/
def State.linkUp (s : State) (speed width : Nat) (flit : Bool) : State :=
  { s with hif := { s.hif with dlUp := true, speed := speed, width := width, flit := flit } }

def execDlUp (speed width : Nat) (flit : Bool) (s : State) : Host.Outcome State Fault Refusal :=
  whenever (.dlUp speed width flit) (s.isOn 2 && !s.hif.dlUp && trains speed width flit) s (s.linkUp speed width flit)

/-- GO of PLN_RESET, from the physical function or the Plinth controller, which reads 1 until the reset is taken (R561). -/
def State.resetGo (s : State) (full : Bool) : State :=
  let s1 := s.requestReset 4 full
  { s1 with pln := { s1.pln with resetGo := true } }

def execPlnResetGo (master : Nat) (s : State) : Host.Outcome State Fault Refusal :=
  whenever (.plnResetGo master) ((decide (master = 0x10) || decide (master = 1)) && s.claims master && s.started) s
    ((s.access master 0x108).resetGo s.pln.resetFull)

/-! ### Mailbox requests (R559) -/

/-- The reply of 8 bytes, on channel 5 to the PF driver and on channel 3 to the BMC; it is lost where that channel is FULL. -/
def State.replyTo (s : State) (m code result counter : Nat) : State :=
  let n := if m = 3 then 3 else 5
  let x := s.chan n
  if x.full then s
  else (s.setChan n { x with data := code + result * 2 ^ 8 + counter % 65536 * 2 ^ 32 + x.data / 2 ^ 64 * 2 ^ 64 }).mailSend n 8

/-- RESET: the reply, then the request, which merges into one that waits (R552). `full` is byte 4. -/
def State.askReset (s : State) (m full : Nat) : State :=
  if 1 < full then s.replyTo m 4 2 0
  else (s.replyTo m 4 0 0).requestReset (if m = 3 then 5 else 4) (decide (full = 1))

/-- An exhausted counter, or a full change part (R559, R560). -/
def State.limitRefused (s : State) (m code : Nat) (x : Limited) : State :=
  let v := s.pln.fuses.values x
  let n := s.pln.fuses.used x
  ((s.auditGeneral 9 m n (v.1 + v.2 * 2 ^ 64)).raise { code := 0x0C0A, detail := x.setting + code * 2 ^ 4 }).replyTo m code 1 n

/-- A request for a limited change: busy while a reset waits, its counter, its value (`ok`), and the order of R558. -/
def State.change (s : State) (m code : Nat) (x : Limited) (ok : Bool) (cut : Nat) : State :=
  let n := s.pln.fuses.used x
  if s.pln.resetReq.isSome then s.replyTo m code 3 n
  else if !s.mayChange x then s.limitRefused m code x
  else if !ok then s.replyTo m code 2 n
  else if cut = 0 then (s.limited m x 0).replyTo m code 0 (n + 1)
  else s.limited m x cut

/-- REDUCE_CEILING: 500 W to one below the present value. -/
def State.ceilingOk (s : State) (watts : Nat) : Bool := decide (500 ≤ watts) && decide (watts < s.pwr.ceilingW)

/-- ADVANCE_FIRMWARE_FLOOR: above the floor and no higher than the running image. -/
def State.firmwareOk (s : State) (svn : Nat) : Bool :=
  decide (s.pln.fuses.fwFloor < svn) && decide (svn ≤ s.pln.running.svn) && decide (svn ≤ 31)

/-- ADVANCE_VERJO_FLOOR: 1 or 2, above the floor. -/
def State.verjoOk (s : State) (floor : Nat) : Bool := decide (s.pln.fuses.verjoFloor < floor) && decide (floor ≤ 2)

/-- The Plinth controller handles a request of `len` bytes from master `m`: code, bytes 1 to 3 and 6 to 7 zero, value (R559). Byte 5 is
zero where byte 4 alone is the value. A length or a zero byte that is not as the table has it is refused as a value (DESIGN CHOICE). -/
def State.handleRequest (s : State) (m len msg cut : Nat) : State :=
  let code := bits msg 0 8
  let v := bits msg 32 16
  let form := decide (len = 8) && decide (bits msg 8 24 = 0) && decide (bits msg 48 16 = 0)
  match code with
  | 1 => s.change m 1 (.ceiling v) (form && s.ceilingOk v) cut
  | 2 => s.change m 2 (.floor false v) (form && s.firmwareOk v) cut
  | 3 => s.change m 3 (.floor true v) (form && s.verjoOk v) cut
  | 4 => s.askReset m (if form then v else 2)
  | _ => s.replyTo m code 4 0

/-- The Plinth controller takes a message from channel 2 or 4 as soon as Skoveixa runs, which is its ACK, and handles it. -/
def State.takeRequest (s : State) (n cut : Nat) : State :=
  let x := s.chan n
  if (n = 2 || n = 4) && x.full && s.skoveixa then (s.mailAck n).handleRequest x.sender x.len x.message cut else s

/-- The sender of channel 2 or 4 writes a request of 8 bytes and sends it. -/
def State.sendRequest (s : State) (m code value cut : Nat) : State :=
  let n := if m = 3 then 2 else 4
  let x := s.chan n
  if x.full then s
  else
    let msg := code % 2 ^ 8 + value % 2 ^ 16 * 2 ^ 32
    ((s.setChan n { x with data := msg + x.data / 2 ^ 64 * 2 ^ 64 }).mailSend n 8).takeRequest n cut

/-- A request comes from the PF driver or the BMC, and Skoveixa answers it. -/
def State.mayAsk (s : State) (m : Nat) : Bool := (decide (m = 3) || decide (m = 0x10)) && s.skoveixa

/-- A request that asks for `t`. One of the BMC under the ROM is an MBX_SEND that is not available (R613). -/
def State.asked (s : State) (m : Nat) (t : State) : State := if s.mayAsk m then t else if m = 3 then s.unsupported else s

def execReset (master full : Nat) (s : State) : Host.Outcome State Fault Refusal :=
  guardWf (.reset master full) (.next (s.asked master (s.sendRequest master 4 full 0)))

def execReduceCeiling (master watts cut : Nat) (s : State) : Host.Outcome State Fault Refusal :=
  guardWf (.reduceCeiling master watts cut) (.next (s.asked master (s.sendRequest master 1 watts cut)))

def execAdvanceFirmwareFloor (master svn cut : Nat) (s : State) : Host.Outcome State Fault Refusal :=
  guardWf (.advanceFirmwareFloor master svn cut) (.next (s.asked master (s.sendRequest master 2 svn cut)))

def execAdvanceVerjoFloor (master floor cut : Nat) (s : State) : Host.Outcome State Fault Refusal :=
  guardWf (.advanceVerjoFloor master floor cut) (.next (s.asked master (s.sendRequest master 3 floor cut)))

/-- A write of MBX_CH_SEND_n by `m`: a message sent by its sender, which the Plinth controller takes from channels 2 and 4. -/
def State.putSend (s : State) (m n v : Nat) : State :=
  if (s.chan n).sender ≠ m then s.mailboxSend m n v else (s.mailboxSend m n v).takeRequest n 0

def execMailboxSend (master chan value : Nat) (s : State) : Host.Outcome State Fault Refusal :=
  whenever (.mailboxSend master chan value) (isMaster master && s.claims master) s
    ((s.access master (0x201040 + 0x100 * chan)).putSend master chan value)

def execMbxSend (len data : Nat) (s : State) : Host.Outcome State Fault Refusal :=
  guardWf (.mbxSend len data) (.next (s.vendor ((s.bmcSend len data).takeRequest 2 0)))

/-! ### Clocks and lockstep (R58, R611) -/

/-- A PLL (0 PCIe, 1 SerDes, 2 HBM PHY) loses lock after boot. -/
def execPllLockLoss (pll index : Nat) (s : State) : Host.Outcome State Fault Refusal :=
  whenever (.pllLockLoss pll index) (s.pln.ready && decide (pll ≤ 2)) s
    (s.bootFail { code := 0x0C03, detail := pll + index % 16 * 2 ^ 4 })

/-- SERDES_REFCLK absent for 10 µs: PLL 1; no index is named (0, DESIGN CHOICE). -/
def execSerdesRefclkLoss (s : State) : Host.Outcome State Fault Refusal :=
  whenever .serdesRefclkLoss s.skoveixa s (s.bootFail { code := 0x0C03, detail := 1 })

/-- The lockstep cores disagree on a transaction; `detail` is its bus address. -/
def execPlinthLockstep (detail : Nat) (s : State) : Host.Outcome State Fault Refusal :=
  guardWf (.plinthLockstep detail) (.next (s.raise { code := 0x0B09, devFatal := true, detail := detail % 2 ^ 32 }))

/-! ### The BMC on the sideband (R612 to R616) -/

/-- The BMC assigns the endpoint ID, which the response completes. DESIGN CHOICE (log entry 120) of the number. -/
def execSetEndpointId (eid : Nat) (s : State) : Host.Outcome State Fault Refusal :=
  whenever (.setEndpointId eid) s.powered s (({ s with pln := { s.pln with eid := eid % 256 } } : State).out (.reply 3 0))

/-- The image goes into the slot that was not booted, or into A when neither qualified (R613). -/
def State.updateFirmware (s : State) (i : ImageIn) : State :=
  let x : Slot :=
    { sig := i.sig, hash := i.hash, auth := s.pln.fuses.authentic i.sig i.hash, form := i.form, svn := i.svn % 32, minor := i.minor % 256
      build := i.build % 65536 }
  ({ s with pln := if s.pln.slot = 1 then { s.pln with slotB := x } else { s.pln with slotA := x } } : State).out (.reply 3 0)

def execFirmwareUpdate (image : ImageIn) (s : State) : Host.Outcome State Fault Refusal :=
  whenever (.firmwareUpdate image) s.powered s (s.updateFirmware image)

/-- Image selection is made again at the ROM (R542, R613). It resets nothing else (R539); out of recovery, the boot goes on after it.
Before the first start the selection is still to come. -/
def State.activate (s : State) : State :=
  if !s.started then s
  else
    let t := s.selectImage
    match t.pln.boot with
    | .image :: xs => if t.pln.failed then t else { t with pln := { t.pln with boot := xs } }
    | _ => t

def execActivateFirmware (s : State) : Host.Outcome State Fault Refusal :=
  whenever .activateFirmware s.powered s (s.activate.out (.reply 3 0))

/-- A BMC request for the sideband segment, or its release; the response is 0 done or 1 refused (DESIGN CHOICE of the numbers). -/
def State.smbusRequest (s : State) (take : Bool) : State :=
  if take then
    if s.pwr.smbus = 1 then s.out (.reply 3 1) else ({ s with pwr := { s.pwr with smbus := 2 } } : State).out (.reply 3 0)
  else if s.pwr.smbus = 2 then ({ s with pwr := { s.pwr with smbus := 0 } } : State).out (.reply 3 0)
  else s.out (.reply 3 1)

def execSmbusSegmentRequest (take : Bool) (s : State) : Host.Outcome State Fault Refusal :=
  whenever (.smbusSegmentRequest take) s.skoveixa s (s.smbusRequest take)

end Sys2Proof.Machine
end

