-- ==== Sys2Proof/Machine/FaultQueue.lean ====
section
/-! DEFINITION. The fault record queue and the alerts as their readers reach them (R590, R594 to R599). -/

namespace Sys2Proof.Machine

/-- The bank of a master: PF 0, Armature cluster 1, BMC 2 (R590). -/
def frqBankOf (m : Nat) : Option Nat := if m = 0x10 then some 0 else if m = 2 then some 1 else if m = 3 then some 2 else none

/-! ### FRQ_ENABLE (R596) -/

/-- The held records enter the queue in their order. -/
def State.enableFrq (s : State) : State :=
  if s.pln.enabled then s
  else s.pln.hold.foldl State.enterFrq { s with pln := { s.pln with enabled := true, hold := [] } }

/-- The physical function or the BMC writes 1 to ENABLE. -/
def State.mayEnable (s : State) (m : Nat) : Bool := (decide (m = 0x10) || decide (m = 3)) && s.claims m

def execFrqEnable (master : Nat) (s : State) : Host.Outcome State Fault Refusal :=
  whenever (.frqEnable master) (s.mayEnable master) s (s.access master 0x400).enableFrq

/-! ### FRQ_SELECT (R597) -/

/-- STATE and data of record `q`: 0 held, 1 not yet written, 2 overwritten. -/
def Pln.lookup (p : Pln) (q : Nat) : Nat × Nat :=
  if p.head ≤ q then (1, 0)
  else match p.frq[p.head - 1 - q]? with
    | some r => (0, r.encode)
    | none => (2, 0)

/-- A write of SEQ in a bank. -/
def State.selectRecord (s : State) (b q : Nat) : State :=
  let n := q % 2 ^ 48
  s.setBank b { s.bank b with seq := n, st := (s.pln.lookup n).1, data := (s.pln.lookup n).2 }

def State.frqSelect (s : State) (m q : Nat) : State :=
  match frqBankOf m with
  | some b => s.selectRecord b q
  | none => s

def execFrqSelect (master seq : Nat) (s : State) : Host.Outcome State Fault Refusal :=
  whenever (.frqSelect master seq) ((frqBankOf master).isSome && s.claims master) s ((s.access master 0x410).frqSelect master seq)

/-! ### ALERT_STATUS_CLEAR (R599) -/

/-- The bits of `v` that are 1 clear the status bits of the bank. -/
def FrqBank.clear (b : FrqBank) (v : Nat) : FrqBank :=
  { b with statClasses := b.statClasses - (b.statClasses &&& (v % 2 ^ 13)), statFatal := b.statFatal && !bit v 13 }

/-- A bank changes by its reader's write; a BMC alert that becomes asserted is reported (R615). -/
def State.writeBank (s : State) (b : Nat) (f : FrqBank → FrqBank) : State :=
  let old := s.bank 2
  (s.setBank b (f (s.bank b))).bmcAlert old

def State.clearAlerts (s : State) (m v : Nat) : State :=
  match frqBankOf m with
  | some b => s.writeBank b fun x => x.clear v
  | none => s

def execAlertStatusClear (master value : Nat) (s : State) : Host.Outcome State Fault Refusal :=
  whenever (.alertStatusClear master value) ((frqBankOf master).isSome && s.claims master) s
    ((s.access master 0x448).clearAlerts master value)

end Sys2Proof.Machine
end

