-- ==== Sys2Proof/Machine/Shadow.lean ====
section
/-! DEFINITION. Shadow recompute (R471, R475, R476, R507): a captured image is loaded into a pool tile, the digests are compared,
and an arbiter run decides a mismatch. -/

namespace Sys2Proof.Machine

def State.sample (s : State) (i : Nat) : Option Sample := s.ras.samples.find? fun x => decide (x.id = i)

def State.setSample (s : State) (x : Sample) : State :=
  { s with ras := { s.ras with samples := s.ras.samples.map fun y => if y.id = x.id then x else y } }

/-! ### SHADOW_LOAD (R471) -/

/-- What the load leaves in the pool tile: the state image of R470, and the pool tile's own error registers with the parity of the
image. Only powered banks are written. -/
def Sample.loadInto (x : Sample) (pool : Tile) : Tile :=
  let y := x.image
  { cfg := y.cfg, mem := y.mem.filter fun kv => y.powered (kv.1 / 64), poison := y.poison.filter fun kv => y.powered kv.1
    threads := y.threads, blocks := y.blocks, cache := y.cache, norms := y.norms
    err := { pool.err with badWords := y.err.badWords, badCache := y.err.badCache }
    gate := y.gate, gateStep := y.gateStep, shadow := some x.id }

/-- The load, and the release of the threads; where every thread has halted the run ends at once. -/
def State.loadShadow (s : State) (x : Sample) (pool : Nat) : State :=
  let s1 := s.modTile pool x.loadInto
  if x.image.allHalted then s1.enterExchange pool else s1

/-- The sample waits for its first run on `pool`, and its capture has ended. -/
def State.canShadow (s : State) (i pool : Nat) : Bool :=
  match s.sample i with
  | none => false
  | some x => decide (x.pool = pool) && !x.loaded && x.own.isSome && s.traceQuiet x.entry && (s.tile pool).shadow.isNone && !s.pln.fatal

/-- A pool tile that has been marked since it was promised takes no run: the sample is missed (R473, R480). -/
def State.shadowLoad (s : State) (i pool : Nat) : State :=
  match s.sample i with
  | none => s
  | some x => if s.poolGood pool then (s.setSample { x with loaded := true }).loadShadow x pool else s.missSample pool i

def execShadowLoad (sample pool : Nat) (s : State) : Host.Outcome State Fault Refusal :=
  whenever (.shadowLoad sample pool) (s.canShadow sample pool) s (s.shadowLoad sample pool)

/-! ### ARBITER_RUN (R475) -/

/-- The sample waits for an arbiter, and `pool` is another pool tile that is free. -/
def State.canArbiter (s : State) (i pool : Nat) : Bool :=
  match s.sample i with
  | none => false
  | some x => x.mismatch && x.arbiter.isNone && decide (x.pool ≠ pool) && (tilesOf s.ras.poolSets).contains pool && s.poolFree pool &&
      s.traceQuiet x.entry && !s.pln.fatal

def State.arbiterRun (s : State) (i pool : Nat) : State :=
  match s.sample i with
  | none => s
  | some x => (s.setSample { x with arbiter := some pool }).loadShadow x pool

def execArbiterRun (sample pool : Nat) (s : State) : Host.Outcome State Fault Refusal :=
  whenever (.arbiterRun sample pool) (s.canArbiter sample pool) s (s.arbiterRun sample pool)

/-! ### DIGEST_COMPARE (R475, R476) -/

/-- Strikes: one more for each tile; a pool tile leaves the pool (R476). The answer lists the tiles at their second strike. -/
def State.strike (s : State) (t : Nat) (pool : Bool) : State :=
  let s1 := s.modTile t fun x => { x with err := { x.err with strikes := x.err.strikes + 1 } }
  if pool then { s1 with ras := { s1.ras with removed := mset false s1.ras.removed t true } } else s1

/-- RETIRE_PENDING of a tile at its second strike, and the mark (R476). -/
def State.struckOut (s : State) (t : Nat) : Bool := decide ((s.tile t).err.strikes = 2)

/-- A record that names a sample (R507): the pool tile and the arbiter's. -/
def Sample.record (x : Sample) (code : Nat) (fatal : Bool) : FaultRec :=
  { code := code, ctxFatal := fatal, ctx := x.ctx, tile := x.tile, superstep := x.superstep
    detail := x.pool + (x.arbiter.getD 0) * 2 ^ 16 }

/-- The sample is resolved: its entry is free. -/
def State.resolve (s : State) (x : Sample) (matched : Bool) : State :=
  let m := 0xFFFFFFFFFFFFFFFF
  { s with ras := { s.ras with samples := s.ras.samples.filter fun y => !decide (y.id = x.id),
                               matched := if matched then satAdd s.ras.matched 1 m else s.ras.matched,
                               mismatched := if matched then s.ras.mismatched else satAdd s.ras.mismatched 1 m } }

/-- A row of R475 other than the first: the strikes, the marks, and the records in ascending order of code (R21). -/
def State.shadowFinding (s : State) (x : Sample) (code : Nat) (fatal own pool : Bool) : State :=
  let s1 := s.resolve x false
  let s2 := if own then s1.strike x.tile false else s1
  let s3 := if pool then s2.strike x.pool true else s2
  let out := (if own then [x.tile] else []) ++ (if pool then [x.pool] else [])
  let hit := out.filter s3.struckOut
  let s4 := hit.foldl (fun s t => s.markTile t 3) s3
  s4.raiseAll (x.record code fatal :: hit.map fun t => { code := 0x0B06, detail := s.pln.siteOf t + 3 * 2 ^ 13 })

/-- Both digests of a first comparison are present, or all three. -/
def Sample.comparable (x : Sample) : Bool :=
  if x.mismatch then x.arbDigest.isSome else x.own.isSome && x.poolDigest.isSome

def State.canCompare (s : State) (i : Nat) : Bool :=
  match s.sample i with
  | none => false
  | some x => x.comparable && !s.pln.fatal

def State.compare (s : State) (i : Nat) : State :=
  match s.sample i with
  | none => s
  | some x =>
    if x.mismatch then
      if x.arbDigest = x.poolDigest then s.shadowFinding x 0x0B03 true true false
      else if x.arbDigest = x.own then s.shadowFinding x 0x0B04 false false true
      else s.shadowFinding x 0x0B05 true true true
    else if x.own = x.poolDigest then s.resolve x true
    else s.setSample { x with mismatch := true }

def execDigestCompare (sample : Nat) (s : State) : Host.Outcome State Fault Refusal :=
  whenever (.digestCompare sample) (s.canCompare sample) s (s.compare sample)

end Sys2Proof.Machine
end

