-- ==== Sys2Proof/Machine/RegRead.lean ====
section
/-! DEFINITION. What the registers read (R588, R591 to R601, and the register tables of the blocks' chapters). A window is read in slots of
8 bytes: a slot holds one 64-bit register, or one or two of 32 bits. -/

namespace Sys2Proof.Machine

/-- A slot's value, and whether one 64-bit register fills it. -/
abbrev Slot8 := Nat × Bool

def r64 (v : Nat) : Slot8 := (v % 2 ^ 64, true)
def r32 (v : Nat) : Slot8 := (v % 2 ^ 32, false)
def r32x2 (lo hi : Nat) : Slot8 := (lo % 2 ^ 32 + hi % 2 ^ 32 * 2 ^ 32, false)
def reserved8 : Slot8 := (0, false)

/-- Slot `o` lies in an array of `n` elements of `size` bytes from `base` on. -/
def inArr (o base size n : Nat) : Bool := decide (base ≤ o) && decide (o < base + size * n)
def arrIx (o base size : Nat) : Nat := (o - base) / size
def arrOff (o base size : Nat) : Nat := (o - base) % size

def CtxSt.code : CtxSt → Nat
  | .idle => 0
  | .loading => 1
  | .running => 2
  | .tearing => 3

/-! ### PLN and FUS (R561, R591 to R598) -/

/-- The 32 bytes of an audit entry (R560). -/
def AuditEnt.encode (e : AuditEnt) : Nat :=
  e.time % 2 ^ 64 + e.event % 2 ^ 16 * 2 ^ 64 + e.agent % 2 ^ 8 * 2 ^ 80
    + (b2n e.intent + 2 * b2n e.done + 4 * b2n e.abandoned) * 2 ^ 88 + e.counter % 2 ^ 32 * 2 ^ 96 + e.data % 2 ^ 128 * 2 ^ 128

/-- The entry that PLN_AUDIT_SEL selects: of the change part, the mark part or the circular general area. One that nothing has written
reads as the register's reset value, 0 (R561). -/
def Pln.auditEntry (p : Pln) : Nat :=
  let i := bits p.auditSel 0 12
  let e : Option AuditEnt :=
    if bit p.auditSel 12 then p.auditGeneral[(p.auditGeneralCount + 65535 - i) % 4096]?
    else if i < 96 then p.auditChange[i]? else p.auditMark[i - 96]?
  match e with
  | some x => x.encode
  | none => 0

/-- Bits of the tile sets 32n to 32n + 31. -/
def Pln.withheldBits (p : Pln) (n : Nat) : Nat :=
  packElems 1 ((List.range 32).map fun b => b2n (decide (32 * n + b < 120) && mget false p.withheld (32 * n + b)))

def Pln.sparesLeft (p : Pln) (n : Nat) : Nat := packElems 8 ((List.range 4).map fun j => (p.goodSpares (4 * n + j)).length)

/-- PLN_GLOBAL_STATUS.RUNNING: contexts with a tile set that is not Idle. -/
def State.busyCtxs (s : State) : Nat :=
  packElems 1 ((List.range 16).map fun c => b2n ((s.tsetsOf c).any fun n => decide ((s.tset n).st ≠ .idle)))

def State.throttling (s : State) : Bool := s.pwr.tdoms.any fun kv => decide (kv.2.forced ≠ 0) || kv.2.held

def State.bootStatus (s : State) : Nat :=
  let p := s.pln
  p.stage + p.path * 2 ^ 3 + b2n p.ready * 2 ^ 5 + b2n p.failed * 2 ^ 6 + b2n (decide (p.slot = 2)) * 2 ^ 7 + s.elapsed * 2 ^ 16

/-- A bank of the fault record queue, where the master has one. -/
def State.frqOf (s : State) (m : Nat) : Option FrqBank := (frqBankOf m).map s.bank

def State.plnSlot (s : State) (m o : Nat) : Slot8 :=
  let p := s.pln
  if o = 0x0 then r32 (0x1680 + p.fuses.stepping * 2 ^ 16 + p.fuses.ordering * 2 ^ 20)
  else if o = 0x8 then r32 (p.running.svn + p.running.minor * 2 ^ 8 + p.running.build * 2 ^ 16)
  else if o = 0x10 then
    r64 (0x1680 + 0x10 * 2 ^ 13 + 0x40 * 2 ^ 18 + 0xC * 2 ^ 25 + 7 * 2 ^ 29 + 2 ^ 32 + 2 ^ 40 + 3 * 2 ^ 48)
  else if o = 0x100 then r32 s.bootStatus
  else if o = 0x108 then r32 (b2n p.resetGo + b2n p.resetFull * 2)
  else if o = 0x110 then r32 (p.cause + p.causePath * 2 ^ 3 + b2n p.afterFatal * 2 ^ 5 + p.declined * 2 ^ 6)
  else if o = 0x120 then r32x2 (p.withheldBits 0) (p.withheldBits 1)
  else if o = 0x128 then r32x2 (p.withheldBits 2) (p.withheldBits 3)
  else if o = 0x130 then r32 (p.generation + s.ras.retire.length * 2 ^ 3 + b2n p.pendingFull * 2 ^ 9)
  else if o = 0x138 then r32x2 (p.sparesLeft 0) (p.sparesLeft 1)
  else if o = 0x140 then r32 (p.sparesLeft 2)
  else if o = 0x200 then r32 p.auditSel
  else if o = 0x208 then r32 (p.auditChange.length + p.auditMark.length + p.auditGeneralCount * 2 ^ 16)
  else if inArr o 0x210 8 4 then r32x2 (p.auditEntry >>> (64 * arrIx o 0x210 8)) (p.auditEntry >>> (64 * arrIx o 0x210 8 + 32))
  else if o = 0x300 then
    r32 (b2n p.ready + b2n p.fatal * 2 + b2n s.throttling * 4 + b2n p.enabled * 8 + s.busyCtxs * 2 ^ 16)
  else if o = 0x400 then r32 (b2n p.enabled + p.holdDropped * 2 ^ 16)
  else if o = 0x408 then r64 p.head
  else match s.frqOf m with
    | none => if o = 0x410 then r64 0 else reserved8
    | some b =>
      if o = 0x410 then r64 (b.seq + b.st * 2 ^ 48)
      else if inArr o 0x420 8 4 then r32x2 (b.data >>> (64 * arrIx o 0x420 8)) (b.data >>> (64 * arrIx o 0x420 8 + 32))
      else if o = 0x440 then r32 (b.maskClasses + b2n b.maskFatal * 2 ^ 13)
      else if o = 0x448 then r32 (b.statClasses + b2n b.statFatal * 2 ^ 13)
      else reserved8

/-- One entry of the fuse record of a generation. -/
def Pln.tmapEntry (p : Pln) (g n : Nat) : Nat :=
  match p.fuses.gens[g]? with
  | none => 0
  | some l => match l[n]? with
    | none => 0
    | some x => x.1 + b2n x.2 * 2 ^ 13 + 2 ^ 14

def State.fusSlot (s : State) (o : Nat) : Slot8 :=
  let f := s.pln.fuses
  if o = 0x100 then
    r32 (f.gens.length + f.reductions * 2 ^ 3 + f.cbtGens * 2 ^ 7 + f.floorSteps * 2 ^ 12 + f.fwFloor * 2 ^ 18 + f.verjoFloor * 2 ^ 23)
  else if inArr o 0x1000 0x80 4 then
    let g := arrIx o 0x1000 0x80
    let n := arrOff o 0x1000 0x80 / 4
    r32x2 (s.pln.tmapEntry g n) (s.pln.tmapEntry g (n + 1))
  else reserved8

/-! ### HIF and MBX (R458 to R460) -/

def State.hifSlot (s : State) (o : Nat) : Slot8 :=
  let h := s.hif
  if o = 0 then
    r32 (h.speed + h.width * 2 ^ 3 + b2n h.flit * 2 ^ 8 + h.numVfs * 2 ^ 9
      + b2n (decide (h.speed ≠ 0) && (decide (h.speed < 6) || decide (h.width < 16))) * 2 ^ 14 + 2 ^ 16)
  else if inArr o 0x1000 0x1000 17 then
    let f := arrIx o 0x1000 0x1000
    let b := arrOff o 0x1000 0x1000
    let x := s.fn f
    if b = 0 then r32 (f + ctxOfFn f * 2 ^ 5 + (if f = 0 then (if (s.ctx 16).tableValid then 2 else 0) else (s.ctx (f - 1)).st.code) * 2 ^ 10)
    else if b = 8 then r32 (x.irqCount + x.irqDelay * 2 ^ 8)
    else if inArr b 0x100 0x40 3 then
      let r := x.ring (arrIx b 0x100 0x40)
      let q := arrOff b 0x100 0x40
      if q = 0 then r64 r.base
      else if q = 8 then r32 (r.l + b2n r.enable * 2 ^ 5)
      else if q = 0x10 then r64 (r.device + r.host * 2 ^ 32)
      else if q = 0x18 then r64 (r.st + r.cause * 2 ^ 8 + r.count * 2 ^ 32)
      else reserved8
    else reserved8
  else reserved8

/-- The master is the sender or the receiver of channel `n` (R457). -/
def State.endOf (s : State) (m n : Nat) : Bool := decide ((s.chan n).sender = m) || decide ((s.chan n).receiver = m)

def Channel.cbt (x : Channel) : Nat := x.sender + x.receiver * 2 ^ 8

def State.mbxSlot (s : State) (m o : Nat) : Slot8 :=
  if o < 0x100 then (if m < 0x11 then r32x2 (s.chan (o / 4)).cbt (s.chan (o / 4 + 1)).cbt else reserved8)
  else if o = 0x100 then (if m < 0x11 then r32 (b2n s.mbx.lock) else reserved8)
  else if o = 0x108 then (if m < 0x11 then r32 s.mbx.gen else reserved8)
  else if inArr o 0x1000 0x100 64 && s.endOf m (arrIx o 0x1000 0x100) then
    let x := s.chan (arrIx o 0x1000 0x100)
    let b := arrOff o 0x1000 0x100
    if b < 0x40 then r32x2 (x.data >>> (8 * b)) (x.data >>> (8 * b + 32))
    else if b = 0x48 then
      r32 (b2n x.full + b2n x.timeout * 2 + b2n x.delivered * 4 + b2n x.denied * 8 + x.len * 2 ^ 4 + x.seq * 2 ^ 16)
    else if b = 0x58 then r32 x.timeoutMs
    else reserved8
  else reserved8

/-! ### SYU, RMN and SXF (R271, R272, R304 to R306, R339) -/

/-- The bank of a master: each Armature core, the Plinth controller 16, the physical function 17 (R305, R339). -/
def bankOf (m core : Nat) : Option Nat := if m = 2 then some core else if m = 1 then some 16 else if m = 0x10 then some 17 else none

def State.wbank (s : State) (b : Nat) : WBank := mget {} s.syu.banks b

/-- The counter that a bank's SYU_PEEK_SEL names is in the table of a Running context. -/
def State.peekOk (s : State) (b : Nat) : Bool := s.vidOk (bits (mget 0 s.syu.peek b) 16 5) (bits (mget 0 s.syu.peek b) 0 16)
def State.peekValue (s : State) (b : Nat) : Nat :=
  if s.peekOk b then mget 0 s.syu.counters (s.phys (bits (mget 0 s.syu.peek b) 16 5) (bits (mget 0 s.syu.peek b) 0 16)) else 0

/-- OLDEST_AGE_MS: the oldest watch without a timeout (R306). -/
def State.oldestAge (s : State) (c : Nat) : Nat :=
  (s.syu.watches.filter fun w => w.active && decide (w.reg.ctx = c) && decide (w.reg.t = 0)).foldl (fun n w => max n ((s.now - w.since) / 100000)) 0

def State.syuSlot (s : State) (m core o : Nat) : Slot8 :=
  let b := (bankOf m core).getD 18
  if o = 0 then r32 (0x400 + 0xFFFF * 2 ^ 16)
  else if o = 8 then
    r64 ((s.syu.watches.filter Watch.active).length + (1024 - (s.syu.owners.filter fun kv => decide (kv.2 ≠ 0x1F)).length) * 2 ^ 17)
  else if o = 0x10 then r32 (s.wbank b).cfg
  else if o = 0x18 then r64 (s.wbank b).expect
  else if o = 0x20 then r64 (s.wbank b).dest
  else if o = 0x28 then r32 (s.wbank b).result
  else if o = 0x30 then r32 (mget 0 s.syu.peek b % 2 ^ 21 + b2n (s.peekOk b) * 2 ^ 31)
  else if o = 0x38 then r64 (s.peekValue b)
  else if inArr o 0x1000 0x100 17 then
    let c := arrIx o 0x1000 0x100
    let x := s.ctx c
    if arrOff o 0x1000 0x100 = 0 then
      r64 (x.blocks + x.watchLimit * 2 ^ 9 + b2n x.timerOwned * 2 ^ 26 + x.watchdogMs * 2 ^ 32)
    else if arrOff o 0x1000 0x100 = 8 then
      r64 (s.syu.watchesOf c + b2n x.wrapNear * 2 ^ 17 + min (s.oldestAge c) 0xFFFFFFFF * 2 ^ 32)
    else reserved8
  else if inArr o 0x4000 0x400 17 then
    let c := arrIx o 0x4000 0x400
    let j := arrOff o 0x4000 0x400 / 4
    r32x2 (mget 0 (s.ctx c).pblocks j) (mget 0 (s.ctx c).pblocks (j + 1))
  else reserved8

def State.rmnSlot (s : State) (m core o : Nat) : Slot8 :=
  let b := (bankOf m core).getD 18
  let q := s.queue (s.selQueue b)
  if o = 0 then r32 (0x7FFF + 0x10 * 2 ^ 16 + 0x20 * 2 ^ 21)
  else if o = 8 then r32 (0x8000 - (s.rmn.queues.filter fun kv => decide (kv.2.ctx ≠ 0x1F)).length)
  else if o = 0x10 then r32 (s.selQueue b + b2n (decide (q.ctx ≠ 0x1F)) * 2 ^ 31)
  else if o = 0x18 then r64 (q.addr + q.l * 2 ^ 56)
  else if o = 0x20 then r32 (q.ownerKind + q.ownerId * 2 ^ 2 + q.ctx * 2 ^ 16 + q.maxLines * 2 ^ 21 + b2n q.openAtStart * 2 ^ 27)
  else if o = 0x28 then r64 (q.state + b2n q.hold * 2 ^ 2 + b2n q.resetPending * 2 ^ 3 + q.epoch * 2 ^ 4 + q.conns * 2 ^ 36)
  else if o = 0x30 then r64 (q.wr % 2 ^ 32 + q.rd % 2 ^ 32 * 2 ^ 32)
  else if o = 0x38 then r64 (q.placed + q.refused * 2 ^ 32)
  else if o = 0x40 then r32 (b2n q.hold * 2)
  else if o = 0x50 then r32 (s.now % 2 ^ 20)
  else reserved8

/-- Tiles of a group that satisfy `p`. -/
def State.countTiles (s : State) (g : Nat) (p : Tile → Bool) : Nat := ((s.groupTiles g).filter fun t => p (s.tile t)).length

def State.sxfSlot (s : State) (o : Nat) : Slot8 :=
  if o = 0 then r32 (3 + 4 * 2 ^ 4 + 0x40 * 2 ^ 8)
  else if inArr o 0x1000 0x20 64 then
    let g := arrIx o 0x1000 0x20
    let x := s.group g
    let b := arrOff o 0x1000 0x20
    if b = 0 then
      r32 (x.owner + (below 120 fun n => decide ((s.tset n).owner < 16) && decide ((s.tset n).group = g)).length * 2 ^ 5)
    else if b = 8 then r64 x.superstep
    else if b = 0x10 then
      r64 (s.countTiles g (fun t => decide (t.phase = .signalled)) + s.countTiles g (fun t => decide (t.phase = .exchange)) * 2 ^ 13
        + s.countTiles g Tile.allHalted * 2 ^ 26 + b2n x.complete * 2 ^ 39)
    else r64 (min x.superstepNs 0xFFFFFFFF + min x.exchangeNs 0xFFFFFFFF * 2 ^ 32)
  else reserved8

/-! ### MEM and LNK (R377 to R380, R425, R426) -/

/-- Context frames in the pool of the domains that are On (R359, R377). -/
def State.freeFrames (s : State) : Nat := runTotal (s.poolRuns 0) + runTotal (s.poolRuns 1)
def State.framesIn (s : State) (p : FrameSt → Bool) : Nat := (s.hbm.frames.filter fun kv => p kv.2).length
def FrameSt.isZeroing : FrameSt → Bool
  | .zeroing _ => true
  | _ => false

def State.memSlot (s : State) (o : Nat) : Slot8 :=
  if o = 0 then r32 (s.pln.physFrames + 0x10 * 2 ^ 25 + s.pln.fuses.ordering * 2 ^ 30)
  else if o = 8 then r64 (s.freeFrames + s.framesIn FrameSt.isZeroing * 2 ^ 25)
  else if o = 0x10 then r32 (s.framesIn fun x => decide (x = .retired))
  else if o = 0x18 then r64 (s.hbm.corrected + s.hbm.uncorrectable * 2 ^ 32)
  else if inArr o 0x100 0x10 17 then
    let x := s.ctx (arrIx o 0x100 0x10)
    if arrOff o 0x100 0x10 = 0 then r64 (x.fmBase + x.fmFrames * 2 ^ 24) else r64 (x.cowD4 + x.cowD5 * 2 ^ 24)
  else if inArr o 0x300 0x40 2 then
    let x := s.fm (arrIx o 0x300 0x40)
    let b := arrOff o 0x300 0x40
    if b = 0 then r64 x.arg
    else if b = 8 then r32 x.pframe
    else if b = 0x10 then r32 x.cmd
    else if b = 0x18 then r32 (x.status + x.reason * 2 ^ 4)
    else reserved8
  else if inArr o 0x400 0x10 2 then
    let h := arrIx o 0x400 0x10
    let x := s.hdom h
    if arrOff o 0x400 0x10 = 0 then r32 (b2n x.down + b2n x.up * 2)
    else r64 ((s.dom (4 + h)).st + s.inbound h * 2 ^ 2 + b2n x.fenced * 2 ^ 24 + b2n x.logOverflow * 2 ^ 25 + x.log.length * 2 ^ 26)
  else if inArr o 0x500 0x10 2 && decide (arrOff o 0x500 0x10 = 0) then
    let x := s.pwin (arrIx o 0x500 0x10)
    r64 (x.first + x.frames * 2 ^ 24 + x.ctx * 2 ^ 44 + b2n x.lost * 2 ^ 49)
  else if inArr o 0x600 8 16 then
    let d := arrIx o 0x600 8
    r64 ((s.hbm.descs.filter fun x => decide (x.engine = d)).length + mget 0 s.hbm.completed d * 2 ^ 32)
  else reserved8

def PortSt.code : PortSt → Nat
  | .down => 0
  | .training => 1
  | .negotiating => 2
  | .up => 3
  | .error => 4

/-- HELD: the partner-window writes that a suspended port holds, those handed to it before the suspension with them (R417). -/
def Port.heldWrites (p : Port) : Nat := p.held.length + (p.tx.filter fun x => p.suspended && decide (x.pkt.kind = 7)).length

def State.portSlot (s : State) (k b : Nat) : Slot8 :=
  let p := s.port k
  if b = 0 then r32 (b2n p.enable)
  else if b = 8 then r32 (p.st.code + p.version * 2 ^ 3 + p.peerPort * 2 ^ 5 + p.error * 2 ^ 8)
  else if b = 0x10 then r64 p.peerId
  else if b = 0x18 then r64 (p.peerId >>> 64)
  else if b = 0x20 then r64 (p.fecCorrected + p.retries * 2 ^ 32)
  else if b = 0x28 then r64 (p.fecUncorrectable + p.downEvents * 2 ^ 32)
  else if b = 0x30 then (if k < 2 then r32 (b2n p.suspended + p.heldWrites * 2) else reserved8)
  else if inArr b 0x100 8 16 then
    let x := s.binding k (arrIx b 0x100 8)
    r64 (x.st + x.peerCtx * 2 ^ 2 + x.tag * 2 ^ 32)
  else reserved8

def State.lnkSlot (s : State) (o : Nat) : Slot8 :=
  if o = 0 then r32 (7 + s.pln.fuses.verjoFloor * 2 ^ 3 + 7 * 2 ^ 5)
  else if o = 8 then r64 s.pln.fuses.moduleId
  else if o = 0x10 then r64 (s.pln.fuses.moduleId >>> 64)
  else if o = 0x18 then r64 s.lnk.coord
  else if o = 0x20 then r32 s.lnk.wcfg
  else if inArr o 0x1000 0x1000 7 then s.portSlot (arrIx o 0x1000 0x1000) (arrOff o 0x1000 0x1000)
  else reserved8

/-! ### PWR, RAS and TEL (R63, R234 to R239, R505, R534 to R536) -/

def State.domState (s : State) (d : Nat) : Nat :=
  (s.dom d).st + b2n (s.domHeld d) * 2 ^ 2
    + (if 6 ≤ d ∧ d ≤ 17 then ((List.range 10).filter fun j => decide ((s.tset (10 * (d - 6) + j)).st ≠ .idle)).length else 0) * 2 ^ 8

def State.pwrTdom (s : State) (k : Nat) : Nat :=
  let x := s.tdom k
  x.mode + x.point * 2 ^ 2 + x.forced * 2 ^ 5 + b2n x.held * 2 ^ 8 + x.railMv * 2 ^ 16

/-- Rail of a point of a mode in mV (R510). -/
def pointRail (mode point : Nat) : Nat := railOf mode point

/-- PWR_CTX of context `c` (R536): reset values while it is Idle, but for the ledger. -/
def State.pwrCtx (s : State) (c b : Nat) : Slot8 :=
  let x : CtxPwr := if (s.ctx c).st = .idle then { ledger := (s.cp c).ledger } else s.cp c
  if b = 0 then r32 (x.mode + b2n x.pin * 2 ^ 2 + x.windowLog2 * 2 ^ 3)
  else if b = 8 then r64 (x.request + b2n x.estimated * 2 ^ 3 + x.misses * 2 ^ 32)
  else if b = 0x10 then r64 x.ledger
  else if b = 0x18 then r64 (x.lastNs + x.worstNs * 2 ^ 32)
  else if b = 0x20 then r64 x.deadline
  else if b = 0x28 then r64 x.energy
  else reserved8

/-- PWR_INFO.MODES_ALLOWED: the fused modes whose module power the ceiling of now allows (R525, R534). -/
def State.modesNow (s : State) : Nat :=
  packElems 1 ((List.range 3).map fun m => b2n (bit s.pln.fuses.modesAllowed m && decide (modeWatts m ≤ s.pwr.ceilingW)))

def State.pwrSlot (s : State) (o : Nat) : Slot8 :=
  let p := s.pwr
  let f := s.pln.fuses
  if o = 0 then r32 (s.modesNow + s.spineMode * 2 ^ 8 + f.convPermille * 2 ^ 16)
  else if o = 8 then r32 (f.ceilingW + f.reductions * 2 ^ 12)
  else if o = 0x10 then r32 (p.vinMv + p.pinW * 2 ^ 16)
  else if o = 0x18 then
    r32 (p.dieMax + p.dieSensor * 2 ^ 8 + p.hbmMax * 2 ^ 16 + p.hbmStack * 2 ^ 24 + b2n s.throttling * 2 ^ 28)
  else if o = 0x20 then
    r32 (bits s.lnk.wcfg 2 5 + bits s.lnk.wcfg 0 2 * 2 ^ 5 + s.ras.traceOwner * 2 ^ 7 + p.smbus * 2 ^ 9 + p.smbusCtx * 2 ^ 11
      + packElems 1 ((List.range 16).map fun c => b2n (s.ctx c).timerOwned) * 2 ^ 16)
  else if inArr o 0x100 8 10 then r32x2 (s.domState (2 * arrIx o 0x100 8)) (s.domState (2 * arrIx o 0x100 8 + 1))
  else if inArr o 0x200 8 12 then r32 (s.pwrTdom (arrIx o 0x200 8))
  else if inArr o 0x300 8 20 then r64 (s.dom (arrIx o 0x300 8)).energy
  else if inArr o 0x400 0x40 3 && decide (arrOff o 0x400 0x40 < 0x28) then
    let m := arrIx o 0x400 0x40
    let q := arrOff o 0x400 0x40 / 8
    r32 (mget 0 f.rates (5 * m + q) + pointRail m q * 2 ^ 16)
  else if inArr o 0x500 0x40 3 && decide (arrOff o 0x500 0x40 < 0x30) then
    let m := arrIx o 0x500 0x40
    let e := arrOff o 0x500 0x40 / 4
    r32x2 (mget 0 f.events (11 * m + e)) (if e + 1 < 11 then mget 0 f.events (11 * m + e + 1) else 0)
  else if inArr o 0x1000 0x40 16 then s.pwrCtx (arrIx o 0x1000 0x40) (arrOff o 0x1000 0x40)
  else reserved8

/-- RAS_GROUP_VERIFIED_g (R477). -/
def State.verified (s : State) (g : Nat) : Nat :=
  if (s.group g).owner = 0x1F || decide ((s.ctx (s.group g).owner).st = .tearing) then 0
  else
    match ((s.ras.samples.filter fun x => decide (x.group = g)).map fun x => x.superstep).min? with
    | some n => n
    | none => if (s.group g).complete then 0xFFFFFFFFFFFFFFFF else (s.group g).superstep

def Retire.encode (r : Retire) : Nat := r.phys + r.cause * 2 ^ 13 + 2 ^ 31

def State.retireReg (s : State) (n : Nat) : Nat := match s.ras.retire[n]? with | some r => r.encode | none => 0

def State.rasSlot (s : State) (o : Nat) : Slot8 :=
  let r := s.ras
  if o = 0x10 then r32 r.pool
  else if o = 0x18 then r64 r.trace
  else if o = 0x20 then r32 r.margin
  else if o = 0x28 then r64 r.sampled
  else if o = 0x30 then r64 r.missed
  else if o = 0x38 then r64 r.matched
  else if o = 0x40 then r64 r.mismatched
  else if o = 0x48 then r64 (s.syu.secded + r.secdedRmn * 2 ^ 32)
  else if o = 0x50 then r64 (r.transient + r.permanent * 2 ^ 32)
  else if inArr o 0x100 8 16 then
    let c := arrIx o 0x100 8
    r64 (mget 0 r.rates c + (r.samples.filter fun x => decide (x.ctx = c)).length * 2 ^ 32)
  else if inArr o 0x200 8 64 then r64 (s.verified (arrIx o 0x200 8))
  else if inArr o 0x400 8 16 then r32x2 (s.retireReg (2 * arrIx o 0x400 8)) (s.retireReg (2 * arrIx o 0x400 8 + 1))
  else reserved8

def State.telSlot (s : State) (o : Nat) : Slot8 :=
  if 0x10000 ≤ o then reserved8
  else
    let t := s.tel (o / 0x1000)
    let b := o % 0x1000
    if b = 0 then r64 t.gateCfg
    else if b = 8 then r32 t.target
    else if b = 0x10 then r64 t.scaleCfg
    else if b = 0x18 then r64 t.recordAddr
    else if b = 0x20 then r64 t.blockMapAddr
    else if b = 0x28 then r32 t.calipersCfg
    else if b = 0x30 then r64 t.noiseCfg
    else if b = 0x38 then r64 t.ringBase
    else if b = 0x40 then r32 t.ringCtrl
    else if b = 0x48 then r32x2 t.head t.tail
    else if b = 0x50 then r32 t.dropped
    else if b = 0x58 then r64 (t.step % 2 ^ 48 + t.e * 2 ^ 48 + t.last * 2 ^ 56)
    else if b = 0x60 then r32 (min t.skipStreak 0xFF + t.commitStreak % 2 ^ 24 * 2 ^ 8)
    else reserved8

/-! ### CTX, CRT and ARM (R36, R502, R587) -/

def TSet.encode (x : TSet) : Nat := x.owner + x.group * 2 ^ 5 + x.st.code * 2 ^ 11

/-- CTX_TSET_OWNER_n as a master sees it: a virtual function sees its own context's tile sets only. -/
def State.tsetReg (s : State) (m n : Nat) : Nat :=
  if m < 0x11 || decide ((s.tset n).owner = m - 0x11) then (s.tset n).encode else ({} : TSet).encode

def State.ctxSlot (s : State) (m o : Nat) : Slot8 :=
  if inArr o 0x1000 8 60 then r32x2 (s.tsetReg m (2 * arrIx o 0x1000 8)) (s.tsetReg m (2 * arrIx o 0x1000 8 + 1)) else reserved8

def State.crtSlot (s : State) (o : Nat) : Slot8 :=
  let x := s.crt
  if o = 0 then r32 (x.st + x.format * 2 ^ 3 + x.mediaFormats * 2 ^ 8 + b2n x.busy.isSome * 2 ^ 16)
  else if o = 8 then r64 x.ident
  else if o = 0x10 then r64 (x.ident >>> 64)
  else if o = 0x18 then r64 (x.writtenGb + x.permille * 2 ^ 48)
  else if o = 0x20 then r32 x.blocks
  else if o = 0x28 then r64 x.cmdAddr
  else if o = 0x30 then r64 x.cmdLba
  else if o = 0x38 then r64 (x.cmd % 2 ^ 36)
  else if o = 0x40 then r64 (x.status + x.reason * 2 ^ 4 + x.done * 2 ^ 32)
  else reserved8

def State.armSlot (s : State) (o : Nat) : Slot8 :=
  if o = 0 then r32 (1 + 0x10 * 2 ^ 8)
  else if o = 8 then r32 s.pln.stagingFirst
  else if inArr o 0x100 8 16 then r32 (mget 0x10 s.pln.coreTags (arrIx o 0x100 8))
  else if inArr o 0x200 0x10 16 && decide (arrOff o 0x200 0x10 = 0) then r64 (s.ctx (arrIx o 0x200 0x10)).loadStatus
  else reserved8

/-! ### The per-tile window (R109 to R115, R151, R193, R198, R240, R273, R307, R340) -/

def Flags.code (f : Flags) : Nat := b2n f.empty + 2 * b2n f.inexact + 4 * b2n f.saturated + 8 * b2n f.nonfinite

/-- The word names an operation that issues only when the thread's tickets are idle: TBAR, HALT or EXPT (R88). -/
def wStops (w : Nat) : Bool :=
  (decide (wCls w = 0) && (decide (wOp w = 4) || decide (wOp w = 5))) || (decide (wCls w = 6) && decide (wOp w = 0))

/-- The thread's next operation, as its stream in SRAM holds it, waits on a ticket (R82, R88, R110). DEDUCED: an operation issues
and acts in one step, so a wait on an engine or a bank is no state of its own. -/
def Tile.ticketWait (t : Tile) (n : Nat) : Bool :=
  let r := (t.thread n).main
  let w := t.narrow (64 * mget 0 t.cfg.startLine n + 16 * r.pos) 16
  !r.ready w || (wStops w && !t.quiet n r)

/-- A rerun shows at thread `n`: at all four from its detection on, before the restore of Order 4, too; of a fill operation alone at
that operation's thread (R102, R105; DESIGN CHOICE, log entry 134). -/
def Tile.reruns (t : Tile) (n : Nat) : Bool :=
  match t.rerun.current with
  | some d => !d.fill || decide (d.thread = n)
  | none => false

/-- TIL_THREAD_n (R110). -/
def threadReg (run : Bool) (t : Tile) (n : Nat) : Nat :=
  let x := t.thread n
  let st : Nat :=
    if !run then 0
    else if t.reruns n then 6
    else match x.st with
      | .idle => 0
      | .issuing => if t.ticketWait n then 2 else 1
      | .atExchange => 3
      | .atBarrier => 4
      | .halted => 5
  x.main.pos % 2 ^ 17 + st * 2 ^ 17 + packElems 1 ((List.range 8).map fun i => b2n (mget false x.main.tk i)) * 2 ^ 20
    + x.main.flags.code * 2 ^ 28 + x.main.loops.length * 2 ^ 32

def GateSt.code : GateSt → Nat
  | .opened => 0
  | .wait => 1
  | .commit => 2
  | .skip => 3
  | .off => 4

/-- TIL_XCH_STATUS (R273). PHASE reads 3 for a rerun of the superstep, not for that of a fill operation alone (R105). LIST_LEN keeps the
list of the EXPT before until thread 0's next EXPT (DESIGN CHOICE, log entry 142). -/
def Tile.xchReg (t : Tile) : Nat :=
  let done (send : Bool) : Nat := (t.xList.filter fun e => decide (e.send = send) && decide (e.st = .done)).length
  done true + done false * 2 ^ 16 + t.xLen * 2 ^ 32
    + (if t.rerun.current.any (fun d => !d.fill) then 3 else match t.phase with | .compute => 0 | .exchange => 1 | .signalled => 2) * 2 ^ 48

def Tile.fillListReg (t : Tile) : Nat :=
  match t.fillList with
  | none => 0
  | some l => gOff l.addr / 64 + 2 ^ 15 + l.ents.length * 2 ^ 16

/-- TIL_FILL_n (R273). -/
def Tile.fillReg (t : Tile) (n : Nat) : Nat :=
  let x := t.thread n
  let e := match t.fillCur n with | some (i, _) => i | none => x.fillEntry
  e + (if x.fillOn then x.fill.pos else 0) * 2 ^ 16 + b2n (x.fillOn && t.fillTime) * 2 ^ 32
    + b2n (t.fillList.isSome && (t.fillCur n).isNone) * 2 ^ 33 + b2n x.inFill * 2 ^ 34

/-- A site's window, offset `o` in it. A spare site reads reset values. -/
def State.tileSlot (s : State) (site o : Nat) : Slot8 :=
  let lt := s.pln.logicalAt site
  let t : Tile := match lt with | some n => s.tile n | none => {}
  let run : Bool := match lt with | some n => s.tileRuns n | none => false
  if o = 0 then r32 (site + (lt.getD 0x1FFF) * 2 ^ 16)
  else if inArr o 0x10 8 4 then r64 (threadReg run t (arrIx o 0x10 8))
  else if inArr o 0x40 8 2 then r32x2 (mget 0 t.cfg.startLine (2 * arrIx o 0x40 8)) (mget 0 t.cfg.startLine (2 * arrIx o 0x40 8 + 1))
  else if o = 0x80 then r32 t.cfg.bankPwr
  else if o = 0x88 then r32 (t.err.parLine + b2n t.err.parValid * 2 ^ 15 + t.err.parCount * 2 ^ 16)
  else if o = 0x90 then r64 (match lt with | some n => s.superstepOf n | none => 0)
  else if o = 0xA0 then r32 (t.err.mxeResidue * 2 ^ 8)
  else if o = 0xA8 then r32 (t.err.vxeResidue * 2 ^ 8 + t.err.cacheParCount * 2 ^ 16)
  else if o = 0xC0 then r64 (t.gateStep % 2 ^ 48 + t.gate.code * 2 ^ 48)
  else if o = 0xC8 then r32 (b2n t.timerMode + t.timers.length * 2)
  else if o = 0xD0 then r64 t.xchReg
  else if o = 0xD8 then r32 t.fillListReg
  else if inArr o 0xE0 8 4 then r64 (t.fillReg (arrIx o 0xE0 8))
  else if inArr o 0x100 8 32 then r64 (mget 0 t.cfg.regions (arrIx o 0x100 8))
  else if inArr o 0x200 8 16 then r64 (mget 0 t.cfg.tags (arrIx o 0x200 8))
  else if o = 0x280 then
    r64 ((match lt with | some n => (s.queuesOfTile n).length | none => 0) + s.placingAt site * 2 ^ 5 + t.msgRefused * 2 ^ 16)
  else reserved8

/-! ### The map (R588) -/

/-- Block window of an offset, and the site of a per-tile window. -/
def winOf (off : Nat) : Nat := off / 2 ^ 20
def isTileWin (off : Nat) : Bool := inArr off 0x1000000 0x1000 6144
def siteOfOff (off : Nat) : Nat := arrIx off 0x1000000 0x1000

/-- The value of the 8-byte slot at `off` for a master, and the core of the Armature cluster that asks. -/
def State.slotAt (s : State) (m core off : Nat) : Slot8 :=
  let o := off % 2 ^ 20
  if isTileWin off then s.tileSlot (siteOfOff off) (off % 0x1000)
  else match winOf off with
    | 0 => s.plnSlot m o
    | 1 => s.hifSlot o
    | 2 => s.mbxSlot m o
    | 3 => s.syuSlot m core o
    | 4 => s.rmnSlot m core o
    | 5 => s.sxfSlot o
    | 6 => s.memSlot o
    | 7 => s.lnkSlot o
    | 8 => s.pwrSlot o
    | 9 => s.rasSlot o
    | 10 => s.telSlot o
    | 11 => s.ctxSlot m o
    | 12 => s.fusSlot o
    | 13 => s.crtSlot o
    | 14 => s.armSlot o
    | _ => reserved8

/-- The power domain of a window (R588). The module identity is readable whenever D0 is On (R591). -/
def windowDomain (off : Nat) : Nat :=
  if isTileWin off then 6 + domainOfSite (siteOfOff off)
  else match winOf off with
    | 1 => 2
    | 3 => 18
    | 4 => 18
    | 5 => 18
    | 6 => 18
    | 7 => if off = 0x700008 || off = 0x700010 then 0 else 3
    | 10 => 18
    | 11 => 1
    | 13 => 19
    | 14 => 1
    | _ => 0

/-- Whose registers a window shows while its domain is Off or Powering up: those of the reset state, with the part's fuses and the tile-map
generation in force (R109, R589). -/
def State.atReset (s : State) : State := { State.reset with pln := { resetPln with fuses := s.pln.fuses, moved := s.pln.moved } }

/-- What a virtual function's view shows of a slot (R588): 0 nothing, 1 its value, 2 its reset value. `c` is the function's context. -/
def State.vfView (s : State) (c off : Nat) : Nat :=
  let o := off % 2 ^ 20
  let shown : Bool :=
    match winOf off with
    | 0 => o = 0 || o = 8 || o = 0x10 || o = 0x100
    | 1 => o = 0 || (inArr o 0x1000 0x1000 17 && decide (arrIx o 0x1000 0x1000 = c + 1))
    | 2 => true
    | 3 => o = 0 || (inArr o 0x1000 0x100 16 && decide (arrIx o 0x1000 0x100 = c))
    | 4 => o = 0
    | 5 => o = 0 || (inArr o 0x1000 0x20 64 && decide ((s.group (arrIx o 0x1000 0x20)).owner = c))
    | 6 => o = 0 || (inArr o 0x100 0x10 16 && decide (arrIx o 0x100 0x10 = c))
    | 7 => o = 0 || o = 0x18 || (inArr o 0x1000 0x1000 7 && (decide (o % 0x1000 = 8) || decide (o % 0x1000 = 0x100 + 8 * c)))
    | 8 => o = 0 || (inArr o 0x1000 0x40 16 && decide (arrIx o 0x1000 0x40 = c))
    | 9 => (inArr o 0x100 8 16 && decide (arrIx o 0x100 8 = c)) || (inArr o 0x200 8 64 && decide ((s.group (arrIx o 0x200 8)).owner = c))
    | 10 => decide (o / 0x1000 = c)
    | 11 => true
    | 14 => o = 0 || decide (o = 0x200 + 0x10 * c)
    | _ => false
  if shown then 1 else if winOf off = 5 then 2 else 0

/-- What a master's view shows of a slot. The BMC reads the windows whose rules do not name other readers alone: PLN and FUS (R561), HIF,
MBX, TEL and CTX. A function's view of HIF shows its own block. -/
def State.viewOf (s : State) (m off : Nat) : Nat :=
  if 0x11 ≤ m then s.vfView (m - 0x11) off
  else if m = 3 then (if [0, 1, 2, 10, 11, 12].contains (winOf off) then 1 else 0)
  else if m = 0x10 && decide (winOf off = 1) then (if off % 2 ^ 20 < 0x2000 then 1 else 0)
  else if m = 1 || m = 2 || m = 0x10 then 1
  else 0

/-- The 64 bits that a master reads at the 8-byte slot `off`. -/
def State.slotRead (s : State) (m core off : Nat) : Nat :=
  match s.viewOf m off with
  | 0 => 0
  | 1 => ((if s.isOn (windowDomain off) then s else s.atReset).slotAt m core off).1
  | _ => (s.atReset.slotAt m core off).1

/-- A 64-bit register fills the slot. -/
def State.isWide (s : State) (m core off : Nat) : Bool := (s.slotAt m core off).2

end Sys2Proof.Machine
end

