-- ==== Sys2Proof/Machine/Registers.lean ====
section
/-! DEFINITION. Writes of registers, the common access rules (R588, R589), and the BMC's register commands (R613, R614). A write that its
register's access rules refuse is ignored. -/

namespace Sys2Proof.Machine

/-- Every tile set of the context is Idle or Loading. -/
def State.unstarted (s : State) (c : Nat) : Bool := (s.tsetsOf c).all fun n => decide ((s.tset n).st = .idle) || decide ((s.tset n).st = .loading)

/-- Every tile set of the context is Loading, and the context is. -/
def State.allLoading (s : State) (c : Nat) : Bool :=
  decide ((s.ctx c).st = .loading) && (s.tsetsOf c).all fun n => decide ((s.tset n).st = .loading)

/-! ### PLN (R561, R596 to R599) -/

def State.putReset (s : State) (v : Nat) : State :=
  let s1 := { s with pln := { s.pln with resetFull := bit v 1 } }
  if bit v 0 && s.started then s1.resetGo (bit v 1) else s1

def State.putPln (s : State) (m o v : Nat) : State :=
  if o = 0x108 then (if m = 1 || m = 0x10 then s.putReset v else s)
  else if o = 0x200 then (if m = 1 || m = 3 || m = 0x10 then { s with pln := { s.pln with auditSel := v % 2 ^ 13 } } else s)
  else if o = 0x400 then (if bit v 0 && s.mayEnable m then s.enableFrq else s)
  else if o = 0x410 then s.frqSelect m v
  else if o = 0x440 then
    match frqBankOf m with
    | some b => s.writeBank b fun x => { x with maskClasses := v % 2 ^ 13 - v % 2, maskFatal := bit v 13 }
    | none => s
  else if o = 0x448 then s.clearAlerts m v
  else s

/-! ### HIF and MBX (R439, R454 to R460) -/

/-- A write of HIF_RING_CTRL_f_r: L and RESET are judged by the ENABLE that holds before it. -/
def State.putRingCtrl (s : State) (f r v : Nat) : State :=
  let x := (s.fn f).ring r
  let s1 := if x.enable then s else s.modRing f r fun y => { y with l := v % 2 ^ 5 }
  let s2 := if bit v 6 then s1.ringReset f r else s1
  if bit v 5 = x.enable then s2 else s2.ringEnable f r (bit v 5)

def State.putHif (s : State) (m o v : Nat) : State :=
  let f := arrIx o 0x1000 0x1000
  let b := arrOff o 0x1000 0x1000
  if !(inArr o 0x1000 0x1000 17) || (m ≠ 1 && m ≠ 0x10 + f) then s
  else if b = 8 then s.setFn f { s.fn f with irqCount := bits v 0 8, irqDelay := bits v 8 16 }
  else if inArr b 0x100 0x40 3 then
    let r := arrIx b 0x100 0x40
    let q := arrOff b 0x100 0x40
    if q = 0 then (if ((s.fn f).ring r).enable then s else s.modRing f r fun y => { y with base := v })
    else if q = 8 then s.putRingCtrl f r v
    else s
  else s

/-- A write in the registers of channel `n`. STATUS bits are cleared by the channel's sender or receiver. -/
def State.putChannel (s : State) (m n b v : Nat) : State :=
  let x := s.chan n
  if b < 0x40 then
    if x.sender ≠ m then s.denied n
    else if x.full then s else s.setChan n { x with data := setBits x.data (8 * b) 32 v }
  else if b = 0x40 then s.putSend m n v
  else if b = 0x48 then
    if s.endOf m n then
      s.setChan n { x with timeout := x.timeout && !bit v 1, delivered := x.delivered && !bit v 2, denied := x.denied && !bit v 3 }
    else s
  else if b = 0x50 then (if x.receiver = m && !bit v 0 then s else s.mailboxAck m n)
  else if b = 0x58 then (if x.sender ≠ m then s.denied n else s.setChan n { x with timeoutMs := v % 2 ^ 16 })
  else s

def State.putMbx (s : State) (m o v : Nat) : State :=
  if o < 0x100 then
    if m = 1 && !s.mbx.lock && decide (24 ≤ o) then s.setChan (o / 4) { s.chan (o / 4) with sender := bits v 0 8, receiver := bits v 8 8 } else s
  else if o = 0x100 then (if m = 1 then { s with mbx := s.mbx.writeLock (bit v 0) } else s)
  else if inArr o 0x1000 0x100 64 then s.putChannel m (arrIx o 0x1000 0x100) (arrOff o 0x1000 0x100) v
  else s

/-! ### SYU and RMN (R304 to R306, R339) -/

/-- The counter blocks that the table of context `c` names are its own (R276). A block that changes its owner is cleared first: none is
given to a new owner before that, and every counter is 0 when its context enters Running (R277, R303). -/
def State.ownBlocks (s : State) (c : Nat) : State :=
  let x := s.ctx c
  let free := s.syu.owners.filter fun kv => !decide (kv.2 = c)
  let owners := (List.range x.blocks).foldl (fun m j => mset 0x1F m (mget 0 x.pblocks j) c) free
  { s with syu := { s.syu.clearBlocks (fun b => !decide (mget 0x1F s.syu.owners b = mget 0x1F owners b)) with owners := owners } }

def State.setWbank (s : State) (b : Nat) (w : WBank) : State := { s with syu := { s.syu with banks := mset {} s.syu.banks b w } }

def State.putWatch (s : State) (b o v : Nat) : State :=
  let w := s.wbank b
  if o = 0x10 then
    if bit v 31 then (if s.pln.fatal then s else s.submitWatch b v) else s.setWbank b { w with cfg := v % 2 ^ 28 }
  else if o = 0x18 then s.setWbank b { w with expect := v }
  else s.setWbank b { w with dest := v % 2 ^ 56 }

def State.putSyuCtx (s : State) (o v : Nat) : State :=
  if inArr o 0x1000 0x100 17 && decide (arrOff o 0x1000 0x100 = 0) then
    let c := arrIx o 0x1000 0x100
    if s.unstarted c then
      (s.modCtx c fun x => { x with
        blocks := bits v 0 9, watchLimit := bits v 9 17, timerOwned := bit v 26, watchdogMs := bits v 32 16 }).ownBlocks c
    else s
  else if inArr o 0x4000 0x400 17 then
    let c := arrIx o 0x4000 0x400
    if s.unstarted c then
      (s.modCtx c fun x => { x with pblocks := mset 0 x.pblocks (arrOff o 0x4000 0x400 / 4) (v % 2 ^ 10) }).ownBlocks c
    else s
  else s

def State.putSyu (s : State) (m core o v : Nat) : State :=
  match bankOf m core with
  | none => s
  | some b =>
    if o = 0x30 then { s with syu := { s.syu with peek := mset 0 s.syu.peek b (v % 2 ^ 21) } }
    else if (o = 0x10 || o = 0x18 || o = 0x20) then (if b ≤ 16 then s.putWatch b o v else s)
    else if m = 1 then s.putSyuCtx o v
    else s

/-- RMN_Q_ADDR and RMN_Q_CFG: by the Armature cluster while the descriptor's context is Loading. -/
def State.canQcfg (s : State) (b : Nat) : Bool :=
  let c := (s.queue (s.selQueue b)).ctx
  decide (b < 16) && decide (c < 16) && decide ((s.ctx c).st = .loading)

def State.putRmn (s : State) (m core o v : Nat) : State :=
  match bankOf m core with
  | none => s
  | some b =>
    if o = 0x10 then { s with rmn := { s.rmn with sel := mset 0 s.rmn.sel b (v % 2 ^ 15) } }
    else if o = 0x18 then
      if s.canQcfg b then s.modQueue (s.selQueue b) fun q => { q with addr := bits v 0 56, l := bits v 56 5 } else s
    else if o = 0x20 then
      if s.canQcfg b then
        s.modQueue (s.selQueue b) fun q => { q with
          ownerKind := bits v 0 2, ownerId := bits v 2 13, maxLines := bits v 21 6, openAtStart := bit v 27 }
      else s
    else if o = 0x40 then
      if s.canCtrl b then (if bit v 0 then (s.queueHold b (bit v 1)).queueReset b else s.queueHold b (bit v 1)) else s
    else if o = 0x48 then (if decide (b < 16) && s.canRingRelease b then s.ringBytes b v else s)
    else s

/-! ### MEM and LNK (R378 to R380, R425, R426) -/

def State.putFm (s : State) (n b v : Nat) : State :=
  let x := s.fm n
  if b = 0 then s.setFm n { x with arg := v % 2 ^ 49 }
  else if b = 8 then s.setFm n { x with pframe := v % 2 ^ 24 }
  else if b = 0x10 then
    if bit v 31 then (if s.canFm n v (cmdOp v) then s.fmSubmit n v else s) else s.setFm n { x with cmd := bits v 0 12 }
  else s

def State.putHdom (s : State) (h v : Nat) : State :=
  if s.pln.fatal then s
  else
    let s1 := if bit v 0 then s.domainDown h else s
    if bit v 1 then s1.domainUp h else s1

/-- MEM_PWIN_p: its fields while the tile sets of the context that holds it, and of the one that the value names, are Idle or Loading. -/
def State.putPwin (s : State) (p v : Nat) : State :=
  let x := s.pwin p
  let lost := x.lost && !bit v 49
  if s.unstarted x.ctx && s.unstarted (bits v 44 5) then
    s.setPwin p { first := bits v 0 24, frames := bits v 24 20, ctx := bits v 44 5, lost := lost }
  else s.setPwin p { x with lost := lost }

/-- The reserve of a context in a half holds `n` frames from now on: the lowest free ones are added to it, or what is too much returns to
the pool, the highest frames of it, at once since they are zero (R357, R378; DESIGN CHOICE of the frames, log entry 171). -/
def State.reserveFrames (s : State) (c half n : Nat) : State :=
  let own := (s.hbm.frames.filter fun kv => decide (kv.2 = .held c true) && decide (s.pln.half kv.1 = half)).map fun kv => kv.1
  if own.length < n then s.holdFrames c true (takeRuns (s.poolRuns half) (n - own.length))
  else { s with hbm := { s.hbm with frames := (own.drop n).foldl (fun m f => mset .pool m f .pool) s.hbm.frames } }

/-- A write of MEM_COW_c. -/
def State.reserve (s : State) (c d4 d5 : Nat) : State :=
  ((s.modCtx c fun x => { x with cowD4 := d4, cowD5 := d5 }).reserveFrames c 0 d4).reserveFrames c 1 d5

def State.putMem (s : State) (m o v : Nat) : State :=
  if inArr o 0x300 0x40 2 && decide (m = arrIx o 0x300 0x40 + 1) then s.putFm (arrIx o 0x300 0x40) (arrOff o 0x300 0x40) v
  else if m ≠ 1 then s
  else if inArr o 0x100 0x10 17 then
    let c := arrIx o 0x100 0x10
    if !s.unstarted c then s
    else if arrOff o 0x100 0x10 = 0 then s.modCtx c fun x => { x with fmBase := bits v 6 18 * 64, fmFrames := bits v 24 25 }
    else s.reserve c (bits v 0 24) (bits v 24 24)
  else if inArr o 0x400 0x10 2 && decide (arrOff o 0x400 0x10 = 0) then s.putHdom (arrIx o 0x400 0x10) v
  else if inArr o 0x500 0x10 2 && decide (arrOff o 0x500 0x10 = 0) then s.putPwin (arrIx o 0x500 0x10) v
  else s

/-- LNK_PORT_CTRL_k. -/
def State.putPort (s : State) (k v : Nat) : State :=
  if s.pln.fatal then s
  else if !bit v 0 then s.portDisable k
  else
    let s1 := if (s.port k).enable then s else s.portEnable k
    if bit v 1 then s1.retrain k else s1

def State.putLnk (s : State) (m o v : Nat) : State :=
  if m ≠ 1 then s
  else if o = 0x18 then
    if (List.range 120).all fun n => decide ((s.tset n).st = .idle) then { s with lnk := { s.lnk with coord := v % 2 ^ 48 } } else s
  else if o = 0x20 then
    let c := bits v 2 5
    if 16 ≤ c || decide ((s.ctx c).st = .idle) || decide ((s.ctx c).st = .loading) then { s with lnk := { s.lnk with wcfg := v % 2 ^ 7 } } else s
  else if inArr o 0x1000 0x1000 7 && decide (o % 0x1000 = 0) then s.putPort (arrIx o 0x1000 0x1000) v
  else s

/-! ### PWR, RAS and TEL (R234 to R238, R505, R534, R536) -/

def State.putPwr (s : State) (m o v : Nat) : State :=
  if m = 1 && inArr o 0x1000 0x40 16 then
    let c := arrIx o 0x1000 0x40
    let b := arrOff o 0x1000 0x40
    let x := s.cp c
    if (s.ctx c).st = .idle then s
    else if b = 0 then s.setCp c { x with mode := bits v 0 2, pin := bit v 2, windowLog2 := bits v 3 5 }
    else if b = 0x20 then s.setCp c { x with deadline := v }
    else if b = 0x28 then s.setCp c { x with energy := v }
    else s
  else s

/-- RATE takes 0 and 4 to 12; another value is no rate, and is not written. -/
def rateOk (r : Nat) : Bool := decide (r = 0) || (decide (4 ≤ r) && decide (r ≤ 12))

def State.putRas (s : State) (m o v : Nat) : State :=
  let set (f : Ras → Ras) : State := { s with ras := f s.ras }
  if m ≠ 1 then s
  else if o < 0x10 then set fun r => { r with seed := setBits r.seed (8 * o) 32 v }
  else if o = 0x10 then (if s.shadowing then s else set fun r => { r with pool := v })
  else if o = 0x18 then (if s.shadowing then s else set fun r => { r with trace := v % 2 ^ 41 })
  else if o = 0x20 then set fun r => { r with margin := v }
  else if inArr o 0x100 8 16 then
    let c := arrIx o 0x100 8
    if (decide ((s.ctx c).st = .idle) || decide ((s.ctx c).st = .loading)) && rateOk (v % 16) then
      let s1 := set fun r => { r with rates := mset 0 r.rates c (v % 16) }
      if s.shadowing && !s1.shadowing then s1.releasePool.refreshTdoms.refreshEstimates else s1
    else s
  else s

/-- A configuration register of a TEL block, reserved bits zero. -/
def Tel.put (t : Tel) (b v : Nat) : Tel :=
  if b = 0 then { t with gateCfg := v }
  else if b = 8 then { t with target := v }
  else if b = 0x10 then { t with scaleCfg := v % 2 ^ 49 }
  else if b = 0x18 then { t with recordAddr := v % 2 ^ 56 }
  else if b = 0x20 then { t with blockMapAddr := v % 2 ^ 56 }
  else if b = 0x28 then { t with calipersCfg := v % 2 ^ 17 }
  else if b = 0x30 then { t with noiseCfg := v % 2 ^ 48 }
  else if b = 0x38 then { t with ringBase := v % 2 ^ 56 }
  else if b = 0x40 then { t with ringCtrl := v % 2 ^ 6 }
  else t

def State.putTel (s : State) (m o v : Nat) : State :=
  let c := o / 0x1000
  let b := o % 0x1000
  if 16 ≤ c then s
  else if b = 0x4C then (if s.tailMoves m c (v % 2 ^ 32) then s.moveTail c v else s)
  else if m = 2 && s.allLoading c then s.setTel c ((s.tel c).put b v)
  else s

/-! ### CRT, ARM and the per-tile window (R108, R502, R587) -/

def State.putCrt (s : State) (m o v : Nat) : State :=
  if m ≠ 1 && m ≠ 2 then s
  else if o = 0x28 then s.modCrt fun x => { x with cmdAddr := v % 2 ^ 56 }
  else if o = 0x30 then s.modCrt fun x => { x with cmdLba := v % 2 ^ 32 }
  else if o = 0x38 then s.crtWrite v
  else s

def State.putArm (s : State) (m core o v : Nat) : State :=
  if inArr o 0x100 8 16 && decide (arrOff o 0x100 8 = 0) && (m = 1 || (decide (m = 2) && decide (core = arrIx o 0x100 8))) then
    { s with pln := { s.pln with coreTags := mset 0x10 s.pln.coreTags (arrIx o 0x100 8) (v % 2 ^ 6) } }
  else s

/-- A bank whose gate changes holds zeros when it is powered up, and nothing when it is not (R95). -/
def Tile.gateBanks (t : Tile) (v : Nat) : Tile :=
  let same (b : Nat) : Bool := decide (bit t.cfg.bankPwr b = bit v b)
  { t with cfg := { t.cfg with bankPwr := v }, mem := mdrop (fun a => !same (a / 65536)) t.mem, poison := mdrop (fun l => !same (l / 1024)) t.poison
           err := { t.err with badWords := mdrop (fun w => !same (w / 16384)) t.err.badWords } }

def Tile.putCfg (t : Tile) (o v : Nat) : Tile :=
  if inArr o 0x40 4 4 then { t with cfg := { t.cfg with startLine := mset 0 t.cfg.startLine (arrIx o 0x40 4) (v % 2 ^ 15) } }
  else if o = 0x80 then t.gateBanks v
  else if inArr o 0xB0 4 4 then { t with cfg := { t.cfg with seed := setBits t.cfg.seed (8 * (o - 0xB0)) 32 v } }
  else if inArr o 0x100 8 32 then
    { t with cfg := { t.cfg with regions := mset 0 t.cfg.regions (arrIx o 0x100 8) (bits v 0 15 + bits v 16 29 * 2 ^ 16) } }
  else if inArr o 0x200 8 16 then
    { t with cfg := { t.cfg with tags := mset 0 t.cfg.tags (arrIx o 0x200 8) (bits v 0 15 + bits v 16 30 * 2 ^ 16) } }
  else t

def State.putTile (s : State) (m site o v : Nat) : State :=
  match s.pln.logicalAt site with
  | none => s
  | some t =>
    if m ≠ 2 then s
    else if o = 0x88 then (if bit v 15 then s.modTile t fun x => { x with err := { x.err with parValid := false } } else s)
    else if (s.tset (tsetOf t)).st = .loading then s.modTile t fun x => x.putCfg o v
    else s

/-! ### The common access rules (R589) -/

/-- A write of one register, at the offset of the register: 64 bits of value for a register of 64 bits, 32 otherwise. -/
def State.putReg (s : State) (m core off v : Nat) : State :=
  let o := off % 2 ^ 20
  if isTileWin off then s.putTile m (siteOfOff off) (off % 0x1000) v
  else match winOf off with
    | 0 => s.putPln m o v
    | 1 => s.putHif m o v
    | 2 => s.putMbx m o v
    | 3 => s.putSyu m core o v
    | 4 => s.putRmn m core o v
    | 6 => s.putMem m o v
    | 7 => s.putLnk m o v
    | 8 => s.putPwr m o v
    | 9 => s.putRas m o v
    | 10 => s.putTel m o v
    | 13 => s.putCrt m o v
    | 14 => s.putArm m core o v
    | _ => s

def halfKey (m off : Nat) : Nat := 64 * windowOf off + m

/-- The half that the master wrote last in the window, still waiting for the other one. -/
def State.heldHalf (s : State) (m off : Nat) : Option (Nat × Nat) := mget none s.pln.halves (halfKey m off)

/-- A 32-bit write of one half of a 64-bit register: it takes effect together with the other half, or is held. -/
def State.writeHalf (s : State) (m core off v : Nat) : State :=
  let s1 := s.access m off
  let base := off / 8 * 8
  match s.heldHalf m off with
  | some (o, w) =>
    if o / 8 * 8 = base ∧ o ≠ off then s1.putReg m core base (if off = base then v + w * 2 ^ 32 else w + v * 2 ^ 32)
    else { s1 with pln := { s1.pln with halves := mset none s1.pln.halves (halfKey m off) (some (off, v)) } }
  | none => { s1 with pln := { s1.pln with halves := mset none s1.pln.halves (halfKey m off) (some (off, v)) } }

/-- A write access of `size` bytes; a function reaches more than BAR0 (R430). -/
def State.regWrite (s : State) (m core off size v : Nat) : State :=
  if 0x10 ≤ m && decide (2 ^ 26 ≤ off) then s.barWrite (m - 0x10) off size v
  else if !s.isOn (windowDomain (off / 8 * 8)) then s.access m off
  else if size = 8 && decide (off % 8 = 0) then
    if s.isWide m core off then (s.access m off).putReg m core off (v % 2 ^ 64)
    else ((s.access m off).putReg m core off (v % 2 ^ 32)).putReg m core (off + 4) (v / 2 ^ 32 % 2 ^ 32)
  else if size = 4 && decide (off % 4 = 0) then
    if s.isWide m core (off / 8 * 8) then s.writeHalf m core off (v % 2 ^ 32)
    else (s.access m off).putReg m core off (v % 2 ^ 32)
  else s.access m off

/-- The counter that a read of SYU_PEEK_VALUE reads: its number, and its owner. -/
def State.peeks (s : State) (m core base : Nat) : Option (Nat × Nat) :=
  match bankOf m core with
  | some b =>
    let c := bits (mget 0 s.syu.peek b) 16 5
    if base = 0x300038 && s.isOn 18 && s.peekOk b then some (s.phys c (bits (mget 0 s.syu.peek b) 0 16), c) else none
  | none => none

/-- The descriptor whose STATE, EPOCH or pointers a read of RMN_Q_STATUS or RMN_Q_INDEX reads (R339). -/
def State.rmnPeeks (s : State) (m core base : Nat) : Option Nat :=
  match bankOf m core with
  | some b => if (base = 0x400028 || base = 0x400030) && s.isOn 18 then some (s.selQueue b) else none
  | none => none

/-- A value read from storage: a free value where an uncorrectable error `bad` is recorded, `live` from the storage that `fixed` leaves
otherwise. -/
def State.fromStorage (s : State) (bad : Option FaultRec) (live : Nat) (fixed : State) : Nat × State :=
  match bad with
  | some r => (s.freeValue % 2 ^ 64, (s.drawn 1).raise r)
  | none => (live, fixed)

/-- What a register read does with the storage of a counter or of a descriptor, and what it returns (R278, R339). -/
def State.peek (s : State) (m core base live : Nat) : Nat × State :=
  match s.peeks m core base, s.rmnPeeks m core base with
  | some (p, c), _ => s.fromStorage (s.badCounter p c) live (s.counterFix p)
  | none, some n => s.fromStorage (s.rmnError n) live (s.rmnFix n)
  | none, none => (live, s)

/-- A read access of `size` bytes: the value, and the state that it leaves. An access inside eight bytes that the table of R589
has no row for (32 bits off their alignment, 16 bits across two words, other sizes) reads a free value. -/
def State.regRead (s : State) (m core off size : Nat) : Nat × State :=
  let base := off / 8 * 8
  let peek := s.peek m core base (s.slotRead m core base)
  let live := peek.1
  let s1 := peek.2.access m off
  let high : Nat := match mget none s.pln.latches m with
    | some (o, h) => if o = base + 4 then h else live / 2 ^ 32
    | none => live / 2 ^ 32
  let seen : Nat := if s.isWide m core base then live % 2 ^ 32 + high * 2 ^ 32 else live
  if 0x10 ≤ m && decide (2 ^ 26 ≤ off) then (bits (s.barSlot (m - 0x10) base) (8 * (off % 8)) (8 * size), s)
  else if size = 8 && decide (off % 8 = 0) then (live, s1)
  else if size = 4 && decide (off % 4 = 0) then
    if s.isWide m core base && decide (off % 8 = 0) then
      (live % 2 ^ 32, { s1 with pln := { s1.pln with latches := mset none s1.pln.latches m (some (off + 4, live / 2 ^ 32)) } })
    else (bits seen (8 * (off % 8)) 32, s1)
  else if size = 1 || (decide (size = 2) && decide (off % 4 < 3)) then (bits seen (8 * (off % 8)) (8 * size), s1)
  else if 8 < off % 8 + size then (0, s1)
  else (s1.freeValue % 2 ^ (8 * size), s1.drawn 1)

/-! ### REGISTER_WRITE (R589) -/

/-- A configuration request, which a function accepts while it is being reset (R451 Order 1). -/
def State.configRequest (s : State) (m off : Nat) : Bool :=
  decide (0x10 ≤ m) && decide (2 ^ 27 ≤ off) && s.hif.configReady && s.hif.dlUp && s.isOn 2

def State.canAccess (s : State) (m off : Nat) : Bool :=
  isMaster m && (s.claims m || s.configRequest m off) && (decide (m ≠ 3) || s.skoveixa)

def execRegisterWrite (master core offset size value : Nat) (s : State) : Host.Outcome State Fault Refusal :=
  whenever (.registerWrite master core offset size value) (s.canAccess master offset) s (s.regWrite master core offset size value)

/-! ### REG_READ and REG_WRITE (R614) -/

/-- The registers in which a chapter grants the BMC a write (R454 to R460, R561, R596 to R598). -/
def State.bmcGrants (s : State) (off : Nat) : Bool :=
  let n := arrIx off 0x201000 0x100
  let b := arrOff off 0x201000 0x100
  off = 0x200 || off = 0x400 || off = 0x410 || off = 0x414 || off = 0x440 || off = 0x448 ||
    (inArr off 0x201000 0x100 64 &&
      ((decide ((s.chan n).sender = 3) && (decide (b < 0x44) || decide (b = 0x58))) || (s.endOf 3 n && decide (b = 0x48)) ||
        (decide ((s.chan n).receiver = 3) && decide (b = 0x50))))

def State.bmcRead (s : State) (off : Nat) : State :=
  match s.regRead 3 0 off 4 with
  | (v, s1) => s1.out (.reply 3 v)

def execRegRead (offset : Nat) (s : State) : Host.Outcome State Fault Refusal :=
  guardWf (.regRead offset) (.next (s.vendor (s.bmcRead offset)))

/-- A write that is not granted is ignored and answered with 0; what the answer to a granted one says is open: a free value. -/
def State.bmcWrite (s : State) (off v : Nat) : State :=
  let s1 := s.regWrite 3 0 off 4 v
  if s.bmcGrants off && decide (off % 4 = 0) then (s1.drawn 1).out (.reply 3 s1.freeValue) else s1.out (.reply 3 0)

def execRegWrite (offset value : Nat) (s : State) : Host.Outcome State Fault Refusal :=
  guardWf (.regWrite offset value) (.next (s.vendor (s.bmcWrite offset value)))

end Sys2Proof.Machine
end

