-- ==== Sys2Proof/Machine/Armature.lean ====
section
/-! DEFINITION. Accesses of the Armature cores (R42, R484, R580, R581): loads and stores in the spaces of a context or of the firmware
system context, and in the register windows. -/

namespace Sys2Proof.Machine

/-- The owner of core `n`'s accesses and its snapshot view: ARM_CORE_TAG_n (R587). -/
def State.coreTag (s : State) (n : Nat) : Nat := mget 0x10 s.pln.coreTags n
def State.coreCtx (s : State) (n : Nat) : Nat := bits (s.coreTag n) 0 5
def State.coreSnap (s : State) (n : Nat) : Bool := bit (s.coreTag n) 5

/-- The address names a space and keeps the bits of R37 that shall be zero. -/
def addrOk (a : Nat) : Bool := decide (a < 2 ^ 56) && !gReserved a && (decide (gSpace a = 15) || gZeroOk a)

/-- Lines that `n` bytes from `a` on touch. -/
def linesTouched (a n : Nat) : List Nat := (List.range ((a + n - 1) / 64 + 1 - a / 64)).map fun j => a / 64 + j

/-- A core's access in space 0x0 names frames of the owner's window (R43). -/
def State.coreSpace0 (s : State) (c a n : Nat) : Bool := s.usable c && decide ((a + n - 1) / 65536 < (s.ctx c).fmFrames)

/-- A core's access in space 0x1 lies in the memory of a tile of the owner (R39, R580). -/
def State.coreSpace1 (s : State) (c a n : Nat) : Bool :=
  s.usable c && decide (gTile a < 5760) && decide ((s.tset (tsetOf (gTile a))).owner = c) && decide (gOff a + n ≤ 0x200000)

/-- A core's access in space 0x3 names a counter of the owner, which may be Loading still. -/
def State.coreSpace3 (s : State) (c a : Nat) : Bool := s.usable c && decide (gVid a < 256 * (s.ctx c).blocks)

/-- Why the tile refuses a DMA access to the bytes, as the reason of R381: 6 a dark bank, 7 lines without DMA (R98); the region table is
consulted only once the tile set is Running (R578). -/
def Tile.coreRefusal (t : Tile) (running : Bool) (off n : Nat) : Option Nat :=
  if !(linesTouched off n).all t.powered then some 6
  else if running && !(linesTouched off n).all t.dmaOk then some 7
  else none

/-- The same of tile `n` as it stands. -/
def State.coreTileRefusal (s : State) (n off k : Nat) : Option Nat :=
  (s.tile n).coreRefusal (decide ((s.tset (tsetOf n)).st ≠ .loading)) off k

/-- The record of a refusal by the region table, in class MEMORY: field 0 for a load, 1 for a store (R98, R381). -/
def regionRefused (c a reason : Nat) (store : Bool) : FaultRec :=
  { code := 0x0308, ctxFatal := true, ctx := c, addr := a, detail := reason * 2 ^ 16 + b2n store * 2 ^ 20 }

/-- A load of a poisoned line (R484). -/
def State.poisonTrap (s : State) (core c a : Nat) : State := (s.trap core).raise { code := 0x0902, ctx := c, addr := a, detail := core }

/-! ### ARMATURE_CORE_LOAD -/

/-- The bytes of a run of lines. -/
def bytesOfLines (ls : List (Nat × Bool)) (a n : Nat) : Nat := bits (packElems 512 (ls.map fun x => x.1)) (8 * (a % 64)) (8 * n)

/-- The first poisoned line of a run, by index. -/
def firstPoisoned (ls : List (Nat × Bool)) : Option Nat := firstBelow ls.length fun j => (ls[j]?.any fun x => x.2)

/-- What comes of a load whose lines have been read; `base` is the address of the first of them. -/
def State.coreResult (s : State) (core c a n base : Nat) (ls : List (Nat × Bool)) : State :=
  match firstPoisoned ls with
  | some j => s.poisonTrap core c (base + 64 * j)
  | none => s.out (.coreValue core (bytesOfLines ls a n))

def State.coreLoadHbm (s : State) (core a n : Nat) : State :=
  let c := s.coreCtx core
  let base := a / 64 * 64
  let k := (linesTouched a n).length
  if !s.coreSpace0 c a n then s.trap core
  else match s.coreRefused c base k false (s.coreSnap core) with
    | some r => (s.trap core).raise r
    | none =>
      match s.takeLines ((List.range k).map fun j => s.physLine c (base + 64 * j) (s.coreSnap core)) with
      | (s1, ls) => s1.coreResult core c a n base ls

def State.coreLoadTile (s : State) (core a n : Nat) : State :=
  let c := s.coreCtx core
  let t := s.tile (gTile a)
  if !s.coreSpace1 c a n then s.trap core
  else match s.coreTileRefusal (gTile a) (gOff a) n with
    | some reason => (s.trap core).raise (regionRefused c a reason false)
    | none =>
      s.coreResult core c a n (a / 64 * 64) ((linesTouched (gOff a) n).map fun l => (t.line l, t.poisoned l || t.parityBad l))

/-- A 64-bit load of a counter (R581). What it returns of a counter whose storage is uncorrectable is a free value (R278). -/
def State.coreLoadCounter (s : State) (core a n : Nat) : State :=
  let c := s.coreCtx core
  let p := s.phys c (gVid a)
  if n ≠ 8 || !s.coreSpace3 c a then s.trap core
  else match s.badCounter p c with
    | some r => ((s.drawn 1).out (.coreValue core (s.freeValue % 2 ^ 64))).raise r
    | none => (s.counterFix p).out (.coreValue core (s.counter p))

/-- A load of a register (R42, R589). -/
def State.coreLoadReg (s : State) (core a n : Nat) : State :=
  if s.coreCtx core ≠ 16 || !gZeroOk a then s.trap core
  else match s.regRead 2 core (a % 2 ^ 32) n with
    | (v, s1) => s1.out (.coreValue core v)

def State.coreLoad (s : State) (core a n : Nat) : State :=
  if !addrOk a then s.trap core
  else match gSpace a with
    | 0 => s.coreLoadHbm core a n
    | 1 => s.coreLoadTile core a n
    | 3 => s.coreLoadCounter core a n
    | 15 => s.coreLoadReg core a n
    | _ => s.trap core

/-- Increments of the core itself to the counter that the SYU has not applied (R51, R298). -/
def State.coreIncs (s : State) (core c vid : Nat) : Bool :=
  (s.syu.inbound ++ s.syu.accepted).any fun x => decide (x.src = .arm core) && decide (x.ctx = c) && decide (x.vid = vid)

/-- The load waits: behind the core's own writes and increments, behind a copy of R357, or for the outcome of its registration (R305). -/
def State.loadWaits (s : State) (core a n : Nat) : Bool :=
  match gSpace a with
  | 0 => s.readWaits (.arm core) (s.coreCtx core) (a / 64 * 64) (linesTouched a n).length
  | 3 => s.coreIncs core (s.coreCtx core) (gVid a)
  | 15 => decide (a % 2 ^ 32 / 8 * 8 = 0x300028) && (s.wbank core).busy.isSome
  | _ => false

/-- The cluster runs: D1 is On and the device has not stopped (R18, R59). -/
def State.clusterRuns (s : State) : Bool := s.isOn 1 && !s.pln.fatal

def execArmatureCoreLoad (core addr bytes : Nat) (s : State) : Host.Outcome State Fault Refusal :=
  whenever (.armatureCoreLoad core addr bytes) (s.clusterRuns && !s.loadWaits core addr bytes) s (s.coreLoad core addr bytes)

/-! ### ARMATURE_CORE_STORE and ARMATURE_COUNTER_STORE -/

/-- The writes of one access, each of part of one line of space 0x0 as (line, offset, bytes, value), with their ids from `id` on. -/
def partList (stamp core c op id : Nat) : List (Nat × Nat × Nat × Nat) → List Access
  | [] => []
  | (va, off, n, v) :: ps =>
    { id := id, src := .arm core, ctx := c, op := op, idx := 0, vaddr := va, write := true, data := v, part := (off, n), poison := false
      snap := false, phys := 0, stage := .toSlice, stamp := stamp } :: partList stamp core c op (id + 1) ps

/-- The writes of one access leave the core: one operation, refused with one record (R346, R353, R580). -/
def State.issueParts (s : State) (core c : Nat) (ps : List (Nat × Nat × Nat × Nat)) : State :=
  let op := s.nextId
  let o : MemOp :=
    { id := op, kind := .core core, src := .arm core, ctx := c, write := true, left := ps.length, refused := none, meshBad := false }
  { s with
    nextId := op + 1 + ps.length
    hbm := { s.hbm with ops := s.hbm.ops ++ [o], accs := s.hbm.accs ++ partList s.stampNow core c op (op + 1) ps } }

/-- The parts of an access of `n` bytes at `a`: one, or two where it crosses into the next line. -/
def lineParts (a n v : Nat) : List (Nat × Nat × Nat × Nat) :=
  let m := min n (64 - a % 64)
  (a / 64 * 64, a % 64, m, v % 2 ^ (8 * m)) :: if m = n then [] else [(a / 64 * 64 + 64, 0, n - m, bits v (8 * m) (8 * (n - m)))]

def State.coreStoreHbm (s : State) (core a n v : Nat) : State :=
  let c := s.coreCtx core
  if !s.coreSpace0 c a n then s.trap core else s.issueParts core c (lineParts a n v)

/-- Bytes stored into tile memory by an agent other than the tile: a whole line clears the poison bit, a part leaves it (R100, R481), and
a tile that is captured logs each line (R472). -/
def State.landBytes (s : State) (t off n v : Nat) : State :=
  if off % 64 = 0 ∧ n = 64 then s.landLine t (off / 64) v false false
  else
    let s1 := s.modTile t fun x => x.putNarrow off n v
    if (s.tile t).phase = .compute then
      (linesTouched off n).foldl (fun s l => s.logInput t (.line l ((s1.tile t).line l) ((s1.tile t).poisoned l) false)) s1
    else s1

def State.coreStoreTile (s : State) (core a n v : Nat) : State :=
  let c := s.coreCtx core
  if !s.coreSpace1 c a n then s.trap core
  else match s.coreTileRefusal (gTile a) (gOff a) n with
    | some reason => (s.trap core).raise (regionRefused c a reason true)
    | none => s.landBytes (gTile a) (gOff a) n (v % 2 ^ (8 * n))

/-- A 64-bit store to a counter: an increment of 1 to 16; the SYU judges its ID (R285, R581). -/
def State.coreStoreCounter (s : State) (core a n v : Nat) : State :=
  let c := s.coreCtx core
  if n ≠ 8 || v = 0 || decide (16 < v) || !s.usable c then s.trap core
  else s.sendSyu (.arm core) c none none 0 (.inc (gVid a) v)

/-- A store to a register (R42, R589). -/
def State.coreStoreReg (s : State) (core a n v : Nat) : State :=
  if s.coreCtx core ≠ 16 || !gZeroOk a then s.trap core else s.regWrite 2 core (a % 2 ^ 32) n (v % 2 ^ (8 * n))

def State.coreStore (s : State) (core a n v : Nat) : State :=
  if !addrOk a then s.trap core
  else match gSpace a with
    | 0 => s.coreStoreHbm core a n v
    | 1 => s.coreStoreTile core a n v
    | 3 => s.coreStoreCounter core a n (v % 2 ^ 64)
    | 15 => s.coreStoreReg core a n v
    | _ => s.trap core

def execArmatureCoreStore (core addr bytes value : Nat) (s : State) : Host.Outcome State Fault Refusal :=
  whenever (.armatureCoreStore core addr bytes value) s.clusterRuns s (s.coreStore core addr bytes value)

def execArmatureCounterStore (core addr value : Nat) (s : State) : Host.Outcome State Fault Refusal :=
  whenever (.armatureCounterStore core addr value) (s.clusterRuns && decide (gSpace addr = 3)) s (s.coreStore core addr 8 value)

end Sys2Proof.Machine
end

