-- ==== Sys2Proof/Machine/Coll.lean ====
section
/-! DEFINITION. Collective units (R399 to R409) with the deterministic reduction format DRF, and the twin digests of W
(R421 to R424). -/

namespace Sys2Proof.Machine

/-! ### The descriptor (R400) -/

def cOpcode (r : Nat) : Nat := byteOf r 0
def cInc (r : Nat) : Bool := bit r 16
def cSend (r : Nat) : Bool := bit r 17
def cLocal (r : Nat) : Bool := bit r 18
def cHistory (r : Nat) : Bool := bit r 17
def cHead (r : Nat) : Nat := byteOf r 3
def cCount (r : Nat) : Nat := bits r 32 32
def cSrcA (r : Nat) : Nat := bits r 64 64
def cSrcB (r : Nat) : Nat := bits r 128 64
def cDst (r : Nat) : Nat := bits r 192 64
def cCounter (r : Nat) : Nat := bits r 256 64
def cAmount (r : Nat) : Nat := bits r 320 8
def cPeerDst (r : Nat) : Nat := bits r 384 64
def cDigest (r : Nat) : Bool := decide (cOpcode r = 0x30)

/-- A DRF opcode (R400). -/
def cDrf (r : Nat) : Bool := decide (0x21 ≤ cOpcode r) && decide (cOpcode r ≤ 0x24)

/-- Lines of an exponent vector over `g` groups. -/
def expLines (g : Nat) : Nat := ceilDiv g 32

/-- Lines of operand A, of operand B and of the result (R400); B none is no lines. -/
def cLinesA (r : Nat) : Nat :=
  match cOpcode r with
  | 0x21 => if cLocal r then cCount r else expLines (cCount r)
  | 0x22 => cCount r
  | 0x30 => ceilDiv (cCount r) 4
  | _ => 2 * cCount r

def cLinesB (r : Nat) : Nat :=
  match cOpcode r with
  | 0x21 => if cSrcB r = 0 then 0 else expLines (cCount r)
  | 0x23 => 2 * cCount r
  | 0x30 => 0
  | _ => expLines (cCount r)

def cLinesOut (r : Nat) : Nat :=
  match cOpcode r with
  | 0x21 => expLines (cCount r)
  | 0x24 => cCount r
  | 0x30 => 2
  | _ => 2 * cCount r

/-! ### Checks (R401) -/

/-- Bytes and bits that the form of the descriptor reserves. -/
def cReservedOk (r : Nat) : Bool :=
  decide (bits r 328 56 = 0) && decide (bits r 448 64 = 0) &&
    (if cDigest r then decide (bits r 18 6 = 0) && decide (cPeerDst r = 0) else decide (bits r 19 5 = 0))

/-- HEADROOM and COUNT lie in their ranges. -/
def cRangesOk (r : Nat) : Bool :=
  decide (1 ≤ cCount r) && decide (cCount r ≤ if cDigest r then 4096 else 16777216) &&
    (if cOpcode r = 0x22 || cOpcode r = 0x24 then decide (1 ≤ cHead r) && decide (cHead r ≤ 24) else decide (cHead r = 0))

def cAligned (r : Nat) : Bool :=
  decide (cSrcA r % 64 = 0) && (cDigest r || decide (cSrcB r % 64 = 0)) && decide (cDst r % 64 = 0) &&
    (cDigest r || !cSend r || decide (cPeerDst r % 64 = 0))

/-- A run of `n` lines of space 0x0 lies within the context's FRAMES. -/
def State.inHbm (s : State) (c a n : Nat) : Bool :=
  decide (a < 2 ^ 40) && (decide (n = 0) || decide ((a + 64 * (n - 1)) / 65536 < (s.ctx c).fmFrames))

/-- COUNTER names a counter here, or one of a peer. -/
def counterForm (a : Nat) : Bool := decide (a < 2 ^ 56) && gZeroOk a && (decide (gSpace a = 3) || (decide (gSpace a = 2) && decide (gPeerSpace a = 3)))

/-- The ports that the descriptor's space 0x2 addresses name are bound by the context (R41, R43). -/
def State.cPortsBound (s : State) (c r : Nat) : Bool :=
  (cDigest r || !cSend r || s.reaches c (gPort (cPeerDst r))) && (!cInc r || decide (gSpace (cCounter r) ≠ 2) || s.reaches c (gPort (cCounter r)))

/-- Test 5 of R401. -/
def State.cSpacesOk (s : State) (c r : Nat) : Bool :=
  s.inHbm c (cSrcA r) (cLinesA r) && (cDigest r || s.inHbm c (cSrcB r) (cLinesB r)) &&
    (decide (cDst r = 0) || s.inHbm c (cDst r) (cLinesOut r)) && (!cInc r || counterForm (cCounter r)) &&
    (cDigest r || !cSend r || (decide (cPeerDst r < 2 ^ 56) && gZeroOk (cPeerDst r) && decide (gSpace (cPeerDst r) = 2) &&
      decide (gPeerSpace (cPeerDst r) = 0)))

/-- A DST of 0 only with SEND; AMOUNT goes with INC. -/
def cResultOk (r : Nat) : Bool :=
  (decide (cDst r ≠ 0) || (!cDigest r && cSend r)) &&
    (if cInc r then decide (1 ≤ cAmount r) && decide (cAmount r ≤ 16) else decide (cAmount r = 0))

/-- The descriptor sends something through its port. -/
def cUsesPort (r : Nat) : Bool := (!cDigest r && cSend r) || (cInc r && decide (gSpace (cCounter r) = 2))

/-- Everything that it sends names port `u`. -/
def cPortOk (u r : Nat) : Bool :=
  (cDigest r || !cSend r || decide (gPort (cPeerDst r) = u)) && (!cInc r || decide (gSpace (cCounter r) ≠ 2) || decide (gPort (cCounter r) = u))

/-- The unit is that of W in the twin role (R419). -/
def State.twinUnit (s : State) (u : Nat) : Bool := decide (u = 6) && decide (bits s.lnk.wcfg 0 2 = 1)

/-- The first test of R401 that the descriptor fails. The unit's own port, where the context has not bound it (R41, R43), fails the last one
too (DEDUCED, log entry 149). -/
def State.cInvalid (s : State) (u c r : Nat) : Option Nat :=
  if byteOf r 1 ≠ 1 || !(cDrf r || cDigest r) || !cReservedOk r then some 1
  else if cDigest r ≠ s.twinUnit u then some 2
  else if !cRangesOk r then some 3
  else if !cAligned r then some 4
  else if !s.cSpacesOk c r then some 5
  else if !cResultOk r then some 6
  else if cUsesPort r && decide ((s.port (s.lnk.wire u)).version = 0) then some 7
  else if !cPortOk u r || !s.cPortsBound c r then some 8
  else none

/-- COLLECTIVE_DESCRIPTOR_INVALID (R427). -/
def cInvalidRec (u c q reason : Nat) : FaultRec :=
  { code := 0x0708, ctxFatal := true, ctx := c, detail := q + reason * 2 ^ 16 + u * 2 ^ 20 }

/-! ### DRF (R402 to R406) -/

/-- A line with its poison mark. -/
abbrev PLine := Nat × Bool

def lineAt (ls : List PLine) (i : Nat) : PLine := ls.getD i (0, false)

/-- EMPTY, NONFINITE, and the DRF NaN (R402). -/
def expEmpty : Nat := 0x8000
def expNonfinite : Nat := 0x7FFF
def drfNan : Nat := 2 ^ 63

/-- Entry `g` of an exponent vector. -/
def expAt (ls : List PLine) (g : Nat) : Nat := bits (lineAt ls (g / 32)).1 (16 * (g % 32)) 16

/-- H(x) as a 16-bit entry (R130, R403). -/
def expOf (x : FVal) : Nat :=
  match x with
  | .fin _ 0 _ => expEmpty
  | .fin _ m e => wrapInt 16 (log2F m e + 1)
  | _ => expNonfinite

/-- The larger of two entries: EMPTY is the least and NONFINITE the greatest of the signed values (R403). -/
def expMax (a b : Nat) : Nat := if sext 16 a < sext 16 b then b else a

/-- The 16 elements of a line of FP32 data. -/
def f32s (v : Nat) : List FVal := (unpackElems 32 v 0 16).map (decodeF fp32)

/-- The local exponent of a group (R403). -/
def groupExp (v : Nat) : Nat := ((f32s v).map expOf).foldl expMax expEmpty

/-- What a lane's computation gives: the lane, and whether it noted a range error or an overflow. -/
abbrev Lane := Nat × Bool

/-- ENCODE of one element under an exponent and a headroom (R404). An infinity or a NaN under a finite exponent is a range error:
the vector is then not the global one (DEDUCED). -/
def encodeLane (h e : Nat) (x : FVal) : Lane :=
  if e = expNonfinite then (drfNan, false)
  else if e = expEmpty || x.isZero then (0, false)
  else
    match x with
    | .fin neg m ex =>
      let q := roundAt .rne m (ex + 62 - (h : Int) - sext 16 e) 0
      if 2 ^ (62 - h) < q then (drfNan, true) else (wrapInt 64 (sgn neg q), false)
    | _ => (drfNan, true)

/-- ADD of two lanes (R405). -/
def addLane (a b : Nat) : Lane :=
  let s := sext 64 a + sext 64 b
  if a = drfNan || b = drfNan then (drfNan, false)
  else if s < -(2 ^ 63 - 1) || decide (2 ^ 63 - 1 < s) then (drfNan, true)
  else (wrapInt 64 s, false)

/-- DECODE of one lane (R406). -/
def decodeLane (h e a : Nat) : Nat :=
  if a = drfNan then 0x7FC00000
  else if e = expEmpty || a = 0 then 0
  else
    let x := sext 64 a
    enc fp32 (.fin (decide (x < 0)) x.natAbs (sext 16 e - 62 + (h : Int)))

/-- The 8 lanes of a line of DRF data. -/
def lanesOf (v : Nat) : List Nat := unpackElems 64 v 0 8

/-- A result: its lines, and the lanes that noted a range error or an overflow. -/
structure DrfOut where
  lines : List PLine
  noted : Nat
  deriving DecidableEq, Repr

/-- Lines of computed lanes, with their poison marks. -/
def laneLines (xs : List (List Lane × Bool)) : DrfOut :=
  { lines := xs.map fun x => (packElems 64 (x.1.map fun y => y.1), x.2)
    noted := ((xs.flatMap fun x => x.1).filter fun y => y.2).length }

/-- EXPMAX (R403): line `j` of the result, entries beyond `g` EMPTY. -/
def expmaxLine (loc : Bool) (g : Nat) (a b : List PLine) (j : Nat) : PLine :=
  let gs := (List.range 32).map fun i => 32 * j + i
  let ent (i : Nat) : Nat :=
    if g ≤ i then expEmpty
    else expMax (if loc then groupExp (lineAt a i).1 else expAt a i) (if b.isEmpty then expEmpty else expAt b i)
  let bad := (if loc then gs.any fun i => decide (i < g) && (lineAt a i).2 else (lineAt a j).2) || (lineAt b j).2
  (packElems 16 (gs.map ent), bad)

def expmaxOut (r : Nat) (a b : List PLine) : DrfOut :=
  { lines := (List.range (expLines (cCount r))).map (expmaxLine (cLocal r) (cCount r) a b), noted := 0 }

/-- ENCODE: result line `l` holds half of group l / 2. -/
def encodeOut (r : Nat) (a b : List PLine) : DrfOut :=
  laneLines ((List.range (2 * cCount r)).map fun l =>
    let g := l / 2
    ((((f32s (lineAt a g).1).drop (8 * (l % 2))).take 8).map (encodeLane (cHead r) (expAt b g)),
      (lineAt a g).2 || (lineAt b (g / 32)).2))

def addOut (r : Nat) (a b : List PLine) : DrfOut :=
  laneLines ((List.range (2 * cCount r)).map fun l =>
    (((lanesOf (lineAt a l).1).zip (lanesOf (lineAt b l).1)).map (fun x => addLane x.1 x.2), (lineAt a l).2 || (lineAt b l).2))

def decodeOut (r : Nat) (a b : List PLine) : DrfOut :=
  { lines := (List.range (cCount r)).map fun g =>
      (packElems 32 ((lanesOf (lineAt a (2 * g)).1 ++ lanesOf (lineAt a (2 * g + 1)).1).map (decodeLane (cHead r) (expAt b g))),
        (lineAt a (2 * g)).2 || (lineAt a (2 * g + 1)).2 || (lineAt b (g / 32)).2)
    noted := 0 }

/-! ### Taking a descriptor (R399) -/

/-- The record that the unit takes next from a queue. -/
def State.nextCDesc (s : State) (q : Nat) : Option RingRec :=
  ringMessage (s.queue q).recs (s.lnk.cdescs.filter fun d => decide (d.queue = q)).length

/-- The row that takes a descriptor: EXPMAX takes also what names no opcode, to refuse it (DESIGN CHOICE). -/
def cRow (r : Nat) : Nat := if cDrf r || cDigest r then cOpcode r else 0x21

/-- A descriptor of the queue is there for its unit, and nothing that it reads waits for a write or a copy. -/
def State.collReady (s : State) (u q : Nat) : Bool :=
  let x := s.queue q
  decide (x.ownerKind = 3) && decide (x.ownerId = u) && decide (x.state ≠ 0) && decide (x.ctx < 16) && !mget false s.hbm.stopped q &&
    match s.nextCDesc q with
    | none => false
    | some r =>
      let raw := s.descRaw q r
      !s.copying x.ctx (x.payloadAddr r) &&
        ((s.cInvalid u x.ctx raw).isSome || (!s.readWaits (.coll u) x.ctx (cSrcA raw) (cLinesA raw) &&
          !s.readWaits (.coll u) x.ctx (cSrcB raw) (cLinesB raw)))

/-- The row of the queue's next descriptor. -/
def State.collRow (s : State) (q : Nat) : Option Nat := (s.nextCDesc q).map fun r => cRow (s.descRaw q r)

/-- The unit takes the queue's next descriptor now: it is the turn of the queue in the rotation by descriptor number (R399). -/
def State.canColl (s : State) (u q row : Nat) : Bool :=
  s.collReady u q && decide (s.collRow q = some row) && decide ((s.lnk.cdescs.filter fun d => decide (d.unit = u)).length < 4) &&
    !s.pln.fatal && s.inTurn (mget 0 s.lnk.nextQueue u) q (s.collReady u)

/-- The lower of two refused lines. -/
def lowerRefusal (a b : Option (Nat × Nat × Nat)) : Option (Nat × Nat × Nat) :=
  match a, b with
  | some x, some y => if y.1 < x.1 then some y else some x
  | some x, none => some x
  | none, y => y

/-- The MEMORY record of a refused read of a descriptor (R353, R399). -/
def cRefusal (c : Nat) (x : Nat × Nat × Nat) : FaultRec :=
  { code := x.2.1, ctxFatal := true, ctx := c, addr := x.1, detail := x.2.2 }

/-- `n` lines of the context from `va` on. -/
def State.hbmRun (s : State) (c va n : Nat) : State × List PLine :=
  s.takeLines ((List.range n).map fun j => s.physLine c (va + 64 * j) false)

/-- The writes of a result: to DST here, and to PEER_DST through the port (R400). -/
def State.cStore (s : State) (d : CDesc) (ls : List PLine) : State :=
  let r := d.raw
  let s1 := if cDst r = 0 then s else s.issueMem (.coll d.id) (.coll d.unit) d.ctx (cDst r) true false ls
  if !cDigest r && cSend r then
    ((List.range ls.length).zip ls).foldl (fun s x =>
      s.sendPeer d.unit d.ctx (.coll d.unit) 1 0 (bits (cPeerDst r + 64 * x.1) 0 40) 0 1 [x.2] (.collWrite d.id)) s1
  else s1

/-- DRF_SATURATED (R407, R427). -/
def saturatedRec (d : CDesc) (n : Nat) : FaultRec :=
  { code := 0x0709, ctx := d.ctx, detail := d.queue + b2n (decide (cOpcode d.raw = 0x22)) * 2 ^ 15 + min n 0xFFFF * 2 ^ 16 }

/-- A DRF operation past its checks: both operands are read, and the result's writes leave. -/
def State.cRun (s : State) (d : CDesc) (f : Nat → List PLine → List PLine → DrfOut) : State :=
  let r := d.raw
  match lowerRefusal (s.runRefused d.ctx (cSrcA r) (cLinesA r) 3 0 false) (s.runRefused d.ctx (cSrcB r) (cLinesB r) 3 0 false) with
  | some x => s.cdescFault d.id (cRefusal d.ctx x)
  | none =>
    match s.hbmRun d.ctx (cSrcA r) (cLinesA r) with
    | (s1, a) =>
      match s1.hbmRun d.ctx (cSrcB r) (cLinesB r) with
      | (s2, b) =>
        let o := f r a b
        let n := (if cDst r = 0 then 0 else o.lines.length) + (if cSend r then o.lines.length else 0)
        let s3 := (s2.modCDesc d.id fun x => { x with left := n }).cStore d o.lines
        if o.noted = 0 then s3 else s3.raise (saturatedRec d o.noted)

/-- The unit takes a descriptor: payload, checks, and `run` (R399, R401, R482). -/
def State.cStart (s : State) (u q : Nat) (run : State → CDesc → State) : State :=
  match s.nextCDesc q with
  | none => s
  | some r =>
    let x := s.queue q
    let va := x.payloadAddr r
    let d : CDesc := { id := s.nextId, unit := u, queue := q, ctx := x.ctx, raw := s.descRaw q r, left := 0, own := none, twin := none,
                       written := false, faulted := false }
    let s0 := { s with nextId := s.nextId + 1, lnk := { s.lnk with cdescs := s.lnk.cdescs ++ [d], nextQueue := mset 0 s.lnk.nextQueue u (q + 1) } }
    match s.sliceTest x.ctx va 3 0 false false false with
    | some (code, detail) => s0.cdescFault d.id (cRefusal x.ctx (va, code, detail))
    | none =>
      let l := s.physLine x.ctx va false
      let s1 := s0.eccRead l false
      if s1.hbmPoisoned l then s1.cdescFault d.id (descPoison x.ctx va)
      else
        match s1.cInvalid u x.ctx d.raw with
        | some reason => s1.cdescFault d.id (cInvalidRec u x.ctx q reason)
        | none => run s1 d

def execCollectiveExpmax (unit queue : Nat) (s : State) : Host.Outcome State Fault Refusal :=
  whenever (.collectiveExpmax unit queue) (s.canColl unit queue 0x21) s (s.cStart unit queue fun s d => s.cRun d expmaxOut)

def execCollectiveEncode (unit queue : Nat) (s : State) : Host.Outcome State Fault Refusal :=
  whenever (.collectiveEncode unit queue) (s.canColl unit queue 0x22) s (s.cStart unit queue fun s d => s.cRun d encodeOut)

def execCollectiveAdd (unit queue : Nat) (s : State) : Host.Outcome State Fault Refusal :=
  whenever (.collectiveAdd unit queue) (s.canColl unit queue 0x23) s (s.cStart unit queue fun s d => s.cRun d addOut)

def execCollectiveDecode (unit queue : Nat) (s : State) : Host.Outcome State Fault Refusal :=
  whenever (.collectiveDecode unit queue) (s.canColl unit queue 0x24) s (s.cStart unit queue fun s d => s.cRun d decodeOut)

/-! ### Digests (R422 to R424) -/

/-- Entry `i` of a range list: address and line count. -/
def rangeAt (ls : List PLine) (i : Nat) : Nat × Nat :=
  let w := bits (lineAt ls (i / 4)).1 (128 * (i % 4)) 128
  (bits w 0 64, bits w 64 64)

/-- The bytes of lines without poison, behind a byte string: the string and its length. -/
def hashLines (acc : Nat × Nat) (ls : List PLine) : Nat × Nat :=
  ls.foldl (fun a l => if l.2 then a else (a.1 + l.1 * 2 ^ (8 * a.2), a.2 + 64)) acc

/-- Every range read in list order: the byte string, and whether a line was poisoned. -/
def State.hashRanges (s : State) (c : Nat) (acc : Nat × Nat) (bad : Bool) : List (Nat × Nat) → State × (Nat × Nat) × Bool
  | [] => (s, acc, bad)
  | x :: xs =>
    match s.hbmRun c x.1 x.2 with
    | (s1, ls) => s1.hashRanges c (hashLines acc ls) (bad || ls.any fun l => l.2) xs

/-- What precedes the ranges (R422). -/
def digestHead (label tag count : Nat) : Nat × Nat := (label + tag % 2 ^ 32 * 2 ^ 64 + count % 2 ^ 32 * 2 ^ 96, 16)

/-- A DIGEST packet leaves through W: its body's fields in the order of DIGEST_RECEIVE. -/
def State.sendDigest (s : State) (c : Nat) (x : DigestRec) : State :=
  let b := s.binding 6 c
  s.out (.linkCtl 6 8 [c, b.peerCtx, x.tag, x.label, x.digest, b2n x.poisoned, b2n x.ask, b2n x.notHeld])

/-- The list without the `n` oldest digests of a context. -/
def dropOldest (c : Nat) : Nat → List DigestRec → List DigestRec
  | 0, l => l
  | _, [] => []
  | n + 1, y :: l => if y.ctx = c then dropOldest c n l else y :: dropOldest c (n + 1) l

/-- The last 16 own digests of a context, oldest first (R424). -/
def Lnk.keep (l : Lnk) (x : DigestRec) : Lnk :=
  { l with history := dropOldest x.ctx ((l.history.filter fun y => decide (y.ctx = x.ctx)).length - 15) l.history ++ [x] }

/-- The outcome of a comparison (R423). -/
def digestOutcome (own twin : Nat × Bool) (notHeld : Bool) : Nat :=
  if notHeld then 5 else if own.2 then 3 else if twin.2 then 4 else if own.1 = twin.1 then 1 else 2

/-- The result of a descriptor that has both digests (R423). -/
def State.digestResult (s : State) (d : CDesc) (own twin : Nat × Bool) (notHeld : Bool) : State :=
  let label := cSrcB d.raw
  let o := digestOutcome own twin notHeld
  let ls := [(own.1 + twin.1 * 2 ^ 256, false), (label + o * 2 ^ 64, false)]
  let s1 := (s.modCDesc d.id fun x => { x with own := some own, twin := some twin, written := true, left := 2 }).cStore d ls
  if 2 ≤ o && decide (o ≤ 4) then s1.raise { code := 0x070A, ctx := d.ctx, detail := o + label % 2 ^ 28 * 2 ^ 4 } else s1

/-- The held packet that matches a descriptor's label and job tag. -/
def State.heldDigest (s : State) (c label tag : Nat) : Option DigestRec :=
  s.lnk.digests.find? fun x => decide (x.ctx = c) && decide (x.label = label) && decide (x.tag = tag)

/-- The digest of a descriptor is there: it is kept, sent or asked for, and compared when the twin's is there (R423, R424). -/
def State.ownDigest (s : State) (d : CDesc) (digest : Nat) (bad : Bool) : State :=
  let label := cSrcB d.raw
  let x : DigestRec := { ctx := d.ctx, label := label, tag := (s.binding 6 d.ctx).tag, digest := digest, poisoned := bad
                         ask := cHistory d.raw, notHeld := false }
  let s1 := ({ s with lnk := s.lnk.keep { x with ask := false } }.sendDigest d.ctx x).modCDesc d.id fun y => { y with own := some (digest, bad) }
  match s1.heldDigest d.ctx label x.tag with
  | some t =>
    { s1 with lnk := { s1.lnk with digests := s1.lnk.digests.erase t } }.digestResult d (digest, bad) (t.digest, t.poisoned) t.notHeld
  | none => s1

/-- DIGEST past its checks: the range list is read, then the ranges (R422). A range that is not line-aligned or not within the
context's frames fails as tests 4 and 5 of R401 do (DEDUCED). -/
def State.cDigestRun (s : State) (d : CDesc) : State :=
  let r := d.raw
  match s.runRefused d.ctx (cSrcA r) (cLinesA r) 3 0 false with
  | some x => s.cdescFault d.id (cRefusal d.ctx x)
  | none =>
    match s.hbmRun d.ctx (cSrcA r) (cLinesA r) with
    | (s1, list) =>
      let rs := (List.range (cCount r)).map (rangeAt list)
      match firstBelow list.length fun i => (lineAt list i).2 with
      | some i => s1.cdescFault d.id (descPoison d.ctx (cSrcA r + 64 * i))
      | none =>
        if rs.any fun x => decide (x.1 % 64 ≠ 0) then s1.cdescFault d.id (cInvalidRec d.unit d.ctx d.queue 4)
        else if rs.any fun x => !s.inHbm d.ctx x.1 x.2 then s1.cdescFault d.id (cInvalidRec d.unit d.ctx d.queue 5)
        else
          match (rs.map fun x => s1.runRefused d.ctx x.1 x.2 3 0 false).foldl lowerRefusal none with
          | some x => s1.cdescFault d.id (cRefusal d.ctx x)
          | none =>
            match s1.hashRanges d.ctx (digestHead (cSrcB r) (s.binding 6 d.ctx).tag (cCount r)) false rs with
            | (s2, bytes, bad) => s2.ownDigest d (sha3 bytes.1 bytes.2) bad

def execCollectiveDigest (unit queue : Nat) (s : State) : Host.Outcome State Fault Refusal :=
  whenever (.collectiveDigest unit queue) (s.canColl unit queue 0x30) s (s.cStart unit queue State.cDigestRun)

/-- The descriptor that waits for a twin's digest of a label. -/
def State.digestWaits (s : State) (c label : Nat) : Option CDesc :=
  s.lnk.cdescs.find? fun d => decide (d.ctx = c) && cDigest d.raw && !d.faulted && !d.written && decide (cSrcB d.raw = label)
    && d.own.isSome

/-- W is in the twin role at a version that has it (R391, R421). -/
def State.inTwinRole (s : State) : Bool := decide (2 ≤ (s.port 6).version) && s.twinUnit 6

/-- W takes a DIGEST packet now: the port is Up, and fewer than 16 unmatched packets of the context are held (R423). One that is refused
waits for nothing. -/
def State.canDigest (s : State) (peerCtx tag label : Nat) (ask : Bool) : Bool :=
  s.isUp 6 &&
    match s.bindingCtx 6 peerCtx tag (fun st => decide (st = 2)) with
    | none => true
    | some c => !s.inTwinRole || ask || (s.digestWaits c label).isSome ||
        decide ((s.lnk.digests.filter fun x => decide (x.ctx = c)).length < 16)

/-- The answer to a question about a kept digest (R424). -/
def State.fromHistory (s : State) (c label tag : Nat) : DigestRec :=
  match s.lnk.history.reverse.find? fun x => decide (x.ctx = c) && decide (x.label = label) with
  | some x => { x with tag := tag, ask := false }
  | none => { ctx := c, label := label, tag := tag, digest := 0, poisoned := false, ask := false, notHeld := true }

/-- A twin's DIGEST arrives (R391, R398, R423, R424). -/
def State.digestArrives (s : State) (peerCtx tag label digest : Nat) (poisoned ask notHeld : Bool) : State :=
  let p := headOf 8 peerCtx 0 0 0 0 0 tag 1
  match s.bindingCtx 6 peerCtx tag (fun st => decide (st = 2)) with
  | none => (s.nak 6 p 1).raise (bindingMiss 6 p)
  | some c =>
    if !s.inTwinRole then s.nak 6 p 6
    else if ask then s.sendDigest c (s.fromHistory c label tag)
    else
      match s.digestWaits c label with
      | some d => s.digestResult d (d.own.getD (0, false)) (digest, poisoned) notHeld
      | none =>
        { s with lnk := { s.lnk with digests := s.lnk.digests ++
          [{ ctx := c, label := label, tag := tag, digest := digest, poisoned := poisoned, ask := false, notHeld := notHeld }] } }

def execDigestReceive (peerCtx tag label digest : Nat) (poisoned ask notHeld : Bool) (s : State) : Host.Outcome State Fault Refusal :=
  whenever (.digestReceive peerCtx tag label digest poisoned ask notHeld) (s.canDigest peerCtx tag label ask) s
    (s.digestArrives peerCtx tag label (digest % 2 ^ 256) poisoned ask notHeld)

/-! ### Completion (R399, R408) -/

def State.cdesc (s : State) (d : Nat) : Option CDesc := s.lnk.cdescs.find? fun x => decide (x.id = d)

/-- Every write is acknowledged, a DIGEST has its result, and the descriptor is the first of its queue. -/
def State.canCdescDone (s : State) (d : Nat) : Bool :=
  match s.cdesc d with
  | none => false
  | some x => decide (x.left = 0) && !x.faulted && (!cDigest x.raw || x.written) && !s.pln.fatal &&
      (match s.lnk.cdescs.find? fun y => decide (y.queue = x.queue) with | some y => decide (y.id = d) | none => false)

/-- The increment, and the release of the record. -/
def State.cdescDone (s : State) (d : Nat) : State :=
  match s.cdesc d with
  | none => s
  | some x =>
    let s1 := { s with lnk := { s.lnk with cdescs := s.lnk.cdescs.filter fun y => !decide (y.id = d) } }
    let s2 := if cInc x.raw then s1.incCounter (.coll x.unit) x.ctx (cCounter x.raw) (cAmount x.raw) else s1
    s2.releaseRecord x.queue

def execCollectiveDescriptorComplete (desc : Nat) (s : State) : Host.Outcome State Fault Refusal :=
  whenever (.collectiveDescriptorComplete desc) (s.canCdescDone desc) s (s.cdescDone desc)

end Sys2Proof.Machine
end

