-- ==== Sys2Proof/Machine/Control.lean ====
section
/-! DEFINITION. The tile operations of classes CTRL, PRED, ADDR and MEM (R74), TBAR and HALT apart. -/

namespace Sys2Proof.Machine

/-- FMT, LEN and AUX are unused (R622). -/
def noFields (w : Nat) : Bool := decide (wFmt w = 0) && decide (wLen w = 0) && decide (wAux w = 0)

/-- An operation that only changes its thread's registers. -/
def regEffect (f : Op → RegSet → RegSet) (s : State) (o : Op) : Eff := .done (s.modRegs o (f o))

/-! ### CTRL -/

/-- NOP, and the words that name no operation (R72, R74). -/
def nopSpec : OpSpec :=
  { enc := fun _ o => { opcode := opcodeReason o.w, fields := noFields o.w }
    effect := fun s _ => .done s }

def execNop (tile thread : Nat) (w : BitVec 128) (s : State) : Host.Outcome State Fault Refusal :=
  runOp (.nop tile thread w) tile thread w nopSpec s

/-- The counter drives an active loop: writing it is LOOP_NEST reason 5 (R79). -/
def counterActive (s : State) (o : Op) : Option Chk :=
  let c := wOpd o.w
  if (s.regs o).loops.any (fun l => decide (l.ctr = c)) then some ⟨0x0108, noAddr, c + 5 * 8⟩ else none

/-- SETK: k[d] := (AUX, LEN) (R74). -/
def setkSpec : OpSpec :=
  { enc := fun _ o => { opd := .idx 3, fields := decide (wFmt o.w = 0) }
    own := counterActive
    effect := regEffect fun o r => r.setK (wOpd o.w) (wImm o.w) }

def execSetk (tile thread : Nat) (w : BitVec 128) (s : State) : Host.Outcome State Fault Refusal :=
  runOp (.setk tile thread w) tile thread w setkSpec s

/-- LDK: k[d] := 32-bit word at a, at most (AUX, LEN) (R80). -/
def ldkEffect (s : State) (o : Op) : Eff :=
  let v := (s.tile o.tile).narrow o.a 4
  if wImm o.w < v then .refuse ⟨0x0107, noAddr, v⟩ else .done (s.modRegs o fun r => r.setK (wOpd o.w) v)

def ldkSpec : OpSpec :=
  { enc := fun _ o => { opd := .idx 3, opa := .mem, fields := decide (wFmt o.w = 0) }
    accs := fun _ _ => [{ fld := 1, foot := 4, reach := .tile 1 4 true false, consumer := 4 }]
    own := counterActive
    effect := ldkEffect }

def execLdk (tile thread : Nat) (w : BitVec 128) (s : State) : Host.Outcome State Fault Refusal :=
  runOp (.ldk tile thread w) tile thread w ldkSpec s

/-- The three tests of R79, with the end of a fill segment as an enclosing body (R265). -/
def loopNest (s : State) (o : Op) : Option Chk :=
  let c := wOpd o.w
  let r := s.regs o
  let stop := o.idx + 1 + wLen o.w
  let tooLong := (match r.loops with | l :: _ => decide (l.stop < stop) | [] => false) ||
    (o.fill && (match (s.tile o.tile).fillCur o.thread with | some (_, e) => decide (e.ops < stop) | none => false))
  if 8 ≤ r.loops.length then some ⟨0x0108, noAddr, c + 1 * 8⟩
  else if r.loops.any (fun l => decide (l.ctr = c)) then some ⟨0x0108, noAddr, c + 2 * 8⟩
  else if tooLong then some ⟨0x0108, noAddr, c + 3 * 8⟩
  else none

/-- LOOP k[d]: the next LEN operations k[d] times, or none (R78). -/
def loopEffect (s : State) (o : Op) : Eff :=
  let c := wOpd o.w
  let s1 := s.modRegs o RegSet.markNested
  if (s.regs o).getK c = 0 then .done (s1.advance o (1 + wLen o.w))
  else
    .done ((s1.modRegs o fun r =>
      { r with loops := { ctr := c, start := o.idx + 1, stop := o.idx + 1 + wLen o.w, looped := false, nested := false } :: r.loops }).advance o 1)

def loopSpec : OpSpec :=
  { enc := fun _ o => { opd := .idx 3, fields := decide (wFmt o.w = 0) && decide (wAux o.w = 0), needLen := true }
    own := loopNest
    effect := loopEffect
    jumps := true
    isLoop := true }

def execLoop (tile thread : Nat) (w : BitVec 128) (s : State) : Host.Outcome State Fault Refusal :=
  runOp (.loop tile thread w) tile thread w loopSpec s

/-! ### PRED -/

/-- The comparison that FMT selects: 0 EQ, 1 NE, 2 LT, 3 GE, unsigned (R74). -/
def cmpFmt (fmt a b : Nat) : Bool :=
  match fmt with
  | 0 => decide (a = b) | 1 => decide (a ≠ b) | 2 => decide (a < b) | _ => decide (b ≤ a)

/-- PSETI: p[d] := LEN[0]. -/
def psetiSpec : OpSpec :=
  { enc := fun _ o => { opd := .idx 3, fields := decide (wFmt o.w = 0) && decide (wLen o.w < 2) && decide (wAux o.w = 0) }
    effect := regEffect fun o r => r.setP (wOpd o.w) (bit (wLen o.w) 0) }

def execPseti (tile thread : Nat) (w : BitVec 128) (s : State) : Host.Outcome State Fault Refusal :=
  runOp (.pseti tile thread w) tile thread w psetiSpec s

/-- PSETK: p[d] := k[a] cmp LEN. -/
def psetkSpec : OpSpec :=
  { enc := fun _ o => { opd := .idx 3, opa := .idx 3, fields := decide (wFmt o.w < 4) && decide (wAux o.w = 0) }
    effect := regEffect fun o r => r.setP (wOpd o.w) (cmpFmt (wFmt o.w) (r.getK (wOpa o.w)) (wLen o.w)) }

def execPsetk (tile thread : Nat) (w : BitVec 128) (s : State) : Host.Outcome State Fault Refusal :=
  runOp (.psetk tile thread w) tile thread w psetkSpec s

/-- PSETM: p[d] := 32-bit word at a, cmp LEN. -/
def psetmSpec : OpSpec :=
  { enc := fun _ o => { opd := .idx 3, opa := .mem, fields := decide (wFmt o.w < 4) && decide (wAux o.w = 0) }
    accs := fun _ _ => [{ fld := 1, foot := 4, reach := .tile 1 4 true false, consumer := 4 }]
    effect := fun s o => .done (s.modRegs o fun r =>
      r.setP (wOpd o.w) (cmpFmt (wFmt o.w) ((s.tile o.tile).narrow o.a 4) (wLen o.w))) }

def execPsetm (tile thread : Nat) (w : BitVec 128) (s : State) : Host.Outcome State Fault Refusal :=
  runOp (.psetm tile thread w) tile thread w psetmSpec s

/-- PLOG: p[d] := p[a] op p[b]; 0 AND, 1 OR, 2 XOR, 3 AND NOT. -/
def plogOp (fmt : Nat) (a b : Bool) : Bool :=
  match fmt with
  | 0 => a && b | 1 => a || b | 2 => a.xor b | _ => a && !b

def plogSpec : OpSpec :=
  { enc := fun _ o => { opd := .idx 3, opa := .idx 3, opb := .idx 3,
                        fields := decide (wFmt o.w < 4) && decide (wLen o.w = 0) && decide (wAux o.w = 0) }
    effect := regEffect fun o r => r.setP (wOpd o.w) (plogOp (wFmt o.w) (r.getP (wOpa o.w)) (r.getP (wOpb o.w))) }

def execPlog (tile thread : Nat) (w : BitVec 128) (s : State) : Host.Outcome State Fault Refusal :=
  runOp (.plog tile thread w) tile thread w plogSpec s

/-- PSTAT: p[d] := status flag AUX. -/
def pstatSpec : OpSpec :=
  { enc := fun _ o => { opd := .idx 3, fields := decide (wFmt o.w = 0) && decide (wLen o.w = 0) && decide (wAux o.w < 4) }
    effect := regEffect fun o r => r.setP (wOpd o.w) (r.flags.get (wAux o.w)) }

def execPstat (tile thread : Nat) (w : BitVec 128) (s : State) : Host.Outcome State Fault Refusal :=
  runOp (.pstat tile thread w) tile thread w pstatSpec s

/-! ### ADDR -/

/-- ALI: a[d] := bits [111:56] of the word. -/
def aliSpec : OpSpec :=
  { enc := fun _ o => { opd := .idx 4, opa := .any, opb := .any, fields := decide (wFmt o.w = 0) && decide (bits o.w 112 16 = 0) }
    effect := regEffect fun o r => r.setA (wOpd o.w) (bits o.w 56 56) }

def execAli (tile thread : Nat) (w : BitVec 128) (s : State) : Host.Outcome State Fault Refusal :=
  runOp (.ali tile thread w) tile thread w aliSpec s

/-- AADD: a[d] := a[a] + sign-extended (AUX, LEN), modulo 2^56 (R66). -/
def aaddSpec : OpSpec :=
  { enc := fun _ o => { opd := .idx 4, opa := .idx 4, fields := decide (wFmt o.w = 0) }
    effect := regEffect fun o r => r.setA (wOpd o.w) (wrapInt 56 ((r.getA (wOpa o.w) : Int) + sext 24 (wImm o.w))) }

def execAadd (tile thread : Nat) (w : BitVec 128) (s : State) : Host.Outcome State Fault Refusal :=
  runOp (.aadd tile thread w) tile thread w aaddSpec s

/-- AADDK: a[d] := a[a] + k[b] × (AUX, LEN). -/
def aaddkSpec : OpSpec :=
  { enc := fun _ o => { opd := .idx 4, opa := .idx 4, opb := .idx 3, fields := decide (wFmt o.w = 0) }
    effect := regEffect fun o r => r.setA (wOpd o.w) (r.getA (wOpa o.w) + r.getK (wOpb o.w) * wImm o.w) }

def execAaddk (tile thread : Nat) (w : BitVec 128) (s : State) : Host.Outcome State Fault Refusal :=
  runOp (.aaddk tile thread w) tile thread w aaddkSpec s

/-- LDA: a[d] := 64-bit word at a; its bits [63:56] are zero, or ADDRESS_INVALID reason 6. Where OPA is POSTINC on the register that it
loads, the loaded word stays (DESIGN CHOICE, log entry 167): R71 does not say. -/
def ldaEffect (s : State) (o : Op) : Eff :=
  let v := (s.tile o.tile).narrow o.a 8
  if bits v 56 8 ≠ 0 then .refuse ⟨0x0105, tileAddr o.tile o.a, 6⟩ else .done (s.modRegs o fun r => r.setA (wOpd o.w) v)

def ldaSpec : OpSpec :=
  { enc := fun _ o => { opd := .idx 4, opa := .mem, fields := noFields o.w }
    accs := fun _ _ => [{ fld := 1, foot := 8, reach := .tile 1 8 true false, consumer := 4 }]
    effect := ldaEffect }

def execLda (tile thread : Nat) (w : BitVec 128) (s : State) : Host.Outcome State Fault Refusal :=
  runOp (.lda tile thread w) tile thread w ldaSpec s

/-- STA: 64-bit word at d := a[a], the register as it was before a POSTINC of d (DEDUCED, log entry 167). -/
def staSpec : OpSpec :=
  { enc := fun _ o => { opd := .mem, opa := .idx 4, fields := noFields o.w }
    accs := fun _ _ => [{ fld := 0, foot := 8, reach := .tile 1 8 false true }]
    effect := fun s o => .done (s.opNarrow o o.d 8 (o.pre.getA (wOpa o.w))) }

def execSta (tile thread : Nat) (w : BitVec 128) (s : State) : Host.Outcome State Fault Refusal :=
  runOp (.sta tile thread w) tile thread w staSpec s

/-- STK: 32-bit word at d := k[a]. -/
def stkSpec : OpSpec :=
  { enc := fun _ o => { opd := .mem, opa := .idx 3, fields := noFields o.w }
    accs := fun _ _ => [{ fld := 0, foot := 4, reach := .tile 1 4 false true }]
    effect := fun s o => .done (s.opNarrow o o.d 4 ((s.regs o).getK (wOpa o.w))) }

def execStk (tile thread : Nat) (w : BitVec 128) (s : State) : Host.Outcome State Fault Refusal :=
  runOp (.stk tile thread w) tile thread w stkSpec s

/-! ### MEM -/

/-- Lines copied one by one, in ascending order, with their poison marks (R74, R482). -/
def copyLines (o : Op) (src dst : Nat) : Nat → State → State
  | 0, s => s
  | n + 1, s =>
    let t := s.tile o.tile
    copyLines o (src + 1) (dst + 1) n (s.opLine o dst (t.line src) (t.poisoned src))

def movlSpec : OpSpec :=
  { enc := fun _ o => { opd := .mem, opa := .mem, fields := decide (wFmt o.w = 0) && decide (wAux o.w = 0), needLen := true }
    accs := fun _ o => [{ fld := 0, foot := 64 * wLen o.w, reach := .tile (wLen o.w) 64 false true },
                        { fld := 1, foot := 64 * wLen o.w, reach := .tile (wLen o.w) 64 true false }]
    effect := fun s o => .done (copyLines o (o.a / 64) (o.d / 64) (wLen o.w) s) }

def execMovl (tile thread : Nat) (w : BitVec 128) (s : State) : Host.Outcome State Fault Refusal :=
  runOp (.movl tile thread w) tile thread w movlSpec s

def zeroSpec : OpSpec :=
  { enc := fun _ o => { opd := .mem, fields := decide (wFmt o.w = 0) && decide (wAux o.w = 0), needLen := true }
    accs := fun _ o => [{ fld := 0, foot := 64 * wLen o.w, reach := .tile (wLen o.w) 64 false true }]
    effect := fun s o => .done (s.opLines o (o.d / 64) (List.replicate (wLen o.w) (0, false))) }

def execZero (tile thread : Nat) (w : BitVec 128) (s : State) : Host.Outcome State Fault Refusal :=
  runOp (.zero tile thread w) tile thread w zeroSpec s

/-- HRD: the reads leave in VC1; the ticket stays busy until the last line is written (R82). On a pool tile nothing leaves. -/
def hrdSpec : OpSpec :=
  { enc := fun _ o => { tkt := .required, opd := .mem, opa := .mem, fields := decide (wFmt o.w = 0) && decide (wAux o.w = 0),
                        needLen := true }
    accs := fun _ o => [{ fld := 0, foot := 64 * wLen o.w, reach := .tile (wLen o.w) 64 false true },
                        { fld := 1, foot := 64 * wLen o.w, reach := .hbm (wLen o.w) }]
    effect := fun s o =>
      let s1 := s.takeTicket o
      .done (if (s.tile o.tile).shadow.isSome then s1
             else s1.issueMem (.hrd o.who (o.d / 64)) (.tile o.tile) o.ctx o.a false false (List.replicate (wLen o.w) (0, false))) }

def execHrd (tile thread : Nat) (w : BitVec 128) (s : State) : Host.Outcome State Fault Refusal :=
  runOp (.hrd tile thread w) tile thread w hrdSpec s

/-- The `n` lines from `l` on with their poison marks. -/
def Tile.lines (t : Tile) (l n : Nat) : List (Nat × Bool) := (List.range n).map fun j => (t.line (l + j), t.poisoned (l + j))

/-- HWR: the lines leave in VC1, with their poison marks (R82, R482), unless the rerun suppresses it (R103). -/
def hwrSpec : OpSpec :=
  { enc := fun _ o => { tkt := .required, opd := .mem, opa := .mem, fields := decide (wFmt o.w = 0) && decide (wAux o.w = 0),
                        needLen := true }
    accs := fun _ o => [{ fld := 0, foot := 64 * wLen o.w, reach := .hbm (wLen o.w) },
                        { fld := 1, foot := 64 * wLen o.w, reach := .tile (wLen o.w) 64 true false }]
    effect := fun s o =>
      let lines := (s.tile o.tile).lines (o.a / 64) (wLen o.w)
      match s.outside o o.d (packElems 512 (lines.map fun x => x.1)) (64 * wLen o.w) with
      | (sup, s1) =>
        let s2 := s1.asyncTicket o sup
        .done (if sup then s2 else s2.issueMem (.hwr o.who) (.tile o.tile) o.ctx o.d true false lines) }

def execHwr (tile thread : Nat) (w : BitVec 128) (s : State) : Host.Outcome State Fault Refusal :=
  runOp (.hwr tile thread w) tile thread w hwrSpec s

end Sys2Proof.Machine
end

