-- ==== Sys2Proof/Machine/FirmwareDma.lean ====
section
/-! DEFINITION. DMA between memory and the register windows, space 0xF, for descriptors of the firmware system context (R42, R369), and
the completion of descriptors (R367, R371). -/

namespace Sys2Proof.Machine

/-- A line of registers is read as eight accesses of 64 bits in ascending order, with the path of Armature core 0 (DESIGN CHOICE, log
entry 150). -/
def State.readRegs (s : State) (off : Nat) : Nat × State :=
  (List.range 8).foldl (fun x j => match x.2.regRead 2 0 (off + 8 * j) 8 with | (v, s1) => (x.1 + v * 2 ^ (64 * j), s1)) (0, s)

/-- A line of registers is written in the same way. -/
def State.writeRegs (s : State) (off v : Nat) : State :=
  (List.range 8).foldl (fun s j => s.regWrite 2 0 (off + 8 * j) 8 (bits v (64 * j) 64)) s

/-- The lines of descriptor `d` that wait for registers are written, and acknowledged. -/
def State.flushRegs (s : State) (d : Nat) : State :=
  match s.desc d with
  | none => s
  | some x =>
    let s1 := x.regLines.foldl (fun s l => s.writeRegs ((dDst x.raw + 64 * l.1) % 2 ^ 32) l.2) s
    s1.modDesc d fun y => { y with regLines := [], acked := y.acked + x.regLines.length }

/-- A line of registers holds SYU_WATCH_RESULT of the bank of core 0, whose last submission has no outcome yet: a read waits (R305). -/
def State.regWaits (s : State) (off : Nat) : Bool := decide (off % 2 ^ 32 / 64 * 64 = 0x300000) && (s.wbank 0).busy.isSome

/-- Line `i` of a source in space 0xF, the next one, is read and stored (R371). -/
def State.moveReg (s : State) (d i : Nat) : State :=
  match s.desc d with
  | none => s
  | some x =>
    if x.regPos ≠ i || s.regWaits (dSrc x.raw + 64 * i) then s
    else
      match s.readRegs ((dSrc x.raw + 64 * i) % 2 ^ 32) with
      | (v, s1) => ((s1.modDesc d fun y => { y with regPos := i + 1, regSrc := decide (i + 1 ≠ y.lines) }).dmaStore x i [(v, false)]).flushRegs d

/-- Lines of a source in space 0xF, in ascending order, each stored before the next one is read, up to one that waits. -/
def State.moveRegs (s : State) (d lines : Nat) : State := (List.range lines).foldl (fun s i => s.moveReg d i) s

/-- A descriptor has lines of space 0xF to move. -/
def State.regsDue (s : State) (d : Nat) : Bool :=
  match s.desc d with
  | none => false
  | some x => (if x.regSrc then !s.regWaits (dSrc x.raw + 64 * x.regPos) else !x.regLines.isEmpty) && !x.faulted && !s.pln.fatal && s.isOn 1

/-- They move. -/
def State.runRegs (s : State) (d : Nat) : State :=
  match s.desc d with
  | none => s
  | some x =>
    if x.regSrc then s.moveRegs d x.lines else s.flushRegs d

/-- Lines of space 0xF move in the first of two such commands; the second one ends the descriptor. -/
def execDmaDescriptorComplete (descriptor : Nat) (s : State) : Host.Outcome State Fault Refusal :=
  whenever (.dmaDescriptorComplete descriptor) (s.regsDue descriptor || s.canDescDone descriptor) s
    (if s.regsDue descriptor then s.runRegs descriptor else s.descDone descriptor)

end Sys2Proof.Machine
end

