-- ==== Sys2Proof/Machine/Dispatch.lean ====
section
/-! DEFINITION. The meaning of each command: one arm for each constructor of `Instr`. -/

namespace Sys2Proof.Machine

def exec (i : Instr) (s : State) : Host.Outcome State Fault Refusal :=
  match i with
  | .nop tile thread w => Sys2Proof.Machine.execNop tile thread w s
  | .setk tile thread w => Sys2Proof.Machine.execSetk tile thread w s
  | .ldk tile thread w => Sys2Proof.Machine.execLdk tile thread w s
  | .loop tile thread w => Sys2Proof.Machine.execLoop tile thread w s
  | .tbar tile thread w => Sys2Proof.Machine.execTbar tile thread w s
  | .halt tile thread w => Sys2Proof.Machine.execHalt tile thread w s
  | .pseti tile thread w => Sys2Proof.Machine.execPseti tile thread w s
  | .psetk tile thread w => Sys2Proof.Machine.execPsetk tile thread w s
  | .psetm tile thread w => Sys2Proof.Machine.execPsetm tile thread w s
  | .plog tile thread w => Sys2Proof.Machine.execPlog tile thread w s
  | .pstat tile thread w => Sys2Proof.Machine.execPstat tile thread w s
  | .ali tile thread w => Sys2Proof.Machine.execAli tile thread w s
  | .aadd tile thread w => Sys2Proof.Machine.execAadd tile thread w s
  | .aaddk tile thread w => Sys2Proof.Machine.execAaddk tile thread w s
  | .lda tile thread w => Sys2Proof.Machine.execLda tile thread w s
  | .sta tile thread w => Sys2Proof.Machine.execSta tile thread w s
  | .stk tile thread w => Sys2Proof.Machine.execStk tile thread w s
  | .movl tile thread w => Sys2Proof.Machine.execMovl tile thread w s
  | .zero tile thread w => Sys2Proof.Machine.execZero tile thread w s
  | .hrd tile thread w => Sys2Proof.Machine.execHrd tile thread w s
  | .hwr tile thread w => Sys2Proof.Machine.execHwr tile thread w s
  | .mzero tile thread w => Sys2Proof.Machine.execMzero tile thread w s
  | .mma tile thread w => Sys2Proof.Machine.execMma tile thread w s
  | .msf64 tile thread w => Sys2Proof.Machine.execMsf64 tile thread w s
  | .mrd tile thread w => Sys2Proof.Machine.execMrd tile thread w s
  | .msave tile thread w => Sys2Proof.Machine.execMsave tile thread w s
  | .mrestore tile thread w => Sys2Proof.Machine.execMrestore tile thread w s
  | .vew tile thread w => Sys2Proof.Machine.execVew tile thread w s
  | .vfma tile thread w => Sys2Proof.Machine.execVfma tile thread w s
  | .vcvt tile thread w => Sys2Proof.Machine.execVcvt tile thread w s
  | .vred tile thread w => Sys2Proof.Machine.execVred tile thread w s
  | .vnormAcc tile thread w => Sys2Proof.Machine.execVnormAcc tile thread w s
  | .vnormRead tile thread w => Sys2Proof.Machine.execVnormRead tile thread w s
  | .vnormClear tile thread w => Sys2Proof.Machine.execVnormClear tile thread w s
  | .vopt tile thread w => Sys2Proof.Machine.execVopt tile thread w s
  | .vgrn tile thread w => Sys2Proof.Machine.execVgrn tile thread w s
  | .vocl tile thread w => Sys2Proof.Machine.execVocl tile thread w s
  | .vocs tile thread w => Sys2Proof.Machine.execVocs tile thread w s
  | .expt tile thread w => Sys2Proof.Machine.execExpt tile thread w s
  | .mopenConnect tile thread w => Sys2Proof.Machine.execMopenConnect tile thread w s
  | .mopenListen tile thread w => Sys2Proof.Machine.execMopenListen tile thread w s
  | .msend tile thread w => Sys2Proof.Machine.execMsend tile thread w s
  | .mpop tile thread w => Sys2Proof.Machine.execMpop tile thread w s
  | .mcloseRelease tile thread w => Sys2Proof.Machine.execMcloseRelease tile thread w s
  | .mcloseClose tile thread w => Sys2Proof.Machine.execMcloseClose tile thread w s
  | .cinc tile thread w => Sys2Proof.Machine.execCinc tile thread w s
  | .cwatch tile thread w => Sys2Proof.Machine.execCwatch tile thread w s
  | .cread tile thread w => Sys2Proof.Machine.execCread tile thread w s
  | .exchangeRequest x => Sys2Proof.Machine.execExchangeRequest x s
  | .exchangeGrant x => Sys2Proof.Machine.execExchangeGrant x s
  | .exchangeDataArrival x parity => Sys2Proof.Machine.execExchangeDataArrival x parity s
  | .exchangeReceipt x => Sys2Proof.Machine.execExchangeReceipt x s
  | .exchangeShort tile entry => Sys2Proof.Machine.execExchangeShort tile entry s
  | .tileSignal tile => Sys2Proof.Machine.execTileSignal tile s
  | .synchronisationComplete group => Sys2Proof.Machine.execSynchronisationComplete group s
  | .superstepRerun tile => Sys2Proof.Machine.execSuperstepRerun tile s
  | .readDataArrival acc parity => Sys2Proof.Machine.execReadDataArrival acc parity s
  | .mopenReply reply => Sys2Proof.Machine.execMopenReply reply s
  | .msendReply reply => Sys2Proof.Machine.execMsendReply reply s
  | .watchNotification notif => Sys2Proof.Machine.execWatchNotification notif s
  | .incrementArrival item => Sys2Proof.Machine.execIncrementArrival item s
  | .updateWindow counter => Sys2Proof.Machine.execUpdateWindow counter s
  | .watchTimeout tile item => Sys2Proof.Machine.execWatchTimeout tile item s
  | .managementWatchTimeout slot => Sys2Proof.Machine.execManagementWatchTimeout slot s
  | .deadlockWatchdog slot => Sys2Proof.Machine.execDeadlockWatchdog slot s
  | .managementWatchRegistration bank value => Sys2Proof.Machine.execManagementWatchRegistration bank value s
  | .connectRequest item => Sys2Proof.Machine.execConnectRequest item s
  | .messageHead item => Sys2Proof.Machine.execMessageHead item s
  | .messagePlaced msg bad => Sys2Proof.Machine.execMessagePlaced msg bad s
  | .queueReleaseArrival item => Sys2Proof.Machine.execQueueReleaseArrival item s
  | .queueReset bank => Sys2Proof.Machine.execQueueReset bank s
  | .queueHold bank on => Sys2Proof.Machine.execQueueHold bank on s
  | .rmnQRelease core value => Sys2Proof.Machine.execRmnQRelease core value s
  | .sliceAccess acc mapError => Sys2Proof.Machine.execSliceAccess acc mapError s
  | .cowCopyComplete entry => Sys2Proof.Machine.execCowCopyComplete entry s
  | .hbmWriteAccept acc parity => Sys2Proof.Machine.execHbmWriteAccept acc parity s
  | .writeAcknowledgement acc => Sys2Proof.Machine.execWriteAcknowledgement acc s
  | .hbmReadReturn acc => Sys2Proof.Machine.execHbmReadReturn acc s
  | .errorCheckAndScrub line => Sys2Proof.Machine.execErrorCheckAndScrub line s
  | .map set value => Sys2Proof.Machine.execMap set value s
  | .unmap set value => Sys2Proof.Machine.execUnmap set value s
  | .setperm set value => Sys2Proof.Machine.execSetperm set value s
  | .snapshot set value => Sys2Proof.Machine.execSnapshot set value s
  | .releaseSnapshot set value => Sys2Proof.Machine.execReleaseSnapshot set value s
  | .clearPoison set value => Sys2Proof.Machine.execClearPoison set value s
  | .frameMapCommandComplete set => Sys2Proof.Machine.execFrameMapCommandComplete set s
  | .frameZeroed frame bad => Sys2Proof.Machine.execFrameZeroed frame bad s
  | .hbmDomainDown domain => Sys2Proof.Machine.execHbmDomainDown domain s
  | .hbmDomainFence domain => Sys2Proof.Machine.execHbmDomainFence domain s
  | .hbmDomainUp domain => Sys2Proof.Machine.execHbmDomainUp domain s
  | .hbmDomainOn domain => Sys2Proof.Machine.execHbmDomainOn domain s
  | .dmaCopy engine queue => Sys2Proof.Machine.execDmaCopy engine queue s
  | .dmaFill engine queue => Sys2Proof.Machine.execDmaFill engine queue s
  | .dmaDescriptorComplete desc => Sys2Proof.Machine.execDmaDescriptorComplete desc s
  | .pwinWriteArrival port => Sys2Proof.Machine.execPwinWriteArrival port s
  | .pwinWriteUnacked token => Sys2Proof.Machine.execPwinWriteUnacked token s
  | .flitReceive port flit uncorrectable => Sys2Proof.Machine.execFlitReceive port flit uncorrectable s
  | .replayLimit port => Sys2Proof.Machine.execReplayLimit port s
  | .laneLockLoss port => Sys2Proof.Machine.execLaneLockLoss port s
  | .linkSilence port => Sys2Proof.Machine.execLinkSilence port s
  | .portEnable port => Sys2Proof.Machine.execPortEnable port s
  | .portDisable port => Sys2Proof.Machine.execPortDisable port s
  | .retrain port => Sys2Proof.Machine.execRetrain port s
  | .trainingComplete port channelOk => Sys2Proof.Machine.execTrainingComplete port channelOk s
  | .trainingTimeout port => Sys2Proof.Machine.execTrainingTimeout port s
  | .ability port versions floor role peerPort peerId => Sys2Proof.Machine.execAbility port versions floor role peerPort peerId s
  | .bind port ctx peerCtx tag peerId => Sys2Proof.Machine.execBind port ctx peerCtx tag peerId s
  | .unbind port peerCtx tag cause => Sys2Proof.Machine.execUnbind port peerCtx tag cause s
  | .reserve port tag d4 d5 => Sys2Proof.Machine.execReserve port tag d4 d5 s
  | .suspend port window => Sys2Proof.Machine.execSuspend port window s
  | .suspended port window => Sys2Proof.Machine.execSuspended port window s
  | .resume port window => Sys2Proof.Machine.execResume port window s
  | .bindTimeout port ctx => Sys2Proof.Machine.execBindTimeout port ctx s
  | .reserveTimeout port ctx => Sys2Proof.Machine.execReserveTimeout port ctx s
  | .remotePacketReceive port => Sys2Proof.Machine.execRemotePacketReceive port s
  | .nakReceive port => Sys2Proof.Machine.execNakReceive port s
  | .collectiveExpmax unit queue => Sys2Proof.Machine.execCollectiveExpmax unit queue s
  | .collectiveEncode unit queue => Sys2Proof.Machine.execCollectiveEncode unit queue s
  | .collectiveAdd unit queue => Sys2Proof.Machine.execCollectiveAdd unit queue s
  | .collectiveDecode unit queue => Sys2Proof.Machine.execCollectiveDecode unit queue s
  | .collectiveDigest unit queue => Sys2Proof.Machine.execCollectiveDigest unit queue s
  | .collectiveDescriptorComplete desc => Sys2Proof.Machine.execCollectiveDescriptorComplete desc s
  | .digestReceive peerCtx tag label digest poisoned ask notHeld => Sys2Proof.Machine.execDigestReceive peerCtx tag label digest poisoned ask notHeld s
  | .gateDecision ctx => Sys2Proof.Machine.execGateDecision ctx s
  | .patinaCountsReceive item => Sys2Proof.Machine.execPatinaCountsReceive item s
  | .calipersReport item => Sys2Proof.Machine.execCalipersReport item s
  | .telRingTailWrite master ctx value => Sys2Proof.Machine.execTelRingTailWrite master ctx value s
  | .doorbell fn ring value => Sys2Proof.Machine.execDoorbell fn ring value s
  | .hostNop fn => Sys2Proof.Machine.execHostNop fn s
  | .hostAdmit fn => Sys2Proof.Machine.execHostAdmit fn s
  | .dma fn => Sys2Proof.Machine.execDma fn s
  | .signal fn => Sys2Proof.Machine.execSignal fn s
  | .watch fn => Sys2Proof.Machine.execWatch fn s
  | .teardown fn => Sys2Proof.Machine.execTeardown fn s
  | .fence fn => Sys2Proof.Machine.execFence fn s
  | .ringEnable fn ring on => Sys2Proof.Machine.execRingEnable fn ring on s
  | .ringReset fn ring => Sys2Proof.Machine.execRingReset fn ring s
  | .irqDelayExpiry fn vec => Sys2Proof.Machine.execIrqDelayExpiry fn vec s
  | .functionLevelReset fn => Sys2Proof.Machine.execFunctionLevelReset fn s
  | .vfEnableClear => Sys2Proof.Machine.execVfEnableClear s
  | .d3hotToD0 fn => Sys2Proof.Machine.execD3hotToD0 fn s
  | .mailboxSend master chan value => Sys2Proof.Machine.execMailboxSend master chan value s
  | .mailboxAck master chan => Sys2Proof.Machine.execMailboxAck master chan s
  | .mailboxTimeout chan => Sys2Proof.Machine.execMailboxTimeout chan s
  | .imageChecks ctx => Sys2Proof.Machine.execImageChecks ctx s
  | .admission ctx => Sys2Proof.Machine.execAdmission ctx s
  | .loadingComplete ctx => Sys2Proof.Machine.execLoadingComplete ctx s
  | .teardownComplete ctx => Sys2Proof.Machine.execTeardownComplete ctx s
  | .shadowLoad sample pool => Sys2Proof.Machine.execShadowLoad sample pool s
  | .digestCompare sample => Sys2Proof.Machine.execDigestCompare sample s
  | .arbiterRun sample pool => Sys2Proof.Machine.execArbiterRun sample pool s
  | .armatureCounterStore core addr value => Sys2Proof.Machine.execArmatureCounterStore core addr value s
  | .armatureCoreLoad core addr bytes => Sys2Proof.Machine.execArmatureCoreLoad core addr bytes s
  | .cartridgeAttach info => Sys2Proof.Machine.execCartridgeAttach info s
  | .cartridgeDetached => Sys2Proof.Machine.execCartridgeDetached s
  | .crtRead value => Sys2Proof.Machine.execCrtRead value s
  | .crtWrite value => Sys2Proof.Machine.execCrtWrite value s
  | .crtFormat value => Sys2Proof.Machine.execCrtFormat value s
  | .cartridgeCommandComplete failing gb => Sys2Proof.Machine.execCartridgeCommandComplete failing gb s
  | .ledgerInterval use => Sys2Proof.Machine.execLedgerInterval use s
  | .energyWindowClose ctx => Sys2Proof.Machine.execEnergyWindowClose ctx s
  | .sensorPoll temps => Sys2Proof.Machine.execSensorPoll temps s
  | .powerCap milliwatts => Sys2Proof.Machine.execPowerCap milliwatts s
  | .inputVoltage blade millivolts => Sys2Proof.Machine.execInputVoltage blade millivolts s
  | .railFault domain high => Sys2Proof.Machine.execRailFault domain high s
  | .plinthLockstep detail => Sys2Proof.Machine.execPlinthLockstep detail s
  | .coldBoot found => Sys2Proof.Machine.execColdBoot found s
  | .warmBoot found => Sys2Proof.Machine.execWarmBoot found s
  | .secondBladeTimeout => Sys2Proof.Machine.execSecondBladeTimeout s
  | .perstAssert => Sys2Proof.Machine.execPerstAssert s
  | .hotReset => Sys2Proof.Machine.execHotReset s
  | .dlDown => Sys2Proof.Machine.execDlDown s
  | .plnResetGo master => Sys2Proof.Machine.execPlnResetGo master s
  | .reset master full => Sys2Proof.Machine.execReset master full s
  | .reduceCeiling master watts cut => Sys2Proof.Machine.execReduceCeiling master watts cut s
  | .advanceFirmwareFloor master svn cut => Sys2Proof.Machine.execAdvanceFirmwareFloor master svn cut s
  | .advanceVerjoFloor master floor cut => Sys2Proof.Machine.execAdvanceVerjoFloor master floor cut s
  | .pllLockLoss pll index => Sys2Proof.Machine.execPllLockLoss pll index s
  | .serdesRefclkLoss => Sys2Proof.Machine.execSerdesRefclkLoss s
  | .frqEnable master => Sys2Proof.Machine.execFrqEnable master s
  | .frqSelect master seq => Sys2Proof.Machine.execFrqSelect master seq s
  | .alertStatusClear master value => Sys2Proof.Machine.execAlertStatusClear master value s
  | .mbxSend len data => Sys2Proof.Machine.execMbxSend len data s
  | .mbxDeliver => Sys2Proof.Machine.execMbxDeliver s
  | .regRead offset => Sys2Proof.Machine.execRegRead offset s
  | .regWrite offset value => Sys2Proof.Machine.execRegWrite offset value s
  | .setEndpointId eid => Sys2Proof.Machine.execSetEndpointId eid s
  | .activateFirmware => Sys2Proof.Machine.execActivateFirmware s
  | .smbusSegmentRequest take => Sys2Proof.Machine.execSmbusSegmentRequest take s
  | .registerWrite master core offset size value => Sys2Proof.Machine.execRegisterWrite master core offset size value s
  | .hostReadCompletion read status ep data => Sys2Proof.Machine.execHostReadCompletion read status ep data s
  | .completionTimeout read => Sys2Proof.Machine.execCompletionTimeout read s
  | .creadResult read => Sys2Proof.Machine.execCreadResult read s
  | .linkSignalDetect port => Sys2Proof.Machine.execLinkSignalDetect port s
  | .cartridgeAttachTimeout => Sys2Proof.Machine.execCartridgeAttachTimeout s
  | .armatureCoreStore core addr bytes value => Sys2Proof.Machine.execArmatureCoreStore core addr bytes value s
  | .busMasterEnable fn on => Sys2Proof.Machine.execBusMasterEnable fn on s
  | .d0ToD3hot fn => Sys2Proof.Machine.execD0ToD3hot fn s
  | .domainPowerDown domain => Sys2Proof.Machine.execDomainPowerDown domain s
  | .bladePowerGood blade => Sys2Proof.Machine.execBladePowerGood blade s
  | .powerRemoved => Sys2Proof.Machine.execPowerRemoved s
  | .firmwareUpdate image => Sys2Proof.Machine.execFirmwareUpdate image s
  | .dlUp speed width flit => Sys2Proof.Machine.execDlUp speed width flit s

end Sys2Proof.Machine
end

