-- ==== Sys2Proof/Safety.lean ====
section
/-! DEFINITION. What counts as a safe run, in the terms that claims use: a step that answers a next state, a state whose byte
memories are in canonical form; and when a tile operation passes every check of R75, with what it then leaves alone. -/

namespace Sys2Proof.Machine

/-- The outcome is a next state. -/
def isNext (o : Host.Outcome State Fault Refusal) : Bool :=
  match o with
  | .next _ => true
  | _ => false

/-- The HBM memory, every tile memory and the tile memories that the trace buffer holds are in canonical form. -/
def State.memWf (s : State) : Bool :=
  Memory.wf s.hbm.mem && s.tiles.all (fun kv => Memory.wf kv.2.mem) && s.ras.samples.all fun x => Memory.wf x.image.mem

/-! ### Tile operations -/

/-- The operation that word `w` is at the thread, with its effective addresses, once its fill segment has started. -/
def State.opOf (s : State) (tile th : Nat) (w : BitVec 128) : Op := (s.issueState tile th).opAt tile th w.toNat

/-- The tile, the thread, the word and the definition of a tile operation; none for any other command. -/
def opSpecOf (c : Instr) : Option (Nat × Nat × BitVec 128 × OpSpec) :=
  match c with
  | .nop tile thread w => some (tile, thread, w, nopSpec)
  | .setk tile thread w => some (tile, thread, w, setkSpec)
  | .ldk tile thread w => some (tile, thread, w, ldkSpec)
  | .loop tile thread w => some (tile, thread, w, loopSpec)
  | .tbar tile thread w => some (tile, thread, w, tbarSpec)
  | .halt tile thread w => some (tile, thread, w, haltSpec)
  | .pseti tile thread w => some (tile, thread, w, psetiSpec)
  | .psetk tile thread w => some (tile, thread, w, psetkSpec)
  | .psetm tile thread w => some (tile, thread, w, psetmSpec)
  | .plog tile thread w => some (tile, thread, w, plogSpec)
  | .pstat tile thread w => some (tile, thread, w, pstatSpec)
  | .ali tile thread w => some (tile, thread, w, aliSpec)
  | .aadd tile thread w => some (tile, thread, w, aaddSpec)
  | .aaddk tile thread w => some (tile, thread, w, aaddkSpec)
  | .lda tile thread w => some (tile, thread, w, ldaSpec)
  | .sta tile thread w => some (tile, thread, w, staSpec)
  | .stk tile thread w => some (tile, thread, w, stkSpec)
  | .movl tile thread w => some (tile, thread, w, movlSpec)
  | .zero tile thread w => some (tile, thread, w, zeroSpec)
  | .hrd tile thread w => some (tile, thread, w, hrdSpec)
  | .hwr tile thread w => some (tile, thread, w, hwrSpec)
  | .mzero tile thread w => some (tile, thread, w, mzeroSpec)
  | .mma tile thread w => some (tile, thread, w, mmaSpec)
  | .msf64 tile thread w => some (tile, thread, w, msf64Spec)
  | .mrd tile thread w => some (tile, thread, w, mrdSpec)
  | .msave tile thread w => some (tile, thread, w, msaveSpec)
  | .mrestore tile thread w => some (tile, thread, w, mrestoreSpec)
  | .vew tile thread w => some (tile, thread, w, vewSpec)
  | .vfma tile thread w => some (tile, thread, w, vfmaSpec)
  | .vcvt tile thread w => some (tile, thread, w, vcvtSpec)
  | .vred tile thread w => some (tile, thread, w, vredSpec)
  | .vnormAcc tile thread w => some (tile, thread, w, vnormAccSpec)
  | .vnormRead tile thread w => some (tile, thread, w, vnormReadSpec)
  | .vnormClear tile thread w => some (tile, thread, w, vnormClearSpec)
  | .vopt tile thread w => some (tile, thread, w, voptSpec)
  | .vgrn tile thread w => some (tile, thread, w, vgrnSpec)
  | .vocl tile thread w => some (tile, thread, w, voclSpec)
  | .vocs tile thread w => some (tile, thread, w, vocsSpec)
  | .expt tile thread w => some (tile, thread, w, exptSpec)
  | .mopenConnect tile thread w => some (tile, thread, w, mopenConnectSpec)
  | .mopenListen tile thread w => some (tile, thread, w, mopenListenSpec)
  | .msend tile thread w => some (tile, thread, w, msendSpec)
  | .mpop tile thread w => some (tile, thread, w, mpopSpec)
  | .mcloseRelease tile thread w => some (tile, thread, w, mcloseReleaseSpec)
  | .mcloseClose tile thread w => some (tile, thread, w, mcloseCloseSpec)
  | .cinc tile thread w => some (tile, thread, w, cincSpec)
  | .cwatch tile thread w => some (tile, thread, w, cwatchSpec)
  | .cread tile thread w => some (tile, thread, w, creadSpec)
  | _ => none

/-- The stream line of the operation is in the thread's hands, or can be fetched: FETCH is granted, parity is right and no poison
(R81, R97, R100, R482). -/
def State.fetchOk (s : State) (o : Op) : Bool :=
  match s.fetchLineOf o with
  | (_, false) => true
  | (l, true) => ((s.tile o.tile).checkLines o.tile o.thread (64 * l) 1 64 false false true).isNone &&
      !(s.tile o.tile).parityBad l && !(s.tile o.tile).poisoned l

/-- The operation passes every check of R75: its stream line, its encoding, its predicate, the accesses of its operands, its own
conditions, parity and poison of the lines that it reads. -/
def OpSpec.passes (sp : OpSpec) (s : State) (o : Op) : Bool :=
  s.fetchOk o && (encReason (sp.enc s o) o.w).isNone && ((sp.enc s o).always || (s.regs o).executes o.w) &&
    (s.checkAccs o (sp.accs s o)).isNone && (sp.own s o).isNone && !sp.hold s o &&
    !((sp.accs s o).any fun x => (touchedLines o x).any fun l =>
      (s.tile o.tile).pendingLines.any fun p => decide (p.2.1 = o.thread) && decide (p.2.2 = l)) &&
    ((s.tile o.tile).firstBad o (sp.accs s o)).isNone && ((s.tile o.tile).firstPoison o (sp.accs s o)).isNone

/-- The operation issues now: its thread issues, its tickets let it (R82), and every check of R75 passes. -/
def State.goes (s : State) (i : Instr) (tile th : Nat) (w : BitVec 128) (sp : OpSpec) : Bool :=
  i.wf && s.issues tile th && ((s.issueState tile th).regs (s.opOf tile th w)).ready w.toNat &&
    sp.passes (s.issueState tile th) (s.opOf tile th w)

/-- Main work, or fill work that is not running again after a detection (R105). -/
def State.calm (s : State) (tile : Nat) : Bool :=
  !(s.tile tile).asFill || (s.tile tile).rerun.current.isNone

/-- Registers that an operation does not write stand, with its flags and tickets. A counter of an active loop may count at the end
of its body (R78). -/
structure RegFrame (r r' : RegSet) (a k p : List Nat) : Prop where
  a : ∀ i, i ∉ a → r'.getA i = r.getA i
  k : ∀ i, i ∉ k → (∀ l ∈ r.loops, l.ctr ≠ i) → r'.getK i = r.getK i
  p : ∀ i, i ∉ p → r'.getP i = r.getP i
  flags : r'.flags = r.flags
  busy : ∀ i, r'.busy i = r.busy i

/-- Address registers that POSTINC of the accesses `xs` moves (R71). -/
def Op.posted (o : Op) (xs : List OpAcc) : List Nat :=
  (xs.filter fun x => fPost (opField o.w x.fld)).map fun x => fReg (opField o.w x.fld)

/-- Outside the tile of `o` nothing changes, nor on it another thread, nor the other register set of its thread. -/
structure OpFrame (s t : State) (o : Op) : Prop where
  state : t = { s with tiles := t.tiles }
  tiles : ∀ j, j ≠ o.tile → t.tile j = s.tile j
  threads : ∀ n, n ≠ o.thread → t.thread o.tile n = s.thread o.tile n
  other : (t.thread o.tile o.thread).regs (!o.fill) = (s.thread o.tile o.thread).regs (!o.fill)
  st : (t.thread o.tile o.thread).st = (s.thread o.tile o.thread).st

/-- On the tile of `o` only threads and digests change: no byte of its memory, no mark, no block, no entry. -/
def RegsOnly (s t : State) (o : Op) : Prop :=
  OpFrame s t o ∧
    t.tile o.tile = { s.tile o.tile with threads := (t.tile o.tile).threads, digest := (t.tile o.tile).digest }

/-- On the tile of `o` threads, digests and memory change, and of the memory only bytes `a` to `a + n - 1` with their marks. -/
def StoresOnly (s t : State) (o : Op) (a n : Nat) : Prop :=
  OpFrame s t o ∧
    t.tile o.tile = { s.tile o.tile with
      threads := (t.tile o.tile).threads, digest := (t.tile o.tile).digest, mem := (t.tile o.tile).mem, poison := (t.tile o.tile).poison
      err := { (s.tile o.tile).err with badWords := (t.tile o.tile).err.badWords } } ∧
    (∀ x, x < a ∨ a + n ≤ x → memByte (t.tile o.tile).mem x = memByte (s.tile o.tile).mem x) ∧
    (∀ l, 64 * l + 64 ≤ a ∨ a + n ≤ 64 * l → (t.tile o.tile).poisoned l = (s.tile o.tile).poisoned l) ∧
    (∀ j, 4 * j + 4 ≤ a ∨ a + n ≤ 4 * j → mget false (t.tile o.tile).err.badWords j = mget false (s.tile o.tile).err.badWords j)

/-- What an operation of the matrix or the vector engine leaves alone: of tile memory all but the bytes of `rs`, each a first
byte and a length; of the accumulator blocks, the operand cache and the norm accumulators all but those numbered `bs`, `cs` and
`ns`. It may vote, count elements and report a norm (R209, R220, R224). -/
structure EngineFrame (s t : State) (o : Op) (rs : List (Nat × Nat)) (bs cs ns : List Nat) : Prop where
  state : t = { s with tiles := t.tiles, syu := t.syu, telItems := t.telItems, nextId := t.nextId }
  syu : t.syu = { s.syu with inbound := t.syu.inbound }
  tiles : ∀ j, j ≠ o.tile → t.tile j = s.tile j
  threads : ∀ n, n ≠ o.thread → t.thread o.tile n = s.thread o.tile n
  other : (t.thread o.tile o.thread).regs (!o.fill) = (s.thread o.tile o.thread).regs (!o.fill)
  st : (t.thread o.tile o.thread).st = (s.thread o.tile o.thread).st
  tile : t.tile o.tile = { s.tile o.tile with
    threads := (t.tile o.tile).threads, digest := (t.tile o.tile).digest, mem := (t.tile o.tile).mem
    poison := (t.tile o.tile).poison, blocks := (t.tile o.tile).blocks, cache := (t.tile o.tile).cache
    norms := (t.tile o.tile).norms, patina := (t.tile o.tile).patina
    err := { (s.tile o.tile).err with badWords := (t.tile o.tile).err.badWords, badCache := (t.tile o.tile).err.badCache } }
  bytes : ∀ x, (∀ r ∈ rs, x < r.1 ∨ r.1 + r.2 ≤ x) → memByte (t.tile o.tile).mem x = memByte (s.tile o.tile).mem x
  poison : ∀ l, (∀ r ∈ rs, 64 * l + 64 ≤ r.1 ∨ r.1 + r.2 ≤ 64 * l) → (t.tile o.tile).poisoned l = (s.tile o.tile).poisoned l
  blocks : ∀ n, n ∉ bs → (t.tile o.tile).block n = (s.tile o.tile).block n
  cache : ∀ n, n ∉ cs → (t.tile o.tile).entry n = (s.tile o.tile).entry n
  norms : ∀ n, n ∉ ns → mget {} (t.tile o.tile).norms n = mget {} (s.tile o.tile).norms n

/-- A thread stops behind the operation `o` in state `st`: elsewhere only the digest and what an EXPT names (R89) may change. -/
structure ThreadStops (s t : State) (o : Op) (st : ThreadSt) : Prop where
  state : t = { s with tiles := t.tiles }
  tiles : ∀ j, j ≠ o.tile → t.tile j = s.tile j
  threads : ∀ n, n ≠ o.thread → t.thread o.tile n = s.thread o.tile n
  tile : t.tile o.tile = { s.tile o.tile with
    threads := (t.tile o.tile).threads, digest := (t.tile o.tile).digest, xAddr := (t.tile o.tile).xAddr
    xLen := (t.tile o.tile).xLen, xDrain := (t.tile o.tile).xDrain, xFill := (t.tile o.tile).xFill, xOp := (t.tile o.tile).xOp }
  st : (t.thread o.tile o.thread).st = st
  stopped : (t.thread o.tile o.thread).waitOp = o.idx
  fill : (t.thread o.tile o.thread).fill = (s.thread o.tile o.thread).fill

/-- What thread 0's EXPT names: address and length of the exchange list, DRAIN, the fill list, the operation index (R89). -/
def Tile.named (t : Tile) : Nat × Nat × Bool × Option Nat × Nat := (t.xAddr, t.xLen, t.xDrain, t.xFill, t.xOp)

/-- Lines `l`, `l + 1`, … of the tile hold these values, with these poison marks. -/
def Tile.holds (t : Tile) (l : Nat) (xs : List (Nat × Bool)) : Prop :=
  ∀ j (h : j < xs.length), t.line (l + j) = xs[j].1 % 2 ^ 512 ∧ t.poisoned (l + j) = xs[j].2

end Sys2Proof.Machine
end

