-- ==== Sys2Proof/Certificates/Slice0/Obligations.lean ====
section
/-! DEFINITION. The statements for the provers. Each docstring names the rules of the spec that the statement rests on. -/

open Sys2Proof Sys2Proof.Machine

/-- A step takes the command at the front of the queue and runs it on the state with the queue's rest. -/
def Obligations.StepRunsFrontCommand : Prop :=
  ∀ (c : Instr) (s : State) (rest : List Instr), s.pending = c :: rest → step s = exec c { s with pending := rest }

/-- On an empty queue one tick of the 100 MHz reference passes and nothing else happens: the model's choice, log entry 1. -/
def Obligations.EmptyQueueTicks : Prop := ∀ s : State, s.pending = [] → step s = .next { s with now := s.now + 1 }

/-- Every command whose operands are in their ranges answers a next state, whatever the state; any other command stops with the one
fault of the model, log entry 3. -/
def Obligations.CommandsComplete : Prop :=
  ∀ (c : Instr) (s : State), (c.wf = true → ∃ t, exec c s = .next t) ∧ (c.wf = false → exec c s = .fault .illFormed)

/-- The queue is the step's alone; and fuses are only ever burnt: the identity in them stands, no count of R557 falls, and the tile-map
generations that are committed stand. -/
def Obligations.CommandsKeepQueueAndFuses : Prop :=
  ∀ (c : Instr) (s t : State), exec c s = .next t →
    let f := s.pln.fuses
    let g := t.pln.fuses
    t.pending = s.pending ∧ g.ordering = f.ordering ∧ g.stepping = f.stepping ∧ g.moduleId = f.moduleId ∧ g.authority = f.authority ∧
      f.reductions ≤ g.reductions ∧
      f.cbtGens ≤ g.cbtGens ∧ f.floorSteps ≤ g.floorSteps ∧ f.gens <+: g.gens

/-- Every step keeps every memory of the machine in canonical form: HBM, the tile memories, and the images of the trace buffer. -/
def Obligations.StepsKeepMemories : Prop := ∀ s t : State, s.memWf = true → step s = .next t → t.memWf = true

/-- The memories are in canonical form at reset. -/
def Obligations.ResetMemories : Prop := State.reset.memWf = true

/-- R53, R63, R312, R453, R460, R561, R598: what the registers read at reset, for the Plinth controller and, of its own bank, for the physical
function; nothing is in flight and no command waits. That every byte of HBM and of a tile's memory reads 0 at reset is
the model's choice (log entry 16), and so is that nothing is in flight and every internal record is empty (log entry 14). -/
def Obligations.ResetRegisters : Prop :=
  (∀ n, n < 10 → State.reset.slotRead 1 0 (0x800100 + 8 * n) % 2 ^ 32 = if n = 0 then 2 else 0) ∧
  (∀ n, n < 10 → State.reset.slotRead 1 0 (0x800100 + 8 * n) / 2 ^ 32 = 0) ∧
  (∀ d, d < 20 → (State.reset.isOn d = true ↔ d = 0)) ∧
  State.reset.slotRead 0x10 0 0x400 = 0 ∧ State.reset.slotRead 0x10 0 0x408 = 0 ∧ State.reset.slotRead 0x10 0 0x410 = 2 ^ 48 ∧
  State.reset.slotRead 0x10 0 0x440 = 2 ^ 13 ∧ State.reset.slotRead 0x10 0 0x448 = 0 ∧
  State.reset.slotRead 1 0 0x200000 = 0x0102 + 0x0201 * 2 ^ 32 ∧ State.reset.slotRead 1 0 0x200008 = 0x0103 + 0x0301 * 2 ^ 32 ∧
  State.reset.slotRead 1 0 0x200010 = 0x0110 + 0x1001 * 2 ^ 32 ∧ (∀ n, n < 29 → State.reset.slotRead 1 0 (0x200018 + 8 * n) = 0) ∧
  (∀ t n, (State.reset.tile t).thread n = {} ∧ (State.reset.tile t).mem = []) ∧ (∀ n, State.reset.tset n = {}) ∧
  (∀ c, State.reset.ctx c = {}) ∧ (∀ p, mget 0 State.reset.syu.counters p = 0) ∧ (∀ a, memByte State.reset.hbm.mem a = 0) ∧
  State.reset.pending = [] ∧ State.reset.xsends = [] ∧ State.reset.syu.inbound = [] ∧ State.reset.outbox = []

/-- R405: each lane of the result of ADD. -/
def Obligations.DrfAddLanes : Prop :=
  ∀ (r : Nat) (a b : List (Nat × Bool)) (l j : Nat), l < 2 * cCount r → j < 8 →
    let lane (xs : List (Nat × Bool)) := bits (xs.getD l (0, false)).1 (64 * j) 64
    let x := lane a
    let y := lane b
    let z := lane (addOut r a b).lines
    let sum := sext 64 x + sext 64 y
    (x = 2 ^ 63 ∨ y = 2 ^ 63 → z = 2 ^ 63) ∧
    (x ≠ 2 ^ 63 → y ≠ 2 ^ 63 → sum < -(2 ^ 63 - 1) ∨ 2 ^ 63 - 1 < sum → z = 2 ^ 63 ∧ 0 < (addOut r a b).noted) ∧
    (x ≠ 2 ^ 63 → y ≠ 2 ^ 63 → -(2 ^ 63 - 1) ≤ sum → sum ≤ 2 ^ 63 - 1 → sext 64 z = sum)

/-- R457: who may write and who may read the registers of a mailbox channel. -/
def Obligations.MailboxAccessRules : Prop :=
  ∀ (s : State) (m n : Nat), n < 64 → isMaster m = true → s.claims m = true → (m = 3 → s.pln.slot ≠ 0) → s.isOn 0 = true →
    let x := s.chan n
    let base := 0x201000 + 0x100 * n
    let refused (off v : Nat) := exec (.registerWrite m 0 off 4 v) s = .next ((s.access m off).setChan n { x with denied := true })
    (x.sender ≠ m → (∀ i v, i < 16 → refused (base + 4 * i) v) ∧ (∀ v, refused (base + 0x40) v) ∧ (∀ v, refused (base + 0x58) v)) ∧
    (x.receiver ≠ m → ∀ v, refused (base + 0x50) v) ∧
    (x.sender ≠ m → x.receiver ≠ m → ∀ i, i < 32 → s.slotRead m 0 (base + 8 * i) = 0) ∧
    (0x11 ≤ m → (x.sender = m ∨ x.receiver = m → s.slotRead m 0 (base + 0x58) = x.timeoutMs % 2 ^ 32) ∧
      ∀ i, i < 64 → s.slotRead m 0 (0x200000 + 8 * i) = 0)

/-- R119: the accumulator blocks of a tile set that enters Running. The premises on the queues and the groups hold in every state that a run
reaches: queue descriptors without an uncorrectable error, ring headers in powered lines that messages may use, groups of one context. -/
def Obligations.RunningClearsAccumulators : Prop :=
  ∀ (s : State) (c : Nat), c < 16 → (s.ctx c).st = .loading → (s.ctx c).admitSt = .loading → s.pln.fatal = false →
    (∀ k, k < 7 → (s.binding k c).st = 0 ∨ (s.binding k c).st = 2) → s.loadCheck c = none → mwf {} s.rmn.queues = true →
    (∀ n, mget none s.rmn.badQueues n ≠ some true) →
    (∀ n, let q := s.queue n; q.ownerKind = 0 → q.ctx < 16 →
      (s.tile q.tile).powered (gOff q.addr / 64) = true ∧ (s.tile q.tile).mrx (gOff q.addr / 64) = true) →
    (∀ n, (s.tset n).owner < 16 → (s.tset n).group ∈ (s.ctx c).groups → (s.tset n).owner = c) →
    ∃ t, exec (.loadingComplete c) s = .next t ∧
      ∀ n j b, n < 120 → (s.tset n).owner = c → j < 48 → b < 16 →
        let x := (t.tile (48 * n + j)).block b
        (t.tset n).st = .running ∧ x.f32mode = false ∧ x.touched = false ∧
          ∀ e, e < 256 → (mget {} x.ea e).v = 0 ∧ (mget {} x.ea e).wset = false ∧ (mget {} x.ea e).sticky = false ∧ (mget {} x.ea e).cls = 0

/-- R80: LDK loads a count and checks it against its maximum. -/
def Obligations.LdkChecksMaximum : Prop :=
  ∀ (s : State) (tile th : Nat) (w : BitVec 128), s.goes (.ldk tile th w) tile th w ldkSpec = true → (s.tile tile).shadow = none →
    mwf {} s.tiles = true → mwf {} (s.tile tile).threads = true →
    let u := s.issueState tile th
    let o := s.opOf tile th w
    let v := memRead (s.tile tile).mem o.a 4
    (v ≤ wImm o.w → s.calm tile = true → ∃ t, exec (.ldk tile th w) s = .next t ∧ (t.regs o).getK (wOpd o.w) = v) ∧
    (wImm o.w < v → ∃ t, exec (.ldk tile th w) s = .next t ∧ (∀ k, (t.regs o).getK k = (u.regs o).getK k) ∧
      t = (u.modThread tile th fun x => { x with stopped := true, inFill := o.fill }).raise
        { code := 0x0107, ctxFatal := true, locValid := true, ctx := s.tileCtx tile, tile := tile, superstep := s.superstepOf tile,
          opIndex := o.idx, detail := v })

/-- R22, R109: the first register of a site's window. -/
def Obligations.TileIdent : Prop :=
  ∀ (s : State) (m core p : Nat), p < 6144 → m = 1 ∨ m = 2 ∨ m = 0x10 → s.isOn (6 + p % 96 / 8) = true →
    let off := 0x1000000 + 0x1000 * p
    (∀ t, s.pln.logicalAt p = some t → t < 5760 → s.slotRead m core off = p + t * 2 ^ 16) ∧
    (s.pln.logicalAt p = none → s.slotRead m core off = p + 0x1FFF * 2 ^ 16) ∧
    (∀ v, s.claims m = true → core < 16 → ∃ t, exec (.registerWrite m core off 4 v) s = .next t ∧ t.slotRead m core off = s.slotRead m core off)

/-- R592: what PLN_VERSION reads, and that no write changes it. -/
def Obligations.VersionRegister : Prop :=
  ∀ (s : State) (m core : Nat), isMaster m = true → s.claims m = true → (m = 3 → s.pln.slot ≠ 0) → core < 16 → s.isOn 0 = true →
    s.pln.running.svn < 2 ^ 5 → s.pln.running.minor < 2 ^ 8 → s.pln.running.build < 2 ^ 16 →
    let x := s.slotRead m core 8
    bits x 0 5 = s.pln.running.svn ∧ bits x 5 3 = 0 ∧ bits x 8 8 = s.pln.running.minor ∧ bits x 16 16 = s.pln.running.build ∧
      ∀ v, ∃ t, exec (.registerWrite m core 8 4 v) s = .next t ∧ t.slotRead m core 8 = x

/-- R65, R66, R74, R78: the operations of classes CTRL, PRED and ADDR that only use registers. -/
def Obligations.RegisterOperations : Prop :=
  ∀ (s : State) (tile th : Nat) (w : BitVec 128), s.calm tile = true →
    let u := s.issueState tile th
    let o := s.opOf tile th w
    let r := u.regs o
    let d := wOpd o.w
    (s.goes (.nop tile th w) tile th w nopSpec = true → ∃ t, exec (.nop tile th w) s = .next t ∧
      RegsOnly u t o ∧ RegFrame r (t.regs o) [] [] []) ∧
    (s.goes (.setk tile th w) tile th w setkSpec = true → ∃ t, exec (.setk tile th w) s = .next t ∧
      RegsOnly u t o ∧ RegFrame r (t.regs o) [] [d] [] ∧ (t.regs o).getK d = wImm o.w) ∧
    (s.goes (.pseti tile th w) tile th w psetiSpec = true → ∃ t, exec (.pseti tile th w) s = .next t ∧
      RegsOnly u t o ∧ RegFrame r (t.regs o) [] [] [d] ∧
      (t.regs o).getP d = if d = 0 then true else bit (wLen o.w) 0) ∧
    (s.goes (.psetk tile th w) tile th w psetkSpec = true → ∃ t, exec (.psetk tile th w) s = .next t ∧
      RegsOnly u t o ∧ RegFrame r (t.regs o) [] [] [d] ∧
      (t.regs o).getP d = if d = 0 then true else cmpFmt (wFmt o.w) (r.getK (wOpa o.w)) (wLen o.w)) ∧
    (s.goes (.plog tile th w) tile th w plogSpec = true → ∃ t, exec (.plog tile th w) s = .next t ∧
      RegsOnly u t o ∧ RegFrame r (t.regs o) [] [] [d] ∧
      (t.regs o).getP d = if d = 0 then true else plogOp (wFmt o.w) (r.getP (wOpa o.w)) (r.getP (wOpb o.w))) ∧
    (s.goes (.pstat tile th w) tile th w pstatSpec = true → ∃ t, exec (.pstat tile th w) s = .next t ∧
      RegsOnly u t o ∧ RegFrame r (t.regs o) [] [] [d] ∧
      (t.regs o).getP d = if d = 0 then true else r.flags.get (wAux o.w)) ∧
    (s.goes (.ali tile th w) tile th w aliSpec = true → ∃ t, exec (.ali tile th w) s = .next t ∧
      RegsOnly u t o ∧ RegFrame r (t.regs o) [d] [] [] ∧
      (t.regs o).getA d = if d = 0 then 0 else bits o.w 56 56) ∧
    (s.goes (.aadd tile th w) tile th w aaddSpec = true → ∃ t, exec (.aadd tile th w) s = .next t ∧
      RegsOnly u t o ∧ RegFrame r (t.regs o) [d] [] [] ∧
      ((t.regs o).getA d : Int) = if d = 0 then 0 else ((r.getA (wOpa o.w) : Int) + sext 24 (wImm o.w)) % 2 ^ 56) ∧
    (s.goes (.aaddk tile th w) tile th w aaddkSpec = true → ∃ t, exec (.aaddk tile th w) s = .next t ∧
      RegsOnly u t o ∧ RegFrame r (t.regs o) [d] [] [] ∧
      (t.regs o).getA d = if d = 0 then 0 else (r.getA (wOpa o.w) + r.getK (wOpb o.w) * wImm o.w) % 2 ^ 56)

/-- R71, R74, R78, R80: the operations of those classes that read or write tile memory, and LOOP. Which value stays where OPA of an LDA is POSTINC on
the register that it loads, and that STA stores its register before OPD advances it, are the model's choices (log entry 167). -/
def Obligations.MemoryRegisterOperations : Prop :=
  ∀ (s : State) (tile th : Nat) (w : BitVec 128), s.calm tile = true →
    let u := s.issueState tile th
    let o := s.opOf tile th w
    let r := u.regs o
    let d := wOpd o.w
    let word (n : Nat) := memRead (s.tile tile).mem o.a n
    let posted (f n : Nat) (r' : RegSet) := fPost f = true → fReg f ≠ 0 → r'.getA (fReg f) = (r.getA (fReg f) + n) % 2 ^ 56
    (s.goes (.ldk tile th w) tile th w ldkSpec = true → word 4 ≤ wImm o.w → ∃ t, exec (.ldk tile th w) s = .next t ∧
      RegsOnly u t o ∧ RegFrame r (t.regs o) (o.posted (ldkSpec.accs u o)) [d] [] ∧
      (t.regs o).getK d = word 4 ∧ posted (wOpa o.w) 4 (t.regs o)) ∧
    (s.goes (.psetm tile th w) tile th w psetmSpec = true → ∃ t, exec (.psetm tile th w) s = .next t ∧
      RegsOnly u t o ∧ RegFrame r (t.regs o) (o.posted (psetmSpec.accs u o)) [] [d] ∧
      (t.regs o).getP d = (if d = 0 then true else cmpFmt (wFmt o.w) (word 4) (wLen o.w)) ∧ posted (wOpa o.w) 4 (t.regs o)) ∧
    (s.goes (.lda tile th w) tile th w ldaSpec = true → bits (word 8) 56 8 = 0 → ∃ t, exec (.lda tile th w) s = .next t ∧
      RegsOnly u t o ∧ RegFrame r (t.regs o) (o.posted (ldaSpec.accs u o) ++ [d]) [] [] ∧
      (t.regs o).getA d = (if d = 0 then 0 else word 8) ∧ (fReg (wOpa o.w) ≠ d → posted (wOpa o.w) 8 (t.regs o))) ∧
    (s.goes (.sta tile th w) tile th w staSpec = true → ∃ t, exec (.sta tile th w) s = .next t ∧
      StoresOnly u t o o.d 8 ∧ RegFrame r (t.regs o) (o.posted (staSpec.accs u o)) [] [] ∧
      memRead (t.tile tile).mem o.d 8 = r.getA (wOpa o.w) ∧ posted (wOpd o.w) 8 (t.regs o)) ∧
    (s.goes (.stk tile th w) tile th w stkSpec = true → ∃ t, exec (.stk tile th w) s = .next t ∧
      StoresOnly u t o o.d 4 ∧ RegFrame r (t.regs o) (o.posted (stkSpec.accs u o)) [] [] ∧
      memRead (t.tile tile).mem o.d 4 = r.getK (wOpa o.w) ∧ posted (wOpd o.w) 4 (t.regs o)) ∧
    (s.goes (.loop tile th w) tile th w loopSpec = true → ∃ t, exec (.loop tile th w) s = .next t ∧
      RegsOnly u t o ∧ RegFrame r (t.regs o) [] [] [] ∧
      (r.getK d ≠ 0 → (t.regs o).pos = o.idx + 1 ∧
        (t.regs o).loops = { ctr := d, start := o.idx + 1, stop := o.idx + 1 + wLen o.w, looped := false, nested := false } ::
          r.loops.map fun l => { l with nested := true }) ∧
      (r.getK d = 0 → r.loops = [] → (t.regs o).pos = o.idx + 1 + wLen o.w ∧ (t.regs o).loops = []))

/-- R75, R84, R88, R107, R207: an operation that something keeps from issuing waits; what one that fails a check does, for each check in
its order. -/
def Obligations.TileOperationChecks : Prop :=
  ∀ (s : State) (c : Instr) (tile th : Nat) (w : BitVec 128) (sp : OpSpec), opSpecOf c = some (tile, th, w, sp) →
    c.wf = true → s.issues tile th = true →
    let u := s.issueState tile th
    let o := s.opOf tile th w
    (u.regs o).ready o.w = true →
    (∀ l, u.fetchLineOf o = (l, true) → ∀ k, (u.tile tile).checkLines tile th (64 * l) 1 64 false false true = some k →
      exec c s = .next (u.opFault o k)) ∧
    (u.fetchOk o = true →
      let executes := (sp.enc u o).always || (u.regs o).executes o.w
      (executes = true → sp.hold u o = true → (s.tile tile).shadow = none → exec c s = .next s) ∧
      ((executes && sp.hold u o) = false →
        (∀ n, encReason (sp.enc u o) o.w = some n → exec c s = .next (u.opFault o ⟨0x0101, noAddr, n⟩)) ∧
        (encReason (sp.enc u o) o.w = none →
          (sp.isLoop = true → ∀ k, sp.own u o = some k → exec c s = .next (u.opFault o k)) ∧
          (sp.isLoop = false → executes = true →
            (∀ k, u.checkAccs o (sp.accs u o) = some k → exec c s = .next (u.opFault o k)) ∧
            (u.checkAccs o (sp.accs u o) = none → ∀ k, sp.own u o = some k → exec c s = .next (u.opFault o k)) ∧
            (u.checkAccs o (sp.accs u o) = none → sp.own u o = none → (u.tile tile).pendingLines = [] →
              (∀ l, (u.tile tile).firstBad o (sp.accs u o) = some l → exec c s = .next (u.detect tile (o.det .parity l))) ∧
              ((u.tile tile).firstBad o (sp.accs u o) = none → ∀ l k, (u.tile tile).firstPoison o (sp.accs u o) = some (l, k) →
                exec c s = .next (u.opFault o ⟨0x0901, tileAddr tile (64 * l), l + k * 2 ^ 15⟩)))))))

/-- R76, R77: an operation whose predicate does not let it execute only moves the position; LOOP moves it behind its body. -/
def Obligations.TileOperationNotExecuted : Prop :=
  ∀ (s : State) (c : Instr) (tile th : Nat) (w : BitVec 128) (sp : OpSpec), opSpecOf c = some (tile, th, w, sp) →
    c.wf = true → s.issues tile th = true → s.calm tile = true →
    let u := s.issueState tile th
    let o := s.opOf tile th w
    let r := u.regs o
    r.ready o.w = true → u.fetchOk o = true → encReason (sp.enc u o) o.w = none →
    ((sp.enc u o).always || r.executes o.w) = false → (sp.isLoop = true → sp.own u o = none) →
    ∃ t, exec c s = .next t ∧ RegsOnly u t o ∧ RegFrame r (t.regs o) [] [] [] ∧
      (r.loops = [] → (t.regs o).pos = o.idx + (if sp.isLoop then 1 + wLen o.w else 1))

/-- An operation that its thread does not issue now leaves the block as it was (the model's choice, log entry 2). -/
def Obligations.TileOperationTurnedAway : Prop :=
  ∀ (s : State) (c : Instr) (tile th : Nat) (w : BitVec 128) (sp : OpSpec), opSpecOf c = some (tile, th, w, sp) →
    c.wf = true →
    (s.issues tile th = false ∨
      (s.tile tile).shadow = none ∧ ((s.issueState tile th).regs (s.opOf tile th w)).ready w.toNat = false) →
    exec c s = .next s

/-- R74, R482: MOVL and ZERO write whole lines of tile memory with their poison marks, and nothing else. A MOVL onto lines behind its first
source line repeats the lines between the two, as ascending order makes it. -/
def Obligations.LineOperations : Prop :=
  ∀ (s : State) (tile th : Nat) (w : BitVec 128), s.calm tile = true →
    let u := s.issueState tile th
    let o := s.opOf tile th w
    let r := u.regs o
    (s.goes (.movl tile th w) tile th w movlSpec = true → ∃ t, exec (.movl tile th w) s = .next t ∧
      StoresOnly u t o o.d (64 * wLen o.w) ∧ RegFrame r (t.regs o) (o.posted (movlSpec.accs u o)) [] [] ∧
      (o.d ≤ o.a ∨ o.a + 64 * wLen o.w ≤ o.d → ∀ j, j < wLen o.w →
        (t.tile tile).line (o.d / 64 + j) = (s.tile tile).line (o.a / 64 + j) ∧
        (t.tile tile).poisoned (o.d / 64 + j) = (s.tile tile).poisoned (o.a / 64 + j)) ∧
      (o.a < o.d → o.d < o.a + 64 * wLen o.w → ∀ j, j < wLen o.w →
        (t.tile tile).line (o.d / 64 + j) = (s.tile tile).line (o.a / 64 + j % ((o.d - o.a) / 64)) ∧
        (t.tile tile).poisoned (o.d / 64 + j) = (s.tile tile).poisoned (o.a / 64 + j % ((o.d - o.a) / 64)))) ∧
    (s.goes (.zero tile th w) tile th w zeroSpec = true → ∃ t, exec (.zero tile th w) s = .next t ∧
      StoresOnly u t o o.d (64 * wLen o.w) ∧ RegFrame r (t.regs o) (o.posted (zeroSpec.accs u o)) [] [] ∧
      ∀ j, j < wLen o.w → (t.tile tile).line (o.d / 64 + j) = 0 ∧ (t.tile tile).poisoned (o.d / 64 + j) = false)

/-- R82, R103: HRD and HWR send their accesses to HBM, and no byte of a memory changes yet; a rerun suppresses HWR. -/
def Obligations.HbmOperations : Prop :=
  ∀ (s : State) (tile th : Nat) (w : BitVec 128), s.calm tile = true → (s.tile tile).shadow = none →
    let u := s.issueState tile th
    let o := s.opOf tile th w
    let r := u.regs o
    let op (kind : MemOpKind) (write : Bool) : MemOp :=
      { id := s.nextId, kind := kind, src := .tile tile, ctx := o.ctx, write := write, left := wLen o.w, refused := none, meshBad := false }
    (s.goes (.hrd tile th w) tile th w hrdSpec = true → ∃ t, exec (.hrd tile th w) s = .next t ∧
      RegsOnly u { t with hbm := s.hbm, nextId := s.nextId } o ∧
      RegFrame r ((t.regs o).setBusy (wTkt o.w) false) (o.posted (hrdSpec.accs u o)) [] [] ∧ (t.regs o).busy (wTkt o.w) = true ∧
      t.nextId = s.nextId + 1 + wLen o.w ∧
      t.hbm = { s.hbm with
        ops := s.hbm.ops ++ [op (.hrd o.who (o.d / 64)) false]
        accs := s.hbm.accs ++ accessList s.stampNow (.tile tile) o.ctx s.nextId false false (s.nextId + 1) 0 o.a (List.replicate (wLen o.w) (0, false)) }) ∧
    (s.goes (.hwr tile th w) tile th w hwrSpec = true → (u.thread tile th).suppressOut = 0 ∨ o.fill = true →
      ∃ t, exec (.hwr tile th w) s = .next t ∧ RegsOnly u { t with hbm := s.hbm, nextId := s.nextId } o ∧
      RegFrame r ((t.regs o).setBusy (wTkt o.w) false) (o.posted (hwrSpec.accs u o)) [] [] ∧ (t.regs o).busy (wTkt o.w) = true ∧
      t.nextId = s.nextId + 1 + wLen o.w ∧
      t.hbm = { s.hbm with
        ops := s.hbm.ops ++ [op (.hwr o.who) true]
        accs := s.hbm.accs ++ accessList s.stampNow (.tile tile) o.ctx s.nextId true false (s.nextId + 1) 0 o.d ((s.tile tile).lines (o.a / 64) (wLen o.w)) }) ∧
    (s.goes (.hwr tile th w) tile th w hwrSpec = true → o.fill = false → ∀ n, (u.thread tile th).suppressOut = n + 1 →
      ∃ t, exec (.hwr tile th w) s = .next t ∧ RegsOnly u t o ∧
      RegFrame r (t.regs o) (o.posted (hwrSpec.accs u o)) [] [] ∧ (t.thread tile th).suppressOut = n)

/-- R124, R130 to R145: the operations of the matrix engine, each while the residues of the block that it reads are right and no
mismatch waits in a stage that it runs (R147; which operation runs which stage is the model's reading, log entry 145). The order of CLASS and
STICKY of a saved entry that is added, and the W that is saved of an entry whose WSET is clear, are its choices (log entries 183 and 184). -/
def Obligations.MatrixOperations : Prop :=
  ∀ (s : State) (tile th : Nat) (w : BitVec 128), s.calm tile = true →
    let u := s.issueState tile th
    let o := s.opOf tile th w
    let r := u.regs o
    let x := s.tile tile
    let d := mxeBlock o (wOpd o.w)
    let a := mxeBlock o (wOpa o.w)
    let fmt := wFmt o.w
    let rnd : Rnd := if bit (wAux o.w) 0 then .rtz else .rne
    let agrees (n : Nat) := (x.block n).sound = true
    let idle (stages : List Nat) := ∀ k, x.err.mxeUpset = some k → k ∉ stages
    (s.goes (.mzero tile th w) tile th w mzeroSpec = true → ∃ t, exec (.mzero tile th w) s = .next t ∧
      EngineFrame u t o [] [d] [] [] ∧ RegFrame r (t.regs o) [] [] [] ∧ (t.tile tile).block d = mzeroBlock fmt (wLen o.w)) ∧
    (s.goes (.mma tile th w) tile th w mmaSpec = true → agrees d → idle (if fmt < 10 then stagesEa else stagesF32) →
      ∃ t, exec (.mma tile th w) s = .next t ∧
      EngineFrame u t o [] [d] [] [] ∧
      (t.tile tile).block d = { mmaBlocks x fmt (wAux o.w) o.a o.b (wLen o.w) 0 (x.block d) with touched := true } ∧
      RegFrame { r with flags := (t.regs o).flags } (t.regs o) (o.posted (mmaSpec.accs u o)) [] [] ∧
      (t.regs o).flags = r.flags.apply (accFlags ((t.tile tile).block d))) ∧
    (s.goes (.msf64 tile th w) tile th w msf64Spec = true → agrees d → idle stagesSf64 → ∃ t, exec (.msf64 tile th w) s = .next t ∧
      EngineFrame u t o [] [d] [] [] ∧
      (t.tile tile).block d = { msf64Blocks x o.a o.b (wLen o.w) 0 (x.block d) with touched := true } ∧
      RegFrame { r with flags := (t.regs o).flags } (t.regs o) (o.posted (msf64Spec.accs u o)) [] [] ∧
      (t.regs o).flags = r.flags.apply (accFlags ((t.tile tile).block d))) ∧
    (s.goes (.mrd tile th w) tile th w mrdSpec = true → agrees a → idle stagesRead → ∃ t, exec (.mrd tile th w) s = .next t ∧
      EngineFrame u t o [(o.d, 64 * wLen o.w)] [a] [] [] ∧
      (t.tile tile).holds (o.d / 64) ((chunks (64 / mrdSize fmt) (4 * mrdSize fmt)
        ((List.range 256).map fun n => (mrdOut fmt rnd ((x.block a).value n)).bits)).map fun xs => (packElems (8 * mrdSize fmt) xs, false)) ∧
      (t.tile tile).block a = (if bit (wAux o.w) 1 then mzeroBlock (if (x.block a).f32mode then 2 else 0) 0 else x.block a) ∧
      RegFrame { r with flags := (t.regs o).flags } (t.regs o) (o.posted (mrdSpec.accs u o)) [] [] ∧
      (t.regs o).flags.empty = !(x.block a).touched ∧ (t.regs o).flags.inexact = (x.block a).anySticky) ∧
    (s.goes (.msave tile th w) tile th w msaveSpec = true → agrees a → idle stagesMove → ∃ t, exec (.msave tile th w) s = .next t ∧
      EngineFrame u t o [(o.d, 5120)] [] [] [] ∧ (t.tile tile).holds (o.d / 64) (x.block a).save ∧
      RegFrame r (t.regs o) (o.posted (msaveSpec.accs u o)) [] []) ∧
    (s.goes (.mrestore tile th w) tile th w mrestoreSpec = true → (bit (wAux o.w) 0 = true → agrees d) →
      idle (if bit (wAux o.w) 0 then (x.block d).stagesAdd else stagesMove) → ∃ t, exec (.mrestore tile th w) s = .next t ∧
      EngineFrame u t o [] [d] [] [] ∧
      (t.tile tile).block d = (if bit (wAux o.w) 0 then { (x.block d).addSaved (memRead x.mem o.a 5120) with touched := true }
        else (x.block d).load (memRead x.mem o.a 5120)) ∧
      RegFrame { r with flags := (t.regs o).flags } (t.regs o) (o.posted (mrestoreSpec.accs u o)) [] [] ∧
      (t.regs o).flags = (if bit (wAux o.w) 0 then r.flags.apply (accFlags ((t.tile tile).block d)) else r.flags))

/-- R161 to R178: element-wise arithmetic, conversions and reductions, each while no mismatch waits in a stage of the vector engine that
it runs, the residues of the norm accumulator that it updates are right, and no operand-cache entry with wrong parity waits to be
detected (R160, R196, R197). The stages of an operation are the model's reading (log entry 145), and so is that every source is read before
anything is written (24); zeros in bytes 16 to 63 of the scale line that VCVT writes are its choice (137). -/
def Obligations.VectorOperations : Prop :=
  ∀ (s : State) (tile th : Nat) (w : BitVec 128), s.calm tile = true → (s.tile tile).err.badCache = [] →
    let u := s.issueState tile th
    let o := s.opOf tile th w
    let r := u.regs o
    let x := s.tile tile
    let idle (stages : List Nat) := ∀ k, x.err.vxeUpset = some k → k ∉ stages
    let agrees (norms : List Nat) := ∀ n ∈ norms, (mget {} x.norms n).sound = true
    let c := bits (wFmt o.w) 0 2
    let n := wLen o.w
    let xa := x.vsrc o (bit (wFmt o.w) 2) (wOpa o.w) o.a c n
    let xb := x.vsrc o (bit (wFmt o.w) 3) (wOpb o.w) o.b c n
    let fn := bits (wAux o.w) 0 4
    let acc := bits (wAux o.w) 5 2
    let written (outs : List Nat) (t : State) (posted : List Nat) :=
      EngineFrame u t o [(o.d, 64 * n)] [] [] (if bit (wAux o.w) 4 then [4 * th + acc % 4] else []) ∧
      (t.tile tile).holds (o.d / 64) (vLines c n outs) ∧
      (bit (wAux o.w) 4 = true → (t.tile tile).norm o acc = (x.norm o acc).taps 0 (outs.map (decodeF (vFmt c)))) ∧
      RegFrame { r with flags := (t.regs o).flags } (t.regs o) posted [] [] ∧
      (t.regs o).flags = { r.flags with nonfinite := (outs.map (vElem c)).any fun e => e.nonfin }
    (s.goes (.vew tile th w) tile th w vewSpec = true → agrees (tapNorms o) → idle (stagesVew o) → ∃ t, exec (.vew tile th w) s = .next t ∧
      written (List.zipWith (fun a b => vEnc c (vewFn fn a b)) xa (if fn < 6 then xb else xa)) t (o.posted (vewSpec.accs u o))) ∧
    (s.goes (.vfma tile th w) tile th w vfmaSpec = true → agrees (tapNorms o) → idle (stagesVfma o) → ∃ t, exec (.vfma tile th w) s = .next t ∧
      written (List.zipWith (fun ab d => vEnc c (vfmaFn (bit (wAux o.w) 0) ab.1 ab.2 d)) (xa.zip xb) (x.velems c (o.d / 64) n)) t
        (o.posted (vfmaSpec.accs u o))) ∧
    (s.goes (.vcvt tile th w) tile th w vcvtSpec = true → idle (stagesVcvt o) → ∃ t, exec (.vcvt tile th w) s = .next t ∧
      EngineFrame u t o [(o.d, 64 * (n * vcLines fn (bit (wAux o.w) 7)))] []
        (if bits (wAux o.w) 4 2 = 2 then [cacheNo o (wOpb o.w)] else []) [] ∧
      (t.tile tile).holds (o.d / 64) (vcvtLines fn (vcvtUnits x o)) ∧
      RegFrame { r with flags := (t.regs o).flags } (t.regs o) (o.posted (vcvtSpec.accs u o)) [] [] ∧
      (t.regs o).flags = r.flags.apply (vcvtFlags (vcvtUnits x o)) ∧
      (bits (wAux o.w) 4 2 = 2 → (t.tile tile).entry (cacheNo o (wOpb o.w)) =
        setBits (x.entry (cacheNo o (wOpb o.w))) 96 32 ((gdBase (x.entry (cacheNo o (wOpb o.w))) + 512 * n) % 2 ^ 32))) ∧
    (s.goes (.vred tile th w) tile th w vredSpec = true → idle (stagesVred o) →
      let all := x.velems c (o.a / 64) n
      let kept := ((List.range all.length).zip all).filter fun e =>
        (decide (wOpb o.w = noneForm) || bit (memRead x.mem o.b (64 * maskLines all.length)) e.1) &&
        (!bit (wAux o.w) 6 || decide (e.1 < o.pre.getK (bits (wAux o.w) 3 3)))
      let vqi := vredValue (bits (wAux o.w) 0 3) (vArith c) (if c = 1 then 4 else 16) kept
      ∃ t, exec (.vred tile th w) s = .next t ∧ EngineFrame u t o [(o.d, 64)] [] [] [] ∧
      (t.tile tile).holds (o.d / 64) [(enc (vArith c) vqi.1 + (if bits (wAux o.w) 0 3 = 7 then enc (vArith c) vqi.2.1 else 0) * 2 ^ 64 +
        vqi.2.2 * 2 ^ 128 + kept.length * 2 ^ 160 + (b2n kept.isEmpty + 2 * b2n (kept.any fun e => e.2.nonFinite)) * 2 ^ 192, false)] ∧
      RegFrame { r with flags := (t.regs o).flags } (t.regs o) (o.posted (vredSpec.accs u o)) [] [] ∧
      (t.regs o).flags = { r.flags with empty := kept.isEmpty, nonfinite := vqi.1.nonFinite || vqi.2.1.nonFinite })

/-- R159, R179 to R192: norm accumulators, the Grain generator and the operand cache, under the same conditions. -/
def Obligations.NormGrainCacheOperations : Prop :=
  ∀ (s : State) (tile th : Nat) (w : BitVec 128), s.calm tile = true → (s.tile tile).err.badCache = [] →
    let u := s.issueState tile th
    let o := s.opOf tile th w
    let r := u.regs o
    let x := s.tile tile
    let idle (stages : List Nat) := ∀ k, x.err.vxeUpset = some k → k ∉ stages
    let n := wLen o.w
    let acc := x.norm o (wAux o.w)
    let no := 4 * th + wAux o.w % 4
    let e := cacheNo o (wOpb o.w)
    (s.goes (.vnormAcc tile th w) tile th w vnormAccSpec = true → acc.sound = true → idle stagesAcc → ∃ t, exec (.vnormAcc tile th w) s = .next t ∧
      EngineFrame u t o [] [] [] [no] ∧
      (t.tile tile).norm o (wAux o.w) = acc.taps 0 (x.velems (bits (wFmt o.w) 2 2) (o.a / 64) n) ∧
      RegFrame r (t.regs o) (o.posted (vnormAccSpec.accs u o)) [] []) ∧
    (s.goes (.vnormRead tile th w) tile th w vnormReadSpec = true → acc.sound = true → idle stagesNormRead → ∃ t, exec (.vnormRead tile th w) s = .next t ∧
      EngineFrame u t o [(o.d, 64)] [] [] [no] ∧ (t.tile tile).norm o (wAux o.w) = {} ∧
      (t.tile tile).holds (o.d / 64)
        [(enc fp64 acc.sum + acc.count * 2 ^ 64 + (b2n (decide (acc.count = 0)) + 2 * b2n acc.nonfinite) * 2 ^ 128, false)] ∧
      RegFrame { r with flags := (t.regs o).flags } (t.regs o) (o.posted (vnormReadSpec.accs u o)) [] [] ∧
      (t.regs o).flags = { r.flags with empty := decide (acc.count = 0), nonfinite := acc.sum.nonFinite }) ∧
    (s.goes (.vnormClear tile th w) tile th w vnormClearSpec = true → ∃ t, exec (.vnormClear tile th w) s = .next t ∧
      EngineFrame u t o [] [] [] [no] ∧ (t.tile tile).norm o (wAux o.w) = {} ∧ RegFrame r (t.regs o) [] [] []) ∧
    (s.goes (.vgrn tile th w) tile th w vgrnSpec = true → idle (stagesVgrn o) → ∃ t, exec (.vgrn tile th w) s = .next t ∧
      EngineFrame u t o [(o.d, 64 * n)] [] [e] [] ∧ (t.tile tile).holds (o.d / 64) (vgrnLines x o (x.entry e)) ∧
      (t.tile tile).entry e = setBits (x.entry e) 96 32 ((gdBase (x.entry e) + vgrnCount o) % 2 ^ 32) ∧
      RegFrame r (t.regs o) (o.posted (vgrnSpec.accs u o)) [] []) ∧
    (s.goes (.vocl tile th w) tile th w voclSpec = true → ∃ t, exec (.vocl tile th w) s = .next t ∧
      EngineFrame u t o [] [] ((List.range n).map fun j => cacheNo o (wOpd o.w) + j) [] ∧
      (∀ j, j < n → (t.tile tile).entry (cacheNo o (wOpd o.w) + j) = x.line (o.a / 64 + j)) ∧
      RegFrame r (t.regs o) (o.posted (voclSpec.accs u o)) [] []) ∧
    (s.goes (.vocs tile th w) tile th w vocsSpec = true → ∃ t, exec (.vocs tile th w) s = .next t ∧
      EngineFrame u t o [(o.d, 64 * n)] [] [] [] ∧
      (t.tile tile).holds (o.d / 64) ((List.range n).map fun j => (x.entry (cacheNo o (wOpa o.w) + j), false)) ∧
      RegFrame r (t.regs o) (o.posted (vocsSpec.accs u o)) [] [])

/-- R182 to R186, R194, R207, R216: VOPT, under the same conditions. It writes weights and state only while its gradients are finite and the
gate reads COMMIT or is off; with TAP it then adds to the norm accumulators n0 to n2. NONFINITE says whether a gradient, or a value written,
is not finite, and no other flag changes. A gradient that is not finite under COMMIT writes its record. That every source is read before any
line is written is the model's reading, log entry 24; the order of the writes of overlapping operands its choice, log entry 185; the stages
that VOPT runs its reading, log entry 145. -/
def Obligations.OptimiserUpdate : Prop :=
  ∀ (s : State) (tile th : Nat) (w : BitVec 128), s.calm tile = true → (s.tile tile).err.badCache = [] →
    s.goes (.vopt tile th w) tile th w voptSpec = true →
    let u := s.issueState tile th
    let o := s.opOf tile th w
    let r := u.regs o
    let x := s.tile tile
    (∀ k ∈ stagesVopt o, x.err.vxeUpset ≠ some k) → (∀ n ∈ optNorms o, (mget {} x.norms n).sound = true) →
    let n := wLen o.w
    let alg := bits (wFmt o.w) 0 2
    let h := hyperOf (x.entry (cacheNo o (bits (wAux o.w) 0 4)))
    let gs := (x.velems (if bit (wFmt o.w) 2 then 2 else 0) (o.a / 64) (optGradLines o)).map fun g => rnd fp32 (fMul h.gam g)
    let sc := if bit (wFmt o.w) 3 then 2 else 0
    let k := optMomentLines o
    let ms := x.velems sc (o.b / 64) k
    let vs := if alg = 1 then x.velems sc (o.b / 64 + k) k else ms
    let ws := x.velems 0 (o.d / 64) n
    let outs := List.zipWith (fun gw mv => optElem alg h gw.1 gw.2 mv.1 mv.2) (gs.zip ws) (ms.zip vs)
    let special := outs.any fun y => (decodeF (vFmt sc) (vEnc sc y.m)).nonFinite ||
      decide (alg = 1) && (decodeF (vFmt sc) (vEnc sc y.v)).nonFinite || (decodeF fp32 (vEnc 0 y.w)).nonFinite
    (gs.any FVal.nonFinite = false → x.gate = .commit ∨ x.gate = .off → ∃ t, exec (.vopt tile th w) s = .next t ∧
      EngineFrame u t o [(o.d, 64 * n), (o.b, 64 * optStateLines o)] [] []
        (if bit (wAux o.w) 4 then [4 * th, 4 * th + 1, 4 * th + 2] else []) ∧
      RegFrame { r with flags := (t.regs o).flags } (t.regs o) (o.posted (voptSpec.accs u o)) [] [] ∧
      (t.regs o).flags = { r.flags with nonfinite := special } ∧
      (bit (wAux o.w) 4 = true → (t.tile tile).norm o 0 = (x.norm o 0).taps 0 ws ∧ (t.tile tile).norm o 1 = (x.norm o 1).taps 0 gs ∧
        (t.tile tile).norm o 2 = (x.norm o 2).taps 0 (outs.map fun y => y.step)) ∧
      (t.tile tile).holds (o.b / 64)
        (vLines sc k (outs.map fun y => vEnc sc y.m) ++ (if alg = 1 then vLines sc k (outs.map fun y => vEnc sc y.v) else [])) ∧
      (o.d + 64 * n ≤ o.b ∨ o.b + 64 * optStateLines o ≤ o.d →
        (t.tile tile).holds (o.d / 64) (vLines 0 n (outs.map fun y => vEnc 0 y.w)))) ∧
    (gs.any FVal.nonFinite = false → x.gate = .skip → ∃ t, exec (.vopt tile th w) s = .next t ∧ EngineFrame u t o [] [] [] [] ∧
      RegFrame { r with flags := (t.regs o).flags } (t.regs o) (o.posted (voptSpec.accs u o)) [] [] ∧
      (t.regs o).flags = { r.flags with nonfinite := false }) ∧
    (gs.any FVal.nonFinite = true → x.gate ≠ .commit ∨ x.shadow ≠ none → ∃ t, exec (.vopt tile th w) s = .next t ∧
      EngineFrame u t o [] [] [] [] ∧
      RegFrame { r with flags := (t.regs o).flags } (t.regs o) (o.posted (voptSpec.accs u o)) [] [] ∧
      (t.regs o).flags = { r.flags with nonfinite := true }) ∧
    (∀ j, gs.findIdx? FVal.nonFinite = some j → x.gate = .commit → x.shadow = none →
      let line := o.a / 64 + j / vPer (if bit (wFmt o.w) 2 then 2 else 0)
      let noted := (u.noteThread tile th o.fill).raise { code := 0x0404, locValid := true, ctx := o.ctx, tile := tile
                                                         superstep := s.superstepOf tile, addr := tileAddr tile (64 * line), opIndex := o.idx
                                                         detail := x.gateStep % 2 ^ 32 }
      ∃ t, exec (.vopt tile th w) s = .next t ∧ EngineFrame noted t o [] [] [] [] ∧
      RegFrame { r with flags := (t.regs o).flags } (t.regs o) (o.posted (voptSpec.accs u o)) [] [] ∧
      (t.regs o).flags = { r.flags with nonfinite := true })

/-- R88, R89, R248: TBAR, HALT and EXPT. The thread stops behind the operation; when it is the last of the four to arrive, the
barrier opens, or the tile enters its exchange phase, or the threads disagree and BARRIER_MISMATCH is raised for each. That the exchange
of the superstep in which thread 0 halts is empty too is the model's choice, log entry 133. -/
def Obligations.BarrierOperations : Prop :=
  ∀ (s : State) (tile th : Nat) (w : BitVec 128),
    let o := s.opOf tile th w
    let x := s.tile tile
    let st (n : Nat) := (x.thread n).st
    let early := ∃ n, n < 4 ∧ n ≠ th ∧ (st n = .idle ∨ st n = .issuing)
    let behind := ∀ n, n < 4 → n ≠ th → st n = .atBarrier ∨ st n = .halted
    let leaving := ∀ n, n < 4 → n ≠ th → st n = .atExchange ∨ st n = .halted
    let here (c : Instr) (sp : OpSpec) (stop : ThreadSt) (named : Nat × Nat × Bool × Option Nat × Nat) (f : State → State) :=
      ∃ y, exec c s = .next (f y) ∧ ThreadStops s y o stop ∧ (y.tile tile).named = named ∧
        RegFrame (s.regs o) (y.regs o) (o.posted (sp.accs s o)) [] []
    let opens (y : State) := y.modTile tile fun t =>
      { t with threads := mvals {} (fun _ n => if n.st = .atBarrier then { n with st := .issuing } else n) t.threads }
    (s.goes (.tbar tile th w) tile th w tbarSpec = true →
      (early → here (.tbar tile th w) tbarSpec .atBarrier x.named id) ∧
      (behind → here (.tbar tile th w) tbarSpec .atBarrier x.named opens)) ∧
    (s.goes (.halt tile th w) tile th w haltSpec = true →
      (early → here (.halt tile th w) haltSpec .halted x.named id) ∧
      (behind → (∃ n, n < 4 ∧ n ≠ th ∧ st n = .atBarrier) → here (.halt tile th w) haltSpec .halted x.named opens) ∧
      (leaving → here (.halt tile th w) haltSpec .halted x.named fun y => y.enterExchange tile)) ∧
    (s.goes (.expt tile th w) tile th w exptSpec = true →
      let named := if th = 0 then (o.a, wLen o.w, bit (wAux o.w) 0, if wOpb o.w = noneForm then none else some o.b, o.idx) else x.named
      (early → here (.expt tile th w) exptSpec .atExchange named id) ∧
      (leaving → here (.expt tile th w) exptSpec .atExchange named fun y => y.enterExchange tile) ∧
      (x.shadow = none → (∀ n, n < 4 → n ≠ th → st n = .atBarrier) →
        here (.expt tile th w) exptSpec .atExchange named fun y =>
          let mismatch (n : Nat) : FaultRec :=
            { code := 0x010A, ctxFatal := true, locValid := true, ctx := s.tileCtx tile, tile := tile, superstep := s.superstepOf tile
              opIndex := ((y.tile tile).thread n).waitOp, detail := (15 - 2 ^ th) + 2 ^ th * 2 ^ 4 }
          ((List.range 4).foldl (fun z n => z.noteThread tile n false) y).raiseAll ((List.range 4).map mismatch))) ∧
    (x.shadow = none → x.cap = none → x.xLoaded = false → x.held = [] → x.fillList = none → x.fillNext = none →
      (st 0 = .halted ∨ x.xLen = 0 ∧ x.xFill = none) →
      ((s.enterExchange tile).tile tile).phase = .exchange ∧ ((s.enterExchange tile).tile tile).xList = [] ∧
      ((s.enterExchange tile).tile tile).xLoaded = true ∧
      ((s.enterExchange tile).tile tile).mem = x.mem ∧ ∀ n, ((s.enterExchange tile).tile tile).thread n = x.thread n)

/-- R318, R321 to R325, R333: the MSG operations, outside a rerun and a shadow run. What leaves the tile is one packet; LISTEN, CLOSE
and MPOP change the issuing tile's own queue, LISTEN and CLOSE behind what the tile sent to its own port before (the model's reading, log
entry 41); that a RELEASE whose ROUTE names no router sends nothing is the model's reading too, log entry 44. -/
def Obligations.MessageOperations : Prop :=
  ∀ (s : State) (tile th : Nat) (w : BitVec 128),
    (s.tile tile).shadow = none → (s.tile tile).cap = none → (s.thread tile th).suppressOut = 0 →
    (∀ n, mget none s.rmn.badQueues n = none) →
    let o := s.opOf tile th w
    let x := s.tile tile
    let h := x.line (o.a / 64)
    let regs (sp : OpSpec) (t : State) := RegsOnly s { t with rmn := s.rmn, nextId := s.nextId } o ∧
      RegFrame (s.regs o) (t.regs o) (o.posted (sp.accs s o)) [] []
    let ticket (sp : OpSpec) (t : State) := RegsOnly s { t with rmn := s.rmn, nextId := s.nextId } o ∧ (t.regs o).busy (wTkt o.w) = true ∧
      RegFrame (s.regs o) ((t.regs o).setBusy (wTkt o.w) false) (o.posted (sp.accs s o)) [] []
    let packet (dest c : Nat) (who : Option Who) (b : RmnBody) (t : State) := t.nextId = s.nextId + 1 ∧
      t.rmn = { s.rmn with items := s.rmn.items ++ [{ id := s.nextId, src := .tile tile, dest := dest, hostCmd := none, ctx := c,
                                                       who := who, kind := 0, body := b, stamp := s.stampNow }] }
    let sent (dest : Nat) (b : RmnBody) (t : State) := packet dest o.ctx (some o.who) b t
    let quiet (t : State) := t.nextId = s.nextId ∧ t.rmn = s.rmn
    let owns (n : Nat) (behind : Bool) := s.ownQueue o o.a = some n ∧ s.ownBehind tile (s.routeOf (s.queue n)) = behind
    let own (n : Nat) (f : Queue → Queue) (t : State) := t.nextId = s.nextId ∧
      t.rmn = { s.rmn with queues := mset {} s.rmn.queues n (f (s.queue n)) }
    let later (n : Nat) (who : Option Who) (chg : OwnChange) (t : State) :=
      packet (s.routeOf (s.queue n)) (s.queue n).ctx who (.own n chg) t
    (s.goes (.mopenConnect tile th w) tile th w mopenConnectSpec = true → ∃ t, exec (.mopenConnect tile th w) s = .next t ∧
      ticket mopenConnectSpec t ∧ sent (s.routeOfAddr o.a) (.connect o.a o.d) t) ∧
    (s.goes (.mopenListen tile th w) tile th w mopenListenSpec = true → ∃ n t, exec (.mopenListen tile th w) s = .next t ∧
      (owns n false ∧ regs mopenListenSpec t ∧ own n (fun q => { q with state := if q.state = 1 then 2 else q.state }) t ∨
        owns n true ∧ ticket mopenListenSpec t ∧ later n (some o.who) .listen t)) ∧
    (s.goes (.msend tile th w) tile th w msendSpec = true → ∃ t, exec (.msend tile th w) s = .next t ∧ ticket msendSpec t ∧
      (hValid h = true → hRoute h < 0x1840 →
        sent (hRoute h) (.message (hQueue h) (hRoute h) (hEpoch h) (x.lines (o.b / 64) (wLen o.w)) o.d) t) ∧
      (hValid h = false ∨ 0x1840 ≤ hRoute h → t.nextId = s.nextId + 1 ∧ t.rmn = { s.rmn with replies := s.rmn.replies ++
        [{ id := s.nextId, source := none, who := o.who, ctx := o.ctx, mopen := false, at_ := o.d, value := 7, result := 7, item := s.nextId
           stamp := s.stampNow }] })) ∧
    (s.goes (.mpop tile th w) tile th w mpopSpec = true → ∃ n t, exec (.mpop tile th w) s = .next t ∧ regs mpopSpec t ∧
      s.ownQueue o o.a = some n ∧ own n (fun q => { q with popped := q.popped + if wFmt o.w = 0 then wLen o.w else (s.regs o).getK (wOpb o.w) }) t) ∧
    (s.goes (.mcloseRelease tile th w) tile th w mcloseReleaseSpec = true → ∃ t, exec (.mcloseRelease tile th w) s = .next t ∧
      regs mcloseReleaseSpec t ∧ (hValid h = true → hRoute h < 0x1840 → sent (hRoute h) (.release (hQueue h) (hEpoch h)) t) ∧
      (hValid h = false ∨ 0x1840 ≤ hRoute h → quiet t)) ∧
    (s.goes (.mcloseClose tile th w) tile th w mcloseCloseSpec = true → ∃ n t, exec (.mcloseClose tile th w) s = .next t ∧
      regs mcloseCloseSpec t ∧
      (owns n false ∧ own n (fun q => { q with state := 1 }) t ∨ owns n true ∧ later n none .close t))

/-- R208, R281, R282, R284, R286, R294, R297: CINC, CWATCH and CREAD, outside a rerun and a shadow run. Each sends its items to the SYU,
or to a peer; a CINC to GATE is the tile's contribution; a CREAD's line waits for its values. -/
def Obligations.CounterOperations : Prop :=
  ∀ (s : State) (tile th : Nat) (w : BitVec 128), s.calm tile = true → (s.tile tile).shadow = none →
    let u := s.issueState tile th
    let o := s.opOf tile th w
    let x := s.tile tile
    let r := u.regs o
    ((u.thread tile th).suppressOut = 0 ∨ o.fill = true) →
    let item (id : Nat) (b : SyuBody) : SyuItem :=
      { id := id, src := .tile tile, ctx := o.ctx, who := some o.who, hostCmd := none, tag := 0, body := b, stamp := s.stampNow }
    let regs (sp : OpSpec) (b t : State) :=
      RegsOnly b { t with syu := s.syu, nextId := s.nextId, outbox := s.outbox, lnk := s.lnk } o ∧
      RegFrame r (if wTkten o.w then (t.regs o).setBusy (wTkt o.w) false else t.regs o) (o.posted (sp.accs u o)) [] [] ∧
      (wTkten o.w = true → (t.regs o).busy (wTkt o.w) = true)
    let gated := gVid o.d = bits (s.tel o.ctx).gateCfg 0 16 ∧ x.gate ≠ .off
    let ready := ∀ i ∈ s.syu.inbound, i.port = 7 ∧ ∀ a n, i.body ≠ .remote a n
    (s.goes (.cinc tile th w) tile th w cincSpec = true →
      (gSpace o.d = 3 → ready → ¬gated → ∃ t, exec (.cinc tile th w) s = .next t ∧ regs cincSpec u t ∧ t.nextId = s.nextId + 1 ∧
        t.syu = { s.syu with inbound := s.syu.inbound ++ [item s.nextId (.inc (gVid o.d) (wLen o.w))] } ∧
        t.outbox = s.outbox ∧ t.lnk = s.lnk) ∧
      (gSpace o.d = 3 → ready → gated → x.patina = [] → ∃ t, exec (.cinc tile th w) s = .next t ∧
        regs cincSpec (u.modTile tile fun y =>
          { y with gate := .wait, gateStep := if y.gate = .commit ∨ y.gate = .skip then y.gateStep + 1 else y.gateStep }) t ∧ t.nextId = s.nextId + 1 ∧
        t.syu = { s.syu with inbound := s.syu.inbound ++ [item s.nextId (.inc (gVid o.d) (wLen o.w))] } ∧
        t.outbox = s.outbox ∧ t.lnk = s.lnk) ∧
      (gSpace o.d = 2 → s.syu.inbound = [] → s.hbm.accs = [] → s.hbm.ops = [] → s.lnk.waiting = [] → s.telItems = [] → x.pendingLines = [] →
        s.syu.accepted = [] → s.syu.watches = [] → s.syu.notifs = [] → s.rmn.items = [] → s.rmn.placing = [] → s.rmn.replies = [] →
        let sent := s.sendLink (s.lnk.wire (gPort o.d)) o.ctx s.stampNow (headOf 4 o.ctx (s.binding (gPort o.d) o.ctx).peerCtx (wLen o.w) 0
          (bits o.d 0 40 + 3 * 2 ^ 52) (s.nextId + 1) (s.binding (gPort o.d) o.ctx).tag 1)
        ∃ t, exec (.cinc tile th w) s = .next t ∧ regs cincSpec u t ∧ t.nextId = s.nextId + 2 ∧ t.syu = s.syu ∧ t.outbox = sent.outbox ∧
        t.lnk = { sent.lnk with waiting := [{ token := s.nextId + 1, port := gPort o.d, ctx := o.ctx, src := .tile tile, since := s.now,
                                              use := .inc (some o.who) o.d }] })) ∧
    (s.goes (.cwatch tile th w) tile th w cwatchSpec = true → ∃ t, exec (.cwatch tile th w) s = .next t ∧
      regs cwatchSpec (u.modTile tile fun y =>
        { y with timers := if wAux o.w = 0 then y.timers else y.timers ++ [(s.nextId, s.now + 2 ^ wAux o.w)] }) t ∧
      t.nextId = s.nextId + 1 ∧ t.outbox = s.outbox ∧ t.lnk = s.lnk ∧
      t.syu = { s.syu with inbound := s.syu.inbound ++ [item s.nextId (.reg
        { ctx := o.ctx, vid := gVid o.a, cmp := bits (wFmt o.w) 0 2, t := wAux o.w, dest := .cwatch o.who (o.d / 64), bank := none, hostCmd := none,
          expect := if bit (wFmt o.w) 2 then r.getK (wOpb o.w) + wLen o.w else memRead x.mem o.b 8 })] }) ∧
    (s.goes (.cread tile th w) tile th w creadSpec = true → ∃ t, exec (.cread tile th w) s = .next t ∧
      regs creadSpec (u.modTile tile fun y => { y with pendingLines := y.pendingLines ++ [(s.nextId, th, o.d / 64)] }) t ∧
      t.nextId = s.nextId + 1 + wLen o.w ∧ t.outbox = s.outbox ∧ t.lnk = s.lnk ∧
      t.syu = { s.syu with
        creads := s.syu.creads ++ [{ id := s.nextId, who := o.who, line := o.d / 64, n := wLen o.w, vals := [], served := 0,
                                       stamp := s.stampNow }]
        inbound := s.syu.inbound ++ (List.range (wLen o.w)).map fun i => item (s.nextId + 1 + i) (.read (gVid o.a + i) s.nextId i) })

/-- R51, R245, R247 to R251, R273, R579: the events of a SEND, from its request to its receipt, and a RECV that can never be satisfied. The
packets of the SENDs between two sites keep their order; a new packet stands behind those that left before it. -/
def Obligations.ExchangeEvents : Prop :=
  (∀ (s : State) (x : Nat) (y : XSend), s.xsend x = some y →
    let way (z : XSend) := if z.stage = .request ∨ z.stage = .data then (s.pln.siteOf z.sender, z.route) else (z.route, s.pln.siteOf z.sender)
    let first := ∀ z ∈ s.xsends.takeWhile fun z => !decide (z.id = x), z.stage ≠ .held → way z ≠ way y
    let put (z : XSend) (s : State) := { s with xsends := s.xsends.map fun v => if v.id = x then z else v }
    let move (z : XSend) (s : State) := { s with xsends := (s.xsends.filter fun v => !decide (v.id = x)) ++ [z] }
    let dst := s.tile y.dstTile
    let src := s.tile y.sender
    let mine (j : Nat) := ∃ e, dst.xList[j]? = some e ∧ e.send = false ∧ e.peer = y.sender
    let fault (t code addr detail : Nat) : FaultRec :=
      { code := code, ctxFatal := true, locValid := true, ctx := s.tileCtx t, tile := t, superstep := s.superstepOf t, addr := addr
        opIndex := (s.tile t).xOp, detail := detail }
    (y.stage = .request → first → s.pln.fatal = false →
      (s.pln.logicalAt y.route ≠ some y.dstTile →
        exec (.exchangeRequest x) s = .next (move { y with stage := .refusal } s)) ∧
      (s.pln.logicalAt y.route = some y.dstTile → dst.portMatches = false → dst.held.length < 64 →
        exec (.exchangeRequest x) s =
          .next ((put { y with stage := .held } s).modTile y.dstTile fun t => { t with held := t.held ++ [x] })) ∧
      (s.pln.logicalAt y.route = some y.dstTile → dst.portMatches = true →
        (∀ i e, dst.xList[i]? = some e → e.send = false → e.peer = y.sender → e.st = .waiting →
          (∀ j, j < i → ∀ e', dst.xList[j]? = some e' → e'.send = false → e'.peer = y.sender → e'.st ≠ .waiting) →
          (e.len = y.len → 64 * e.line = y.offset → exec (.exchangeRequest x) s =
            .next (move { y with recv := i, receiver := y.dstTile, stage := .grant } (s.modTile y.dstTile fun t => t.setXEnt i .active))) ∧
          (e.len ≠ y.len → 64 * e.line = y.offset → exec (.exchangeRequest x) s =
            .next ((s.noteThread y.dstTile 0 false).raise (fault y.dstTile 0x0204 (tileAddr y.dstTile y.offset) (i + 2 ^ 16)))) ∧
          (e.len = y.len → 64 * e.line ≠ y.offset → exec (.exchangeRequest x) s =
            .next ((s.noteThread y.dstTile 0 false).raise (fault y.dstTile 0x0204 (tileAddr y.dstTile y.offset) (i + 2 ^ 17))))) ∧
        ((∀ j, ¬mine j) → exec (.exchangeRequest x) s =
          .next ((s.noteThread y.dstTile 0 false).raise (fault y.dstTile 0x0203 (tileAddr y.dstTile y.offset) y.sender))))) ∧
    (y.stage = .grant → first → s.tileRuns y.sender = true → src.portRuns = true →
      ∀ e, src.xList[y.ent]? = some e → (∀ j, j < e.len → src.parityBad (e.line + j) = false) →
      exec (.exchangeGrant x) s = .next (move { y with lines := src.lines e.line e.len, stage := .data } s)) ∧
    (y.stage = .data → first → s.tileRuns y.receiver = true → ∀ v p rest, y.lines = (v, p) :: rest →
      let l := y.offset / 64 + y.landed
      let next := { y with lines := rest, landed := y.landed + 1 }
      (rest ≠ [] → exec (.exchangeDataArrival x false) s = .next (put next (s.landLine y.receiver l v p false))) ∧
      (rest = [] → exec (.exchangeDataArrival x false) s = .next (move { next with stage := .receipt }
        ((s.landLine y.receiver l v p false).modTile y.receiver fun t => t.setXEnt y.recv .done))) ∧
      (rest ≠ [] → y.meshBad = true → exec (.exchangeDataArrival x true) s = .next (put next (s.landLine y.receiver l v true false)))) ∧
    (s.tileRuns y.sender = true → y.stage = .receipt ∨ y.stage = .refusal → first →
      (y.stage = .receipt → (∀ e ∈ (src.setXEnt y.ent .done).xList, e.send = true → e.st ≠ .waiting) → exec (.exchangeReceipt x) s =
        .next ({ s with xsends := s.xsends.filter fun z => !decide (z.id = x) }.modTile y.sender fun t => t.setXEnt y.ent .done)) ∧
      (y.stage = .refusal → exec (.exchangeReceipt x) s =
        .next ((({ s with xsends := s.xsends.filter fun z => !decide (z.id = x) } : State).noteThread y.sender 0 false).raise
          (fault y.sender 0x0202 (tileAddr y.dstTile y.offset) (y.ent + 8 * 2 ^ 16)))))) ∧
  (∀ (s : State) (t i : Nat) (e : XEnt), t < 5760 → i < 65536 → s.tileRuns t = true → (s.tile t).phase = .exchange →
    (s.tile t).xLoaded = true → (s.tile t).xList[i]? = some e → e.send = false → e.st = .waiting → (s.tile e.peer).phase = .signalled →
    exec (.exchangeShort t i) s = .next ((s.noteThread t 0 false).raise
      { code := 0x0205, ctxFatal := true, locValid := true, ctx := s.tileCtx t, tile := t, superstep := s.superstepOf t
        opIndex := (s.tile t).xOp, detail := i + e.peer * 2 ^ 16 }))

/-- R101, R248, R469: a tile signals once its exchange is done and what it captured is written. R261, R45: the number of a group rises when every
tile has signalled, and the next superstep is released at each; a group whose tiles have all halted is complete. R102: a tile whose rerun is pending restores what it
saved. R160: an operand-cache entry is restored too, and has right parity again (the model's reading, log entry 32). -/
def Obligations.SuperstepEvents : Prop :=
  (∀ (s : State) (tile : Nat), tile < 5760 →
    let x := s.tile tile
    s.tileRuns tile = true → x.shadow = none → x.phase = .exchange → x.xLoaded = true → x.rerun.pending = false → x.rerun.late = false →
    s.captured tile = true → x.fillSwap = false → (x.xDrain = true → x.fillDone = true) → (∀ e ∈ x.xList, e.st = .done) →
    (∃ t, exec (.tileSignal tile) s = .next t ∧ (t.tile tile).phase = .signalled) ∧
    (x.rerun.current = none → x.patina = [] → s.queuesOfTile tile = [] → ∃ t, exec (.tileSignal tile) s = .next t ∧
      t = { s with tiles := t.tiles } ∧ t.tile tile = { x with phase := .signalled } ∧ ∀ j, j ≠ tile → t.tile j = s.tile j)) ∧
  (∀ (s : State) (g : Nat), g < 64 →
    let x := s.group g
    let c := x.owner
    let ts := s.groupTiles g
    c < 16 → (s.ctx c).st = .running → x.complete = false → s.pln.fatal = false →
    (∀ t ∈ ts, (s.tile t).phase = .signalled ∧ s.holdsNow (tdomOf t) = false) →
    let times : Group := { x with superstepNs := ns32 (s.now - x.releasedAt), exchangeNs := ns32 (s.now - x.lastEntry) }
    ((∃ t ∈ ts, (s.tile t).allHalted = false) → mget 0 s.ras.rates c = 0 → (s.cp c).gRef ≠ g →
      (∀ t ∈ ts, s.queuesOfTile t = [] ∧ (s.tile t).allHalted = false) →
      ∃ t, exec (.synchronisationComplete g) s = .next t ∧
        t = { s with tiles := t.tiles, groups := t.groups } ∧
        t.group g = { times with superstep := x.superstep + 1, releasedAt := s.now } ∧ (∀ j, j ≠ g → t.group j = s.group j) ∧
        (∀ j, j ∉ ts → t.tile j = s.tile j) ∧
        ∀ j ∈ ts, (t.tile j).phase = .compute ∧ (t.tile j).mem = (s.tile j).mem ∧ (t.tile j).xList = [] ∧ ∀ n, n < 4 →
          ((t.tile j).thread n).main = ((s.tile j).thread n).main ∧
          ((t.tile j).thread n).st = (if ((s.tile j).thread n).st = .halted then .halted else .issuing) ∧
          ((∀ d, (s.tile j).rerun.current = some d → d.fill = false) →
            ((t.tile j).thread n).saved.regs = ((s.tile j).thread n).main)) ∧
    ((∀ t ∈ ts, (s.tile t).allHalted = true) → (∃ h ∈ (s.ctx c).groups, h ≠ g ∧ (s.group h).complete = false) →
      exec (.synchronisationComplete g) s = .next (s.setGroup g { times with complete := true })) ∧
    ((∀ t ∈ ts, (s.tile t).allHalted = true) → (∀ h ∈ (s.ctx c).groups, h ≠ g → (s.group h).complete = true) →
      exec (.synchronisationComplete g) s =
        .next (((s.setGroup g { times with complete := true }).modCtx c fun y => { y with complete := true }).startTeardown c none))) ∧
  (∀ (s : State) (tile : Nat), tile < 5760 →
    let x := s.tile tile
    s.tileRuns tile = true → x.rerun.pending = true →
    (x.rerun.fillOnly = true → x.rerun.current = none → ∃ t, exec (.superstepRerun tile) s = .next t ∧ t = { s with tiles := t.tiles } ∧
      t.tile tile = { x with rerun := { x.rerun with pending := false, count := x.rerun.count + 1, fillOnly := false } } ∧
      ∀ j, j ≠ tile → t.tile j = s.tile j) ∧
    (∀ d, x.rerun.fillOnly = true → x.rerun.current = some d → d.kind = .cache → ∃ t, exec (.superstepRerun tile) s = .next t ∧
      (t.tile tile).entry d.place = mget 0 (x.thread (d.place / 16)).saved.cache d.place ∧
      mget false (t.tile tile).err.badCache d.place = false ∧ (t.tile tile).rerun.pending = false ∧ (t.tile tile).mem = x.mem ∧
      (∀ n, n ≠ d.place → (t.tile tile).entry n = x.entry n) ∧ ∀ j, j ≠ tile → t.tile j = s.tile j) ∧
    (x.rerun.fillOnly = false → x.pendingLines = [] → (∀ n, n < 4 → (x.thread n).main.tk = [] ∧ (x.thread n).fill.tk = []) →
      s.ras.samples = [] → (∀ d, x.rerun.current = some d → d.kind = .parity → x.fetchLine d.place = false) →
      ∃ t, exec (.superstepRerun tile) s = .next t ∧ t = { s with tiles := t.tiles } ∧ (∀ j, j ≠ tile → t.tile j = s.tile j) ∧
        (t.tile tile).phase = .compute ∧ (t.tile tile).mem = x.mem ∧ (t.tile tile).rerun.pending = false ∧
        (t.tile tile).rerun.count = x.rerun.count + 1 ∧
        ∀ n, n < 4 → ((t.tile tile).thread n).main = (x.thread n).saved.regs ∧
          ((t.tile tile).thread n).st = (if (x.thread n).saved.halted then .halted else .issuing) ∧
          ((t.tile tile).thread n).suppressOut = (x.thread n).outOps + (x.thread n).suppressOut))

/-- R51, R53, R278, R285, R286, R289, R291, R295, R297, R301, R305: what reaches the Sync Unit and what leaves it. What becomes of an item of
the firmware system context whose window meets an uncorrectable error is the model's choice (log entry 163), and so is the lowest free
watch slot (log entry 162). -/
def Obligations.SyncUnitEvents : Prop :=
  (∀ (s : State) (i : Nat) (x : SyuItem), s.syuIn i = some x → x.port = 7 → s.firstOfSource x = true → s.holdsItem x = false →
    s.pln.fatal = false →
    let taken : Syu := { s.syu with inbound := s.syu.inbound.filter fun y => !decide (y.id = i) }
    let kept : State := { s with syu := { taken with accepted := s.syu.accepted ++ [x] } }
    (s.vidOk x.ctx x.vid = true → exec (.incrementArrival i) s = .next kept) ∧
    (∀ v n, x.body = .inc v n → s.vidOk x.ctx v = false → (s.lnk.peerOps.find? fun p => decide (p.id = i)) = none → x.hostCmd = none →
      exec (.incrementArrival i) s = .next (({ s with syu := taken }).raise (counterInvalid x (s.ctx x.ctx).tableValid))) ∧
    (∀ v r k, x.body = .read v r k → s.vidOk x.ctx v = false → exec (.incrementArrival i) s = .next { s with syu := taken })) ∧
  (∀ (s : State) (p : Nat) (x : SyuItem) (r : FaultRec), p < 262144 → s.pln.fatal = false → s.windowOf p = [x] →
    s.syuError p x.ctx = some r → r.ctx = x.ctx →
    r.code = 0x0B07 ∧ r.ctxFatal = true ∧ r.devFatal = false ∧
    (x.ctx < 16 → (s.ctx x.ctx).st = .loading ∨ (s.ctx x.ctx).st = .running → exec (.updateWindow p) s = .next (s.raise r)) ∧
    (x.ctx = 16 →
      let u := s.raise r
      let gone : State := { u with syu := { u.syu with accepted := u.syu.accepted.filter fun y => !decide (s.phys y.ctx y.vid = p) } }
      (∀ v n, x.body = .inc v n → (s.lnk.peerOps.find? fun q => decide (q.id = x.id)) = none →
        exec (.updateWindow p) s = .next (gone.note (counterInvalid x false))) ∧
      (∀ q b, x.body = .reg q → q.bank = some b → (mget {} s.syu.banks b).busy = some x.id → exec (.updateWindow p) s = .next { gone with
        syu := { gone.syu with banks := mset {} s.syu.banks b { mget {} s.syu.banks b with result := 5 * 2 ^ 16, busy := none } } }) ∧
      (∀ v rd k, x.body = .read v rd k → exec (.updateWindow p) s = .next gone) ∧
      (∀ v k, x.body = .tmo v k → exec (.updateWindow p) s = .next gone))) ∧
  (∀ (s : State) (p : Nat) (x : SyuItem), p < 262144 → s.pln.fatal = false → s.windowOf p = [x] → s.syuError p x.ctx = none →
    (∀ w ∈ s.syu.watches, w.ended = none) → (∀ c, (s.ctx c).afterDecide = none) →
    let v := mget 0 s.syu.counters p
    let base : State := ({ s with syu := { s.syu with
      accepted := s.syu.accepted.filter fun y => !decide (s.phys y.ctx y.vid = p) } } : State).syuFix p
    let rest := base.syu
    (∀ vid n, x.body = .inc vid n → v + n < 2 ^ 62 → x.who = none → x.hostCmd = none → s.lnk.peerOps = [] →
      (∀ w ∈ s.syu.watches, w.phys = p → watchHolds w.reg.cmp (v + n) w.reg.expect = false) →
      exec (.updateWindow p) s = .next { base with syu := { rest with counters := mset 0 s.syu.counters p (v + n) } }) ∧
    (∀ vid n w, x.body = .inc vid n → v + n < 2 ^ 62 → x.who = none → x.hostCmd = none → s.lnk.peerOps = [] → s.syu.watches = [w] →
      w.phys = p → watchHolds w.reg.cmp (v + n) w.reg.expect = true → (s.ctx w.reg.ctx).tableValid = true →
      exec (.updateWindow p) s = .next { base with
        nextId := s.nextId + 1
        syu := { rest with
          counters := mset 0 s.syu.counters p (v + n)
          watches := []
          notifs := s.syu.notifs ++ [{ id := s.nextId, item := w.item, reg := w.reg, slot := w.slot, observed := v + n, timeout := false,
                                       stamp := s.stampNow }] } }) ∧
    (∀ r n, x.body = .reg r → s.syu.watches = [] → (s.ctx r.ctx).tableValid = true → (s.ctx r.ctx).watchLimit ≠ 0 → r.bank = none → r.hostCmd = none → r.dest = .tel →
      watchHolds r.cmp v r.expect = n → exec (.updateWindow p) s = .next
        (let w : Watch := { slot := 0, item := x.id, phys := p, reg := r, since := s.now }
         let slots := mset none s.syu.badSlots 0 none
         if n then { base with
             nextId := s.nextId + 1
             syu := { rest with
               badSlots := slots
               notifs := s.syu.notifs ++ [{ id := s.nextId, item := x.id, reg := r, slot := 0, observed := v, timeout := false,
                                            stamp := s.stampNow }] } }
         else { base with syu := { rest with watches := [w], badSlots := slots } })) ∧
    (∀ r b, x.body = .reg r → r.bank = some b → r.hostCmd = none → (mget {} s.syu.banks b).busy = some x.id → s.syu.watches = [] →
      let told (status : Nat) := mset {} s.syu.banks b { mget {} s.syu.banks b with result := status * 2 ^ 16, busy := none }
      let w : Watch := { slot := 0, item := x.id, phys := p, reg := r, since := s.now }
      ((s.ctx r.ctx).tableValid = false → exec (.updateWindow p) s = .next { base with syu := { rest with banks := told 5 } }) ∧
      ((s.ctx r.ctx).tableValid = true → s.destOk r.ctx r.dest = false →
        exec (.updateWindow p) s = .next { base with syu := { rest with banks := told 4 } }) ∧
      ((s.ctx r.ctx).tableValid = true → s.destOk r.ctx r.dest = true → (s.ctx r.ctx).watchLimit = 0 →
        exec (.updateWindow p) s = .next { base with syu := { rest with banks := told 3 } }) ∧
      ((s.ctx r.ctx).tableValid = true → s.destOk r.ctx r.dest = true → (s.ctx r.ctx).watchLimit ≠ 0 → watchHolds r.cmp v r.expect = false →
        exec (.updateWindow p) s = .next { base with
          syu := { rest with banks := told 1, watches := [w], badSlots := mset none s.syu.badSlots 0 none } })) ∧
    (∀ vid rd k, x.body = .read vid rd k → exec (.updateWindow p) s = .next { base with
      nextId := s.nextId + 1
      syu := { rest with creads := s.syu.creads.map fun r =>
        if r.id = rd then { r with vals := mset 0 r.vals k v, served := r.served + 1, packets := r.packets ++ [(p / 256 % 64, s.nextId)] }
        else r } }) ∧
    (∀ vid i w, x.body = .tmo vid i → s.syu.watches = [w] → w.phys = p → w.item = i → (s.ctx w.reg.ctx).tableValid = true →
      exec (.updateWindow p) s = .next { base with
      nextId := s.nextId + 1
      syu := { rest with
        watches := []
        notifs := s.syu.notifs ++ [{ id := s.nextId, item := w.item, reg := w.reg, slot := w.slot, observed := v, timeout := true,
                                       stamp := s.stampNow }] } })) ∧
  (∀ (s : State) (n : Nat) (x y : Notif), s.notif n = some x → y ∈ s.syu.notifs → y.place = x.place → s.notifSlice y = s.notifSlice x →
    y.id < x.id → exec (.watchNotification n) s = .next s) ∧
  (∀ (s : State) (n : Nat) (x : Notif), s.notif n = some x → s.notifNext x = true → s.pln.fatal = false →
    (∀ c, (s.ctx c).afterDecide = none) → (∀ y ∈ s.syu.inbound, ∀ a k, y.body ≠ .remote a k) →
    let s0 := s.notifArrived x
    let s1 : State := { s0 with syu := { s0.syu with notifs := s.syu.notifs.filter fun y => !decide (y.id = x.id) } }
    (∀ who l, x.reg.dest = .cwatch who l → exec (.watchNotification n) s =
      .next (((s1.landLine who.tile l x.record false false).modTile who.tile fun t =>
        { t with timers := t.timers.filter fun y => !decide (y.1 = x.item) }).freeTicket who false)) ∧
    (∀ a, x.reg.dest = .global a → gSpace a = 0 → exec (.watchNotification n) s =
      .next (s1.issueMem (.notif x.reg.vid) .syu x.reg.ctx a true false [(x.record, false)])) ∧
    (∀ a, x.reg.dest = .global a → gSpace a ≠ 0 → s.notifyRefused a = none → exec (.watchNotification n) s =
      .next (s1.landLine (gTile a) (gOff a / 64) x.record false false)) ∧
    (x.reg.dest = .tel → exec (.watchNotification n) s =
      .next (s1.setTel x.reg.ctx { s.tel x.reg.ctx with gateMet := true, watching := false })) ∧
    x.record = x.observed + x.reg.expect % 2 ^ 64 * 2 ^ 64 + (if x.timeout then 2 else 1) * 2 ^ 128 + x.reg.vid * 2 ^ 160 +
      x.reg.cmp * 2 ^ 176 + x.reg.ctx * 2 ^ 184 + x.slot * 2 ^ 192) ∧
  (∀ (s : State) (rd : Nat) (r : CReadOp) (y : Notif), s.cread rd = some r → y ∈ s.syu.notifs → y.place = (0, r.who.tile) →
    (∃ k ∈ r.packets, k.1 = s.notifSlice y ∧ y.id < k.2) → exec (.creadResult rd) s = .next s) ∧
  (∀ (s : State) (rd : Nat) (r : CReadOp), s.cread rd = some r → s.pln.fatal = false → s.tileNext r.who.tile r.packets = true →
    (∀ y ∈ s.syu.inbound, ∀ a k, y.body ≠ .remote a k) →
    exec (.creadResult rd) s =
    .next (((({ s with syu := { s.syu with creads := s.syu.creads.filter fun y => !decide (y.id = rd) }.arrived r.who.tile r.packets }).modTile r.who.tile fun t =>
        { t.putLine r.line (packElems 64 ((List.range r.n).map fun i => mget 0 r.vals i)) false with
          pendingLines := t.pendingLines.filter fun p => !decide (p.1 = rd) }).logInput r.who.tile
      (.cread r.who.thread r.who.opIndex r.line (packElems 64 ((List.range r.n).map fun i => mget 0 r.vals i)))).freeTicket r.who true)) ∧
  (∀ (s : State) (tile i v due : Nat), tile < 5760 → (i, due) ∈ (s.tile tile).timers → due ≤ s.now → s.watchVid i = some v →
    s.pln.fatal = false → ∃ t, exec (.watchTimeout tile i) s = .next t ∧ t.nextId = s.nextId + 1 ∧
      t.syu = { s.syu with inbound := s.syu.inbound ++ [{ id := s.nextId, src := .tile tile, ctx := s.tileCtx tile, who := none,
                                                          hostCmd := none, tag := 0, body := .tmo v i
                                                          stamp := s.stampNow }] } ∧
      t = { s with tiles := t.tiles, nextId := t.nextId, syu := t.syu } ∧ (∀ j, j ≠ tile → t.tile j = s.tile j) ∧
      t.tile tile = { s.tile tile with timers := (s.tile tile).timers.filter fun y => !decide (y.1 = i) }) ∧
  (∀ (s : State) (n : Nat) (w : Watch), n < 65536 → s.watchAt n = some w → s.pln.fatal = false →
    (w.reg.t ≠ 0 → w.since + 2 ^ w.reg.t ≤ s.now → (∀ a l, w.reg.dest ≠ .cwatch a l) →
      (∀ x ∈ s.syu.accepted, ∀ v, x.body ≠ .tmo v w.item) → exec (.managementWatchTimeout n) s = .next { s with
        nextId := s.nextId + 1
        syu := { s.syu with accepted := s.syu.accepted ++ [{ id := s.nextId, src := .syu, ctx := w.reg.ctx, who := none, hostCmd := none,
                                                             tag := 0, body := .tmo w.reg.vid w.item, stamp := s.stampNow }] } }) ∧
    (w.reg.t = 0 → w.since + 100000 * max 1 (s.ctx w.reg.ctx).watchdogMs ≤ s.now →
      (s.badSlot w = true → exec (.deadlockWatchdog n) s = .next (s.raise (syuBad w.reg.ctx n 1))) ∧
      (s.badSlot w = false → ∀ r, s.badCounter w.phys w.reg.ctx = some r → exec (.deadlockWatchdog n) s = .next (s.raise r)) ∧
      (s.badSlot w = false → s.badCounter w.phys w.reg.ctx = none →
        let fixed := (s.slotFix n).counterFix w.phys
        let noted := match w.reg.dest with
          | .cwatch who _ => fixed.noteThread who.tile who.thread who.fill
          | _ => fixed
        exec (.deadlockWatchdog n) s = .next (noted.raise (s.watchLoc w.reg
          { code := 0x0501, ctxFatal := true, ctx := w.reg.ctx, addr := counterAddr w.reg.vid
            detail := (w.reg.expect % 2 ^ 64 + 2 ^ 64 - mget 0 s.syu.counters w.phys) % 2 ^ 32 }))))) ∧
  (∀ (s : State) (b v : Nat), b < 17 → bit v 31 = true → s.pln.fatal = false → s.isOn 18 = true →
    let u := s.access (if b < 16 then 2 else 1) 0x300010
    let w := mget {} u.syu.banks b
    exec (.managementWatchRegistration b v) s = .next { u with
      nextId := u.nextId + 1
      syu := { u.syu with
        banks := mset {} u.syu.banks b { w with cfg := bits v 0 28, busy := some u.nextId }
        inbound := u.syu.inbound ++
          [{ id := u.nextId, src := if b < 16 then .arm b else .plinth, ctx := bits v 16 5, who := none, hostCmd := none, tag := 0
             body := .reg { ctx := bits v 16 5, vid := bits v 0 16, cmp := bits v 21 2, expect := w.expect, t := bits v 23 5,
                            dest := .global w.dest, bank := some b, hostCmd := none }
             stamp := u.stampNow }] } })

/-- R315, R319 to R330: what a decision point does with a connect request, a release and a message head, the placement of a message, and the
replies at their tile. R334 to R336, R339: a queue is reset, held and released, and a descriptor with an uncorrectable error raises its
record. The place of an own queue's change behind the tile's packets is the model's reading (log entry 41), and so is the reset of a free
descriptor, which only advances its epoch (log entry 46); that a release acts wherever its ROUTE led it is its choice (log entry 189). -/
def Obligations.RoutedMessageEvents : Prop :=
  (∀ (s : State) (i : Nat) (x : RmnItem), s.rmnItem i = some x → s.rmnFirst x = true →
    let s1 : State := { s with rmn := { s.rmn with items := s.rmn.items.filter fun y => !decide (y.id = i) } }
    let queues (n : Nat) (q : Queue) (t : State) : State := { t with rmn := { t.rmn with queues := mset {} t.rmn.queues n q } }
    (∀ m e y n, x.body = .release m e → (s.queue m).ctx ≠ x.ctx → s.rmn.items = [x, y] → y.src = x.src → y.dest = x.dest → y.id ≠ i →
      y.body = .own n .close → mget none s.rmn.badQueues n = none →
      exec (.queueReleaseArrival i) s = .next (queues n { s.queue n with state := 1 } { s with rmn := { s.rmn with items := [] } })) ∧
    ((∀ y ∈ s.rmn.items, ∀ n chg, y.body ≠ .own n chg) →
    (∀ a line w, x.body = .connect a line → x.who = some w →
      (s.queueAt x.ctx a = none → exec (.connectRequest i) s =
        .next (s1.sendReply x.id x.stamp x.dest x.ctx w true line (a * 2 ^ 64 + 6 * 2 ^ 128) 6)) ∧
      (∀ n q, s.queueAt x.ctx a = some (n, q) → s.rmnError n = none →
        let h := if q.state = 1 then 4 else if q.hold = true ∨ q.resetPending = true then 1 else 0
        (h = 0 → exec (.connectRequest i) s =
          .next ((queues n { s.queue n with conns := satAdd (s.queue n).conns 1 0xFFFF } (s1.rmnFix n)).sendReply x.id x.stamp x.dest x.ctx w true line
            (handleLine n (s.routeOf q) q.epoch a q.maxLines) 0)) ∧
        (h ≠ 0 → exec (.connectRequest i) s =
          .next ((s1.rmnFix n).sendReply x.id x.stamp x.dest x.ctx w true line (a * 2 ^ 64 + h * 2 ^ 128) h)))) ∧
    (∀ n e, x.body = .release n e → (s.queue n).ctx = x.ctx → (s.queue n).state ≠ 0 → s.rmnError n = none →
      exec (.queueReleaseArrival i) s = .next (if (s.queue n).epoch = e then
        queues n { s.queue n with conns := (s.queue n).conns - 1 } (s1.rmnFix n) else s1.rmnFix n)) ∧
    (∀ n route epoch pay st w, x.body = .message n route epoch pay st → x.who = some w → 0x1800 ≤ x.dest ∨ s.placingAt x.dest < 8 →
      s.rmnError n = none →
      let q := s.queue n
      let s2 := s1.rmnFix n
      let refused (res : Nat) (t : State) := exec (.messageHead i) s = .next (t.sendReply x.id x.stamp x.dest x.ctx w false st (statusWord res q.epoch) res)
      let counted : State := queues n { q with refused := satAdd q.refused 1 0xFFFFFFFF, refusedReset := satAdd q.refusedReset 1 0xFFFFFFFF } s2
      (32768 ≤ n ∨ q.ctx ≠ x.ctx ∨ q.state = 0 ∨ s.routeOf q ≠ route → refused 6 s2) ∧
      (n < 32768 → q.ctx = x.ctx → q.state ≠ 0 → s.routeOf q = route →
        (q.epoch ≠ epoch → refused 5 counted) ∧
        (q.epoch = epoch → q.state = 1 → refused 4 counted) ∧
        (q.epoch = epoch → q.state = 2 → q.hold = true ∨ q.resetPending = true → refused 1 counted) ∧
        (q.epoch = epoch → q.state = 2 → q.hold = false → q.resetPending = false → q.maxLines < pay.length → refused 8 counted) ∧
        (q.epoch = epoch → q.state = 2 → q.hold = false → q.resetPending = false → pay.length ≤ q.maxLines →
          (∀ res, q.place pay.length = .refused res → refused res counted) ∧
          (∀ pad pos wr, q.place pay.length = .at_ pad pos wr → q.onTile = true → exec (.messageHead i) s =
            .next { queues n (q.record pad pos wr pay.length x.hostCmd) s2 with
              nextId := s.nextId + 1
              rmn := { (queues n (q.record pad pos wr pay.length x.hostCmd) s2).rmn with
                placing := s.rmn.placing ++ [q.placing n s.nextId pad pos x pay st] } })))))) ∧
  (∀ (s : State) (m : Nat) (p : Placing) (w : Who), s.placingOf m = some p → s.pln.fatal = false → p.who = some w →
    (s.queue p.queue).onTile = true →
    (∀ y ∈ s.rmn.placing, y.id < p.id → y.src = p.src → y.dest ≠ p.dest) → (s.queue p.queue).state ≠ 0 →
    (∀ r, s.rmnError p.queue = some r → ∃ y : State, exec (.messagePlaced m 0) s = .next (y.raise r) ∧ y.rmn.queues = s.rmn.queues ∧
      y.rmn.placing = s.rmn.placing.filter (fun z => !decide (z.id = m)) ∧ y.rmn.replies = s.rmn.replies) ∧
    (s.rmnError p.queue = none → (∀ l ∈ p.lines, let n := ((s.queue p.queue).body + l.1) / 64
      let t := s.tile (s.queue p.queue).tile
      t.powered n = true ∧ t.mrx n = true) →
      ∃ t, exec (.messagePlaced m 0) s = .next t ∧
        t.rmn.queues = mset {} s.rmn.queues p.queue ((s.queue p.queue).finish p) ∧
        t.rmn.placing = s.rmn.placing.filter (fun y => !decide (y.id = m)) ∧
        t.rmn.replies = s.rmn.replies ++ [{ id := s.nextId, source := some p.dest, who := w, ctx := p.ctx, mopen := false, at_ := p.status
                                            value := p.epoch * 2 ^ 32, result := 0, item := p.item, stamp := p.stamp }])) ∧
  (∀ (s : State) (r : Nat) (x : RmnReply), s.rmnReply r = some x → s.pln.fatal = false →
    (∀ y ∈ s.syu.inbound, ∀ a k, y.body ≠ .remote a k) →
    (∀ y ∈ s.rmn.replies, y.id < x.id → y.source = x.source → y.who.tile ≠ x.who.tile) →
    let s1 : State := { s with rmn := { s.rmn with replies := s.rmn.replies.filter fun y => !decide (y.id = r) } }
    (x.mopen = true → exec (.mopenReply r) s =
      .next ((s1.landLine x.who.tile (x.at_ / 64) x.value false false).freeTicket x.who false)) ∧
    (x.mopen = false → (s.tile x.who.tile).phase ≠ .compute → exec (.msendReply r) s =
      .next ((s1.modTile x.who.tile fun t => { t.putNarrow x.at_ 8 x.value with
        msgRefused := if x.result = 0 then t.msgRefused else satAdd t.msgRefused 1 0xFFFFFFFF }).freeTicket x.who false)) ∧
    (x.mopen = false → (s.tile x.who.tile).cap = none → exec (.msendReply r) s =
      .next ((s1.modTile x.who.tile fun t => { t.putNarrow x.at_ 8 x.value with
        msgRefused := if x.result = 0 then t.msgRefused else satAdd t.msgRefused 1 0xFFFFFFFF }).freeTicket x.who false))) ∧
  (∀ (s : State) (b : Nat), b < 16 → s.pln.fatal = false → s.isOn 18 = true →
    let n := s.selQueue b
    let q := s.queue n
    let fixed (off : Nat) : State := (s.access 2 off).rmnFix n
    let at_ (off : Nat) (q' : Queue) : State :=
      { fixed off with rmn := { (fixed off).rmn with queues := mset {} s.rmn.queues n q' } }
    let raised : Queue := { q with epoch := (q.epoch + 1) % 2 ^ 32, conns := 0, refusedReset := 0, seq := 0, released := 0 }
    (∀ r, s.rmnError n = some r → s.usable q.ctx = true →
      (∀ on, exec (.queueHold b on) s = .next ((s.access 2 0x400040).raise r)) ∧
      exec (.queueReset b) s = .next ((s.access 2 0x400040).raise r)) ∧
    (s.usable q.ctx = true → s.rmnError n = none →
      (∀ on, exec (.queueHold b on) s = .next (at_ 0x400040 { q with hold := on })) ∧
      (q.state = 0 → exec (.queueReset b) s = .next (at_ 0x400040 raised)) ∧
      (q.state ≠ 0 → q.onTile = true → exec (.queueReset b) s = .next (at_ 0x400040 { raised with resetPending := true })) ∧
      (q.state ≠ 0 → q.onTile = false → exec (.queueReset b) s = .next ((at_ 0x400040
        { raised with wr := 0, rd := 0, recs := [], state := if q.openAtStart then 2 else 1 }).hbmHeader n))) ∧
    (q.ownerKind = 1 → q.ownerId = b → q.ctx < 16 → q.state ≠ 0 → s.rmnError n = none → ∀ v,
      let left := (q.wr + 2 ^ 32 - q.rd) % 2 ^ 32
      (left < v % 2 ^ 32 → exec (.rmnQRelease b v) s = .next (at_ 0x400048 q)) ∧
      (v % 2 ^ 32 ≤ left → ∃ t, exec (.rmnQRelease b v) s = .next t ∧ (t.queue n).rd = (q.rd + v % 2 ^ 32) % 2 ^ 32 ∧
        (∀ j, j ≠ n → t.queue j = s.queue j) ∧ t = { fixed 0x400048 with rmn := { (fixed 0x400048).rmn with queues := t.rmn.queues } })))

/-- R351 to R353, R357, R364, R580: an access at its translation slice, which translates it, holds it, starts a copy, or refuses it with the first
test of R352 that fails; the record of a refused operation once none of its lines is before its slice; and the end of a copy-on-write
copy, behind which the held accesses go on. -/
def Obligations.SliceEvents : Prop :=
  (∀ (s : State) (i : Nat) (a : Access) (o : MemOp), s.acc i = some a → s.pln.fatal = false → a.stage = .toSlice →
    (∀ x ∈ s.hbm.accs, x.stage = .toSlice → x.src = a.src → x.id < a.id → gFrame x.vaddr % 64 ≠ gFrame a.vaddr % 64) →
    s.memOp a.op = some o →
    let e := s.entryAt a.ctx a.vaddr
    let moved (a' : Access) : State := { s with hbm := { s.hbm with accs := (s.hbm.accs.filter fun x => !decide (x.id = i)) ++ [a'] } }
    let dropped : State := { s with hbm := { s.hbm with accs := s.hbm.accs.filter fun x => !decide (x.id = i) } }
    let half := s.pln.half (e.frameFor a.snap)
    (s.copying a.ctx a.vaddr = true → exec (.sliceAccess i false) s = .next (moved { a with stage := .held })) ∧
    (s.copying a.ctx a.vaddr = true ∨ s.waitsReserve a = false → exec (.sliceAccess i true) s =
      .next (dropped.countUncorrectable.raise { code := 0x030B, devFatal := true, detail := s.entryIdx a.ctx a.vaddr / 4 })) ∧
    (s.copying a.ctx a.vaddr = false →
      (e.valid = true → e.ctx = a.ctx → (if a.write then e.wr else e.rd) = true → (a.src.isPeer = true → e.peer = true) →
        (a.snap = true → e.snap = true ∨ e.scopied = true) → s.isOn (4 + half) = true → (a.write = true → e.snap = false) →
        o.refused = none → exec (.sliceAccess i false) s =
          (let phys := e.frameFor a.snap * 65536 + a.vaddr % 65536
           .next (moved { a with phys := phys, stage := .toChan, merge := if a.write then none else s.mergeEntry a.id a.ctx phys }))) ∧
      (let base := a.src.memCode + b2n a.write * 2 ^ 4
       let q := s.memQueue o.kind
       let allowed := (if a.write then e.wr else e.rd) = true ∧ (a.src.isPeer = true → e.peer = true)
       let viewed := a.snap = true → e.snap = true ∨ e.scopied = true
       ∀ code detail,
        (e.valid = false ∧ code = 0x0301 ∧ detail = base + q * 2 ^ 5 ∨
          e.valid = true ∧ e.ctx ≠ a.ctx ∧ code = 0x0302 ∧ detail = base + e.ctx * 2 ^ 5 ∨
          e.valid = true ∧ e.ctx = a.ctx ∧ ¬allowed ∧ code = 0x0303 ∧ detail = base + q * 2 ^ 5 ∨
          e.valid = true ∧ e.ctx = a.ctx ∧ allowed ∧ ¬viewed ∧ code = 0x0304 ∧ detail = q ∨
          e.valid = true ∧ e.ctx = a.ctx ∧ allowed ∧ viewed ∧ s.isOn (4 + half) = false ∧ code = 0x0305 ∧ detail = base + half * 2 ^ 5 ∨
          e.valid = true ∧ e.ctx = a.ctx ∧ allowed ∧ viewed ∧ s.isOn (4 + half) = true ∧ a.write = true ∧ e.snap = true ∧
            (s.ctx a.ctx).cowLeft half = 0 ∧ code = 0x0306 ∧ detail = gFrame a.vaddr + half * 2 ^ 24) →
        let noted : State := { dropped with hbm := { dropped.hbm with
          ops := s.hbm.ops.map fun x => if x.id = o.id then o.refuse a.vaddr code detail else x } }
        exec (.sliceAccess i false) s = .next (noted.settle o.id) ∧
        ((∃ b ∈ s.hbm.accs, b.id ≠ i ∧ b.op = a.op ∧ (b.stage = .toSlice ∨ b.stage = .held)) → exec (.sliceAccess i false) s = .next noted) ∧
        (o.more = 0 → o.refused = none → (∀ b ∈ s.hbm.accs, b.id ≠ i → b.op = a.op → b.stage ≠ .toSlice ∧ b.stage ≠ .held) →
          let ended : State := { dropped with hbm := { dropped.hbm with ops := s.hbm.ops.filter fun x => !decide (x.id = o.id) } }
          (∀ w, o.kind = .hwr w ∨ (∃ l, o.kind = .hrd w l) → s.lnk.peerOps = [] → exec (.sliceAccess i false) s =
            .next ((ended.noteWho w).raise { code := code, ctxFatal := true, locValid := true, ctx := o.ctx, tile := w.tile
                                             superstep := s.superstepOf w.tile, addr := a.vaddr, opIndex := w.opIndex, detail := detail })) ∧
          (∀ core, o.kind = .core core → s.lnk.peerOps = [] → exec (.sliceAccess i false) s =
            .next ((ended.trap core).raise { code := code, ctxFatal := true, ctx := o.ctx, addr := a.vaddr, detail := detail })) ∧
          (∀ p x, o.kind = .peer p x → exec (.sliceAccess i false) s =
            .next ((ended.nakPeer o.id 4).raise { code := code, ctx := o.ctx, addr := a.vaddr, detail := detail })) ∧
          (∀ d x, o.kind = .dma d → s.lnk.peerOps = [] → (s.hbm.descs.find? fun y => decide (y.id = d)) = some x →
            exec (.sliceAccess i false) s =
            .next (ended.descFault x { code := code, ctxFatal := true, ctx := o.ctx, addr := a.vaddr, detail := detail })))) ∧
      (∀ f, e.valid = true → e.ctx = a.ctx → e.wr = true → a.write = true → (a.src.isPeer = true → e.peer = true) → a.snap = false →
        s.isOn (4 + half) = true → e.snap = true → (s.ctx a.ctx).cowLeft half ≠ 0 → s.reserveFrame a.ctx half = some f →
        ∃ t, exec (.sliceAccess i false) s = .next t ∧
          t.ctx a.ctx = (s.ctx a.ctx).setCow half ((s.ctx a.ctx).cowLeft half - 1) ∧
          t.hbm = { s.hbm with accs := (moved { a with stage := .held }).hbm.accs
                               copies := s.hbm.copies ++ [{ entry := s.entryIdx a.ctx a.vaddr, frame := f }]
                               frames := mset .pool s.hbm.frames f (.held a.ctx false) }))) ∧
  (∀ (s : State) (n : Nat) (x : Copy), n < 2 ^ 24 → s.pln.fatal = false → (s.hbm.copies.find? fun y => decide (y.entry = n)) = some x →
    let e := s.hbm.entry n
    s.hbm.badLines e.pframe = [] → (s.fm 0).behindCopy = none → (s.fm 1).behindCopy = none →
    (∀ a ∈ s.hbm.accs, a.stage = .toChan → a.write = true → a.phys / 65536 ≠ e.pframe) →
    let h : Hbm := { s.hbm with
      mem := mcopy 0 s.hbm.mem (e.pframe * 65536) (x.frame * 65536) 65536
      poison := mcopy false s.hbm.poison (e.pframe * 1024) (x.frame * 1024) 1024
      bad := mdrop (fun l => decide (l / 1024 = x.frame)) s.hbm.bad }
    let done : State := { s with hbm := { h with
      copies := s.hbm.copies.filter fun y => !decide (y.entry = n)
      fmap := mset {} s.hbm.fmap n
        { e with sframe := e.pframe, pframe := x.frame, snap := false, scopied := true, poison := e.poison ||| h.poisonBits x.frame }
      sysGone := if (s.hbm.sysEntry n).isSome then mset false s.hbm.sysGone n true else s.hbm.sysGone } }
    exec (.cowCopyComplete n) s = .next (done.releaseHeld n) ∧
    ((∀ a ∈ s.hbm.accs, a.stage ≠ .held ∨ s.entryIdx a.ctx a.vaddr ≠ n) → exec (.cowCopyComplete n) s = .next done) ∧
    (∀ a o, s.hbm.accs = [a] → a.stage = .held → a.write = true → a.snap = false → s.entryIdx a.ctx a.vaddr = n →
      gFrame a.vaddr < (s.ctx a.ctx).fmFrames → s.memOp a.op = some o → o.refused = none → e.valid = true → e.ctx = a.ctx → e.wr = true →
      (a.src.isPeer = true → e.peer = true) → s.isOn (4 + s.pln.half x.frame) = true → exec (.cowCopyComplete n) s = .next { done with
        hbm := { done.hbm with
          accs := [{ a with phys := x.frame * 65536 + a.vaddr % 65536, stage := .toChan, merge := none }] } }))

/-- R51, R346 to R348, R361 to R365: a write at its controller and its acknowledgement, a read's return and its data at the tile, and the scrub
of one line. -/
def Obligations.HbmEvents : Prop :=
  (∀ (s : State) (i : Nat) (a : Access), s.acc i = some a → s.pln.fatal = false →
    let dropped : State := { s with hbm := { s.hbm with accs := s.hbm.accs.filter fun x => !decide (x.id = i) } }
    let l := a.phys / 64
    (a.stage = .toChan → a.write = true → s.lineFirst a (fun _ => true) = true → a.part = (0, 64) →
      (a.poison = false → exec (.hbmWriteAccept i false) s = .next { s with hbm := { s.hbm with
        mem := memWrite s.hbm.mem (64 * l) 64 a.data
        poison := mset false s.hbm.poison l false
        bad := mset none s.hbm.bad l none
        accs := (s.hbm.accs.filter fun x => !decide (x.id = i)) ++ [{ a with stage := .acked }] } }) ∧
      (a.poison = true → s.isPwin a = false → ∃ t, exec (.hbmWriteAccept i false) s = .next t ∧
        t.hbm.mem = memWrite s.hbm.mem (64 * l) 64 0 ∧ t.hbmPoisoned l = true ∧
        t.hbm.entry (s.entryIdx a.ctx a.vaddr) = (s.hbm.entry (s.entryIdx a.ctx a.vaddr)).markGranule l ∧
        (∀ j, j ≠ s.entryIdx a.ctx a.vaddr → t.hbm.entry j = s.hbm.entry j) ∧
        t = { s with hbm := { s.hbm with mem := t.hbm.mem, poison := t.hbm.poison, bad := t.hbm.bad, accs := t.hbm.accs, fmap := t.hbm.fmap
                                         sysGone := t.hbm.sysGone } })) ∧
    (a.stage = .acked → s.backFirst a = true → s.syu.inbound = [] → ∀ o, s.memOp a.op = some o → o.refused = none →
      (∀ w, o.kind = .hwr w → o.left = 1 → o.more = 0 → exec (.writeAcknowledgement i) s = .next ((dropped.dropMemOp a.op).freeTicket w false)) ∧
      (∀ w n, o.kind = .hwr w → o.left = n + 2 → exec (.writeAcknowledgement i) s = .next (dropped.setMemOp { o with left := n + 1 }))) ∧
    (a.stage = .toChan → a.write = false → s.lineFirst a (fun x => x.write) = true → mget none s.hbm.bad l = none →
      exec (.hbmReadReturn i) s = .next { s with hbm := { s.hbm with
        accs := (s.hbm.accs.filter fun x => !(s.merged a).contains x.id) ++ (s.hbm.accs.filter fun x => (s.merged a).contains x.id).map fun x =>
          { x with data := s.hbmLine l, poison := s.hbmPoisoned l, stage := .data } } }) ∧
    (a.stage = .data → s.backFirst a = true → s.syu.inbound = [] → ∀ o w n, s.memOp a.op = some o → o.refused = none → o.kind = .hrd w n →
      (s.tile w.tile).cap = none →
      let landed := dropped.landLine w.tile (n + a.idx) a.data a.poison true
      (o.left = 1 → o.more = 0 → exec (.readDataArrival i false) s = .next ((landed.dropMemOp a.op).freeTicket w true)) ∧
      (∀ k, o.left = k + 2 → exec (.readDataArrival i false) s = .next (landed.setMemOp { o with left := k + 1 })))) ∧
  (∀ (s : State) (l : Nat), l < 1024 * s.pln.physFrames → s.isOn (s.pln.frameDom (l / 1024)) = true → s.pln.fatal = false →
    (mget none s.hbm.bad l = none → exec (.errorCheckAndScrub l) s = .next s) ∧
    (mget none s.hbm.bad l = some false → exec (.errorCheckAndScrub l) s = .next { s with hbm := { s.hbm with
      bad := mset none s.hbm.bad l none, corrected := satAdd s.hbm.corrected 1 0xFFFFFFFF } }) ∧
    (mget none s.hbm.bad l = some true → l / 1024 < 4096 → exec (.errorCheckAndScrub l) s =
      .next (s.countUncorrectable.raise { code := 0x030B, devFatal := true, detail := l })) ∧
    (mget none s.hbm.bad l = some true → 4096 ≤ l / 1024 → s.hbm.entryOfFrame (l / 1024) = none → exec (.errorCheckAndScrub l) s =
      .next (({ s with hbm := { s.hbm with
        mem := memWrite s.hbm.mem (64 * l) 64 0
        poison := mset false s.hbm.poison l true
        bad := mset none s.hbm.bad l none
        suspect := mset false s.hbm.suspect (l / 1024) true
        uncorrectable := satAdd s.hbm.uncorrectable 1 0xFFFFFFFF } }).raise (s.hbmUncorrectable l true))))

/-- R354, R355, R379: a Frame Map command is refused with its reason (which one where several apply is the model's choice, log entry 170;
COUNT 0 as reason 2 and a frame that is zeroing or retired as reason 4 are its reading, log entry 54), or changes the entries of its range
and waits for the accesses that were translated under the old ones. One whose range is being copied reads busy until the copy is done (the
model's reading, log entry 151). -/
def Obligations.FrameMapCommands : Prop :=
  (∀ (s : State) (n v : Nat) (i : Instr), n < 2 → bit v 31 = true → (s.fm n).status ≠ 1 → s.fmCopying n v = true → s.pln.fatal = false →
    s.isOn 18 = true →
    (i, cmdOp v) ∈ ([(.map n v, 1), (.unmap n v, 2), (.setperm n v, 3), (.snapshot n v, 4), (.releaseSnapshot n v, 5),
      (.clearPoison n v, 6)] : List (Instr × Nat)) →
    let u := s.access (n + 1) (0x600310 + 0x40 * n)
    let x : FmSet := { s.fm n with cmd := bits v 0 12, status := 1, reason := 0, behindCopy := some v }
    exec i s = .next { u with hbm := { s.hbm with fm := mset {} s.hbm.fm n x } }) ∧
  (∀ (s : State) (n v : Nat), n < 2 → bit v 31 = true → (s.fm n).status ≠ 1 → s.fmCopying n v = false → s.pln.fatal = false → s.isOn 18 = true →
    let x := s.fm n
    let c := cmdCtx v
    let b := (s.ctx c).fmBase + x.first
    let u := s.access (n + 1) (0x600310 + 0x40 * n)
    let off (reason : Nat) : FmSet := { x with cmd := bits v 0 12, status := 3, reason := reason, behindCopy := none }
    let refused (reason : Nat) : State := { u with hbm := { s.hbm with fm := mset {} s.hbm.fm n (off reason) } }
    let taken (t : State) := t.fm n = { x with cmd := bits v 0 12, status := 1, reason := 0, behindCopy := none, waits := s.translated c x.first x.count } ∧
      (∀ i, i < b ∨ b + x.count ≤ i → t.entry i = s.entry i) ∧ t.hbm.accs = s.hbm.accs ∧ t.hbm.ops = s.hbm.ops ∧
      t.tiles = s.tiles ∧ t.syu = s.syu ∧ t.rmn = s.rmn ∧ t.lnk = s.lnk ∧ t.hif = s.hif ∧ t.outbox = s.outbox
    let each (p : FEntry → Prop) := ∀ j, j < x.count → p (s.entry (b + j))
    let oneOf (p : FEntry → Prop) := ∃ j, j < x.count ∧ p (s.entry (b + j))
    let inWindow := 0 < x.count ∧ x.first + x.count ≤ (s.ctx c).fmFrames
    (n = 1 → (cmdOp v = 1 → exec (.map n v) s = .next (refused 1)) ∧ (cmdOp v = 2 → exec (.unmap n v) s = .next (refused 1)) ∧
      (cmdOp v = 3 → exec (.setperm n v) s = .next (refused 1))) ∧
    (¬inWindow → n = 0 → (cmdOp v = 1 → exec (.map n v) s = .next (refused 2)) ∧ (cmdOp v = 2 → exec (.unmap n v) s = .next (refused 2)) ∧
      (cmdOp v = 3 → exec (.setperm n v) s = .next (refused 2))) ∧
    (inWindow → n = 0 → (cmdOp v = 1 → oneOf (fun e => e.valid = true) → exec (.map n v) s = .next (refused 3)) ∧
      (cmdOp v = 2 → oneOf (fun e => e.valid = false) → exec (.unmap n v) s = .next (refused 3)) ∧
      (cmdOp v = 3 → oneOf (fun e => e.valid = false) → exec (.setperm n v) s = .next (refused 3))) ∧
    (inWindow → (cmdOp v = 4 → oneOf (fun e => e.valid = false ∨ e.scopied = true) → exec (.snapshot n v) s = .next (refused 3)) ∧
      (cmdOp v = 5 → oneOf (fun e => e.valid = false) → exec (.releaseSnapshot n v) s = .next (refused 3)) ∧
      (cmdOp v = 6 → oneOf (fun e => e.valid = false) → exec (.clearPoison n v) s = .next (refused 3))) ∧
    (¬inWindow → (cmdOp v = 4 → exec (.snapshot n v) s = .next (refused 2)) ∧ (cmdOp v = 5 → exec (.releaseSnapshot n v) s = .next (refused 2)) ∧
      (cmdOp v = 6 → exec (.clearPoison n v) s = .next (refused 2))) ∧
    (inWindow → n = 0 → cmdOp v = 1 → each (fun e => e.valid = false) →
      ((∃ j, j < x.count ∧ s.mappable c (x.pframe + j) = false) → exec (.map n v) s = .next (refused 4)) ∧
      ((∀ j, j < x.count → s.mappable c (x.pframe + j) = true) → ∃ t, exec (.map n v) s = .next t ∧ taken t ∧ t.hbm.mem = s.hbm.mem ∧
        ∀ j, j < x.count → t.entry (b + j) = { valid := true, rd := bit v 9, wr := bit v 10, peer := bit v 11, ctx := c, pframe := x.pframe + j } ∧
          mget .pool t.hbm.frames (x.pframe + j) = .held c false)) ∧
    (inWindow → n = 0 → cmdOp v = 2 → each (fun e => e.valid = true) → ∃ t, exec (.unmap n v) s = .next t ∧ taken t ∧ t.hbm.mem = s.hbm.mem ∧
      ∀ j, j < x.count → t.entry (b + j) = {} ∧ mget .pool t.hbm.frames (s.entry (b + j)).pframe = .zeroing none ∧
        ((s.entry (b + j)).scopied = true → mget .pool t.hbm.frames (s.entry (b + j)).sframe = .zeroing none)) ∧
    (inWindow → n = 0 → cmdOp v = 3 → each (fun e => e.valid = true) → ∃ t, exec (.setperm n v) s = .next t ∧ taken t ∧
      t.hbm.mem = s.hbm.mem ∧ t.hbm.frames = s.hbm.frames ∧
      ∀ j, j < x.count → t.entry (b + j) = { s.entry (b + j) with rd := bit v 9, wr := bit v 10, peer := bit v 11 }) ∧
    (inWindow → cmdOp v = 4 → each (fun e => e.valid = true ∧ e.scopied = false) → ∃ t, exec (.snapshot n v) s = .next t ∧ taken t ∧
      t.hbm.mem = s.hbm.mem ∧ t.hbm.frames = s.hbm.frames ∧ ∀ j, j < x.count → t.entry (b + j) = { s.entry (b + j) with snap := true }) ∧
    (inWindow → cmdOp v = 5 → each (fun e => e.valid = true) → ∃ t, exec (.releaseSnapshot n v) s = .next t ∧ taken t ∧ t.hbm.mem = s.hbm.mem ∧
      (∀ j, j < x.count → t.entry (b + j) = { s.entry (b + j) with snap := false, scopied := false, sframe := 0 } ∧
        ((s.entry (b + j)).scopied = true → mget .pool t.hbm.frames (s.entry (b + j)).sframe = .zeroing (some c))) ∧
      (x.count = 1 → (s.entry b).scopied = true → (t.ctx c).cowLeft (s.pln.half (s.entry b).sframe) =
        (s.ctx c).cowLeft (s.pln.half (s.entry b).sframe) + 1)) ∧
    (inWindow → cmdOp v = 6 → each (fun e => e.valid = true ∧ ∀ l, l / 1024 = e.pframe → mget none s.hbm.bad l = none) →
      ∃ t, exec (.clearPoison n v) s = .next t ∧ taken t ∧ t.hbm.mem = s.hbm.mem ∧ t.hbm.frames = s.hbm.frames ∧
      ∀ j, j < x.count → t.entry (b + j) = { s.entry (b + j) with poison := (t.entry (b + j)).poison } ∧
        ∀ g, g < 64 → (bit (t.entry (b + j)).poison g = true ↔ bit (s.entry (b + j)).poison g = true ∧
          ∃ k, k < 16 ∧ s.hbmPoisoned ((s.entry (b + j)).pframe * 1024 + 16 * g + k) = true))) ∧
  (∀ (s : State) (n : Nat), n < 2 → (s.fm n).status = 1 → (s.fm n).behindCopy = none → s.pln.fatal = false →
    (∀ a ∈ s.hbm.accs, a.stage = .toChan → a.id ∉ (s.fm n).waits) →
    exec (.frameMapCommandComplete n) s = .next { s with hbm := { s.hbm with fm := mset {} s.hbm.fm n { s.fm n with status := 2, waits := [] } } })

/-- R359: a frame that is being zeroed holds zero at the end and returns where it came from, or is retired. R345, R373 to R376: an HBM domain
drains, loses what it held, its partner windows among it, and comes back with its context frames in the pool and the granules of its log
poisoned. That frames of partner windows and retired ones keep their state, that held frames keep theirs until the domain is On, and that
FENCED clears there, is the model's reading (log entry 56); that a DOWN request for a domain that is not On is refused is its choice (log
entry 182). -/
def Obligations.FramesAndDomains : Prop :=
  (∀ (s : State) (f : Nat) (back : Option Nat), f < 2 ^ 24 → mget .pool s.hbm.frames f = .zeroing back → s.isOn (s.pln.frameDom f) = true →
    (∀ a ∈ s.hbm.accs, a.stage = .toChan → a.phys / 65536 ≠ f) →
    let clean (st : FrameSt) : State := { s with hbm := { s.hbm with
      mem := mdrop (fun a => decide (a / 65536 = f)) s.hbm.mem
      poison := mdrop (fun l => decide (l / 1024 = f)) s.hbm.poison
      bad := mdrop (fun l => decide (l / 1024 = f)) s.hbm.bad
      frames := mset .pool s.hbm.frames f st
      suspect := mset false s.hbm.suspect f false } }
    (∀ bad, bad = false ∨ mget false s.hbm.suspect f = false →
      (back = none → exec (.frameZeroed f bad) s = .next (clean .pool)) ∧
      (∀ c, back = some c → exec (.frameZeroed f bad) s = .next (clean (.held c true)))) ∧
    (mget false s.hbm.suspect f = true → back = none → exec (.frameZeroed f true) s =
      .next ((clean .retired).raise { code := 0x030C, detail := f }))) ∧
  (∀ (s : State) (h : Nat), h < 2 → s.pln.fatal = false →
    let u := s.access 1 (0x600400 + 0x10 * h)
    let dom (t : State) (st : Nat) (x : Hdom) : State :=
      { t with pwr := { t.pwr with domains := mset {} t.pwr.domains (4 + h) { s.dom (4 + h) with st := st } }
               hbm := { t.hbm with hdom := mset {} t.hbm.hdom h x } }
    let inH (f : Nat) : Bool := decide (s.pln.half f = h)
    let mapped := s.hbm.fmap.filter fun kv => kv.2.valid && decide (s.pln.half kv.2.pframe = 1)
    let kept := s.hbm.frames.filter fun kv => !(inH kv.1 && (match kv.2 with | .zeroing _ => true | _ => false))
    let lost : State := { s with hbm := { s.hbm with
      fmap := if h = 0 then [] else s.hbm.fmap
      sysMapped := s.hbm.sysMapped && decide (h ≠ 0)
      sysGone := if h = 0 then [] else s.hbm.sysGone
      mem := mdrop (fun a => inH (a / 65536)) s.hbm.mem
      poison := mdrop (fun l => inH (l / 1024)) s.hbm.poison
      bad := mdrop (fun l => inH (l / 1024)) s.hbm.bad
      suspect := mdrop inH s.hbm.suspect
      frames := if h = 0 then mapped.foldl (fun m kv => mset .pool m kv.2.pframe (.zeroing none)) kept else kept } }
    (s.isOn 18 = true → s.mayDrain h = true → exec (.hbmDomainDown h) s = .next ((s.pwinsIn h).foldl (fun t p => t.mgmt p 5 [p])
      (dom u 3 { s.hdom h with down := true, confirmed := [] }))) ∧
    (s.isOn 18 = true → s.mayDrain h = false → exec (.hbmDomainDown h) s =
      .next (u.refusePower (4 + h) 0)) ∧
    (s.drained h = true → exec (.hbmDomainFence h) s =
      .next ((s.pwinsIn h).foldl
        (fun (t : State) p => { t with hbm := { t.hbm with pwin := mset {} t.hbm.pwin p { mget {} t.hbm.pwin p with lost := true } } })
        { dom lost 0 { s.hdom h with fenced := true, confirmed := [], down := false } with
          pln := { s.pln with trainPowered := false, hbmLost := true } })) ∧
    (s.drained h = false → exec (.hbmDomainFence h) s = .next s) ∧
    (h = 0 → s.allIdle = false → s.mayDrain h = false ∧ s.drained h = false) ∧
    (s.isOn 18 = true → (s.dom (4 + h)).st = 0 → s.isOn 0 = true → s.isOn 1 = true → exec (.hbmDomainUp h) s =
      .next (dom u 1 { s.hdom h with up := true })) ∧
    (s.isOn 18 = true → (s.dom (4 + h)).st = 0 → s.isOn 0 = false ∨ s.isOn 1 = false → exec (.hbmDomainUp h) s =
      .next (u.refusePower (4 + h) 1)) ∧
    ((s.dom (4 + h)).st = 1 →
      let stays (kv : Nat × FrameSt) : Bool := !inH kv.1 || s.inPwin kv.1 || decide (kv.2 = .retired)
      let back : State := { lost with hbm := { lost.hbm with frames := lost.hbm.frames.filter stays } }
      let dark (t : State) (g : Nat) := (List.range 16).foldl (fun (t : State) j => t.storeLine (16 * g + j) 0 true) t
      ∃ y, exec (.hbmDomainOn h) s = .next ((s.pwinsIn h).foldl (fun t p => t.mgmt p 7 [p]) (dom y 2 {})) ∧
        ((s.hdom h).log = [] → (s.hdom h).logOverflow = false → y = back) ∧
        ((s.hdom h).logOverflow = false → y = (s.hdom h).log.foldl dark back) ∧
        (∀ g ∈ (s.hdom h).log, ∀ j, j < 16 → y.hbmPoisoned (16 * g + j) = true) ∧
        ((s.hdom h).logOverflow = true → ∀ p ∈ s.pwinsIn h, ∀ l, (s.pwin p).first ≤ l / 1024 → l / 1024 < (s.pwin p).first + (s.pwin p).frames →
          inH (l / 1024) = true → y.hbmPoisoned l = true) ∧
        y = { back with hbm := { back.hbm with mem := y.hbm.mem, poison := y.hbm.poison, bad := y.hbm.bad } }))

/-- R367 to R371: an engine takes the next descriptor of the queue whose turn it is, reads and checks its payload, and moves its lines; the last
acknowledgement ends it. That a source in tile memory is read whole in the step that starts the descriptor, and how lines reach the
registers of space 0xF, are the model's choices (log entries 57 and 150); that HOST_POISON_RECEIVED is written when the descriptor ends, for one
without a host command too, is its reading (log entry 58). -/
def Obligations.DmaDescriptors : Prop :=
  (∀ (s : State) (e q : Nat) (r : RingRec), e < 16 → q < 32768 → s.nextDesc q = some r → s.pln.fatal = false →
    let x := s.queue q
    let d := s.newDesc e q r
    let c := x.ctx
    let n := dLines d.raw
    let va := x.payloadAddr r
    let l := s.physLine c va false
    let taken : State := { s with nextId := s.nextId + 1, hbm := { s.hbm with descs := s.hbm.descs ++ [d], nextQueue := mset 0 s.hbm.nextQueue e (q + 1) } }
    x.ownerKind = 2 → x.ownerId = e → x.state ≠ 0 → c < 17 → mget false s.hbm.stopped q = false →
    s.inTurn (mget 0 s.hbm.nextQueue e) q (s.dmaReady e) = true →
    (s.hbm.descs.filter fun d => decide (d.engine = e)).length < 8 → s.copying c va = false →
    s.sliceTest c va 2 q false false false = none → mget none s.hbm.bad l = none →
    (s.hbmPoisoned l = true → dFill d.raw = true → exec (.dmaFill e q) s = .next (taken.descFault d (descPoison c va))) ∧
    (s.hbmPoisoned l = false → (∀ rec, s.dmaCheck c q d.raw = some rec →
      (dFill d.raw = true → exec (.dmaFill e q) s = .next (taken.descFault d rec)) ∧
      (dFill d.raw = false → exec (.dmaCopy e q) s = .next (taken.descFault d rec))) ∧
    (s.dmaCheck c q d.raw = none → (∀ o ∈ s.hbm.ops, o.kind ≠ .dma d.id) →
      (dFill d.raw = true → dDstHost d.raw = false → dDstPwin d.raw = false → gSpace (dDst d.raw) = 0 → exec (.dmaFill e q) s =
        .next (taken.issueMem (.dma d.id) (.dma e) c (dDst d.raw) true false (List.replicate n (fillLine (dPattern d.raw), false)))) ∧
      (dFill d.raw = true → dDstHost d.raw = false → dDstPwin d.raw = false → gSpace (dDst d.raw) = 1 →
        (∀ k, mget false (s.tile (gTile (dDst d.raw))).err.meshUpset k = false) → (∀ y ∈ s.hbm.descs, y.id < d.id) →
        (s.tile (gTile (dDst d.raw))).cap = none →
        ∃ t, exec (.dmaFill e q) s = .next t ∧
          (t.tile (gTile (dDst d.raw))).holds (gOff (dDst d.raw) / 64) (List.replicate n (fillLine (dPattern d.raw), false)) ∧
          t.hbm.descs = s.hbm.descs ++ [{ d with acked := n }] ∧ t.hbm.mem = s.hbm.mem ∧ t.outbox = s.outbox ∧
          (∀ i, i ≠ gTile (dDst d.raw) → t.tile i = s.tile i) ∧
          ∀ a, a < gOff (dDst d.raw) ∨ gOff (dDst d.raw) + 64 * n ≤ a →
            memByte (t.tile (gTile (dDst d.raw))).mem a = memByte (s.tile (gTile (dDst d.raw))).mem a) ∧
      (dFill d.raw = false → dSrcHost d.raw = false → dSrcPwin d.raw = false → gSpace (dSrc d.raw) = 1 → dDstHost d.raw = false →
        dDstPwin d.raw = false → gSpace (dDst d.raw) = 0 →
        let t := s.tile (gTile (dSrc d.raw))
        exec (.dmaCopy e q) s = .next (taken.issueMem (.dma d.id) (.dma e) c (dDst d.raw) true false
          ((List.range n).map fun j => (t.line (gOff (dSrc d.raw) / 64 + j),
            t.poisoned (gOff (dSrc d.raw) / 64 + j) || t.parityBad (gOff (dSrc d.raw) / 64 + j))))) ∧
      (dFill d.raw = false → dSrcHost d.raw = true → (s.fn (fnOfCtx c)).mayIssue = true ∨ (s.fn (fnOfCtx c)).resetting = true →
        exec (.dmaCopy e q) s = .next (taken.askHost d (dAsks d.raw) 0)) ∧
      (dFill d.raw = false → dSrcHost d.raw = true → (s.fn (fnOfCtx c)).mayIssue = false → (s.fn (fnOfCtx c)).resetting = false →
        exec (.dmaCopy e q) s = .next (taken.descFault d (hostAbort c 4)))))) ∧
  (∀ (s : State) (i : Nat) (x : Desc), s.desc i = some x → x.regSrc = false → x.regLines ≠ [] → x.faulted = false → s.pln.fatal = false →
    s.isOn 1 = true → exec (.dmaDescriptorComplete i) s = .next (s.flushRegs i)) ∧
  (∀ (s : State) (i : Nat) (x : Desc), s.desc i = some x → x.acked = x.lines → x.faulted = false → s.pln.fatal = false →
    x.regSrc = false → x.regLines = [] →
    (s.hbm.descs.find? fun y => decide (y.queue = x.queue)) = some x → x.hostCmd = none → s.rmnError x.queue = none →
    let gone : State := { s with hbm := { s.hbm with
      descs := s.hbm.descs.filter fun y => !decide (y.id = i)
      completed := mset 0 s.hbm.completed x.engine (satAdd (mget 0 s.hbm.completed x.engine) 1 0xFFFFFFFF) } }
    let told := gone.writeRec { code := 0x0A02, ctx := x.ctx, detail := fnOfCtx x.ctx + min x.hostPoison 0xFFFFFF * 2 ^ 8 }
    let freed (t : State) := (t.rmnFix x.queue).setQueue x.queue ((s.queue x.queue).release 1)
    (dInc x.raw = false → x.hostPoison = 0 → exec (.dmaDescriptorComplete i) s = .next (freed gone)) ∧
    (dInc x.raw = false → x.hostPoison ≠ 0 → exec (.dmaDescriptorComplete i) s = .next (freed told)) ∧
    (dInc x.raw = true → x.hostPoison = 0 → s.syu.inbound = [] → gSpace (dCounter x.raw) = 3 →
      exec (.dmaDescriptorComplete i) s = .next (freed { gone with
        nextId := s.nextId + 1
        syu := { s.syu with inbound := [{ id := s.nextId, src := .dma x.engine, ctx := x.ctx, who := none, hostCmd := none, tag := 0
                                          body := .inc (gVid (dCounter x.raw)) (dAmount x.raw), stamp := s.stampNow }] } })))

/-- R384 to R391: a flit is accepted, or discarded and asked for again; a flit leaves with SEQ, ACK and credits and stays in the replay buffer
until it is acknowledged (one for each flit that arrives, and a request with a full buffer in its oldest flit: the model's choices, log
entry 147); each slot that leaves takes a credit of its class, and no class leaves beyond its credits; a port goes Down with one record
for each context bound on it, trains, negotiates, and comes Up or stops in Error. That lost lock and silence clear the signal, and that the
record of RETRAIN has a free cause, is the model's reading (log entry 62). -/
def Obligations.PortEvents : Prop :=
  ∀ (s : State) (k : Nat), k < 7 → s.pln.fatal = false →
    let p := s.port k
    let u := s.access 1 (0x701000 + 0x1000 * k)
    let empty : Port := { p with
      st := .down, version := 0, suspended := false, expected := 0, ackedSeq := 0, retrying := false, seq := 0, sent := [], tx := []
      begun := [], spent := [], returned := [], owed := [], flits := 0, badWord := 0, suspendDue := none
      abilitySent := false, partials := [], rx := [] }
    let counted : Port := if p.st = .up then { empty with downEvents := satAdd p.downEvents 1 0xFFFF } else empty
    let waits (x : Port) (c : Nat) := (mget [] x.begun c).length + ((x.tx.filter fun y => decide (y.pkt.cls = c)).map fun y => y.pkt.slots.length).sum
    let bound := below 16 fun c => s.bound c (s.lnk.named k)
    let ended (t : State) (cause : Nat) : State :=
      ({ t with lnk := { t.lnk with
        ports := mset {} t.lnk.ports k counted
        bindMsgs := t.lnk.bindMsgs.filter fun b => !decide (b.port = s.lnk.named k) } }).raiseAll
          (if bound.isEmpty then [{ code := 0x0701, ctx := 0xFFFF, detail := k + cause * 2 ^ 4 }]
           else bound.map fun c => { code := 0x0701, ctxFatal := true, ctx := c, detail := k + cause * 2 ^ 4 })
    let trains (x : Port) : Port := { x with st := .training, since := s.now }
    (p.st = .negotiating ∨ p.st = .up → ∀ f bad,
      let ok := flitSeq f = p.expected ∧ flitCrcOk f = true ∧ bad = false
      let s1 := s.drawn 1
      let heard : Port := { p.countFec bad s.freeValue with lastFlit := s.now }
      let took : Port := { heard with
        expected := (p.expected + 1) % 65536, retrying := false, ackedSeq := bits f 16 16, sent := unacked (bits f 16 16) p.sent
        returned := [0, 1, 2, 3].foldl (fun m c => mset 0 m c (mget 0 m c + bits f (40 + 6 * c) 6)) p.returned
        retries := if bit f 32 then satAdd p.retries 1 0xFFFFFFFF else p.retries }
      let next (x : Port) : State := (if bit f 32 then (s1.setPort k x).replay k else s1.setPort k x).sendFlit k false
      (ok → bit f 33 = true → exec (.flitReceive k f bad) s = .next (next took)) ∧
      (ok → bit f 33 = false → flitTag f 0 / 4 % 4 = 3 → byteOf (flitSlot f 0) 0 < 8 →
        (∀ i, 1 ≤ i → i < 4 → bit (flitTag f i) 2 = false ∧ (mget [] p.partials (bits (flitTag f i) 0 2) = [] ∨
          bits (flitTag f i) 0 2 = bits (flitTag f 0) 0 2)) →
        exec (.flitReceive k f bad) s = .next (next { took with
          partials := mset [] p.partials (bits (flitTag f 0) 0 2) []
          rx := p.rx ++ [packetOf (bits (flitTag f 0) 0 2) (flitSlot f 0) []] })) ∧
      (¬ok → exec (.flitReceive k f bad) s = .next ((s1.setPort k { heard with retrying := true }).sendFlit k (!p.retrying || bad || !flitCrcOk f))) ∧
      ((∃ x ∈ p.sent, 8 ≤ x.times) → exec (.replayLimit k) s = .next ((ended s 1).train k)) ∧
      exec (.laneLockLoss k) s = .next ((ended s 2).modPort k fun x => { x with signal := false }) ∧
      (p.lastFlit + ticksMs 1 ≤ s.now → exec (.linkSilence k) s = .next ((ended s 3).modPort k fun x => { x with signal := false }))) ∧
    (∀ retry,
      (4096 ≤ p.sent.length → s.sendFlit k false = s ∧
        ∀ x, p.sent.head? = some x → s.sendFlit k true = s.out (.flit k (againWith x.flit p.expected)) ∧
          flitSeq (againWith x.flit p.expected) = flitSeq x.flit ∧ flitAck (againWith x.flit p.expected) = p.expected % 65536 ∧
          flitRetry (againWith x.flit p.expected) = true ∧ flitCrcOk (againWith x.flit p.expected) = true) ∧
      (p.sent.length < 4096 → p.suspendDue = none → ∃ (f : Nat) (t : State), s.sendFlit k retry = t.out (.flit k f) ∧
        t = { s.setPort k (t.port k) with lnk := { (s.setPort k (t.port k)).lnk with waiting := t.lnk.waiting } } ∧
        (∀ c, c < 4 → mget 0 (t.port k).spent c + waits (t.port k) c = mget 0 p.spent c + waits p c ∧
          mget 0 (t.port k).spent c ≤ mget 0 p.spent c + 4 ∧
          (mget 0 p.spent c < mget 0 (t.port k).spent c → mget 0 (t.port k).spent c ≤ Config.linkCredits c + mget 0 p.returned c)) ∧
        (flitIdle f = true ↔ (t.port k).spent = p.spent) ∧
        (t.port k).seq = (p.seq + 1) % 65536 ∧ (t.port k).sent = p.sent ++ [{ seq := p.seq, flit := f, times := 0 }] ∧
        flitSeq f = p.seq % 65536 ∧ flitAck f = p.expected % 65536 ∧ flitRetry f = retry ∧ flitCrcOk f = true ∧
        ∀ c, c < 4 → flitCredits f c = min (mget 0 p.owed c) 63)) ∧
    s.replay k = { s.setPort k { p with sent := p.sent.map fun x => { x with times := x.times + 1 } } with
      outbox := (p.sent.map fun x => .flit k x.flit).reverse ++ s.outbox } ∧
    (s.isOn 3 = true →
      (p.st ≠ .down → exec (.portDisable k) s = .next ((ended u 4).modPort k fun x => { x with enable := false })) ∧
      (p.st = .down → exec (.portDisable k) s = .next (u.setPort k { p with enable := false })) ∧
      (p.st = .down → p.signal = true → exec (.portEnable k) s = .next (u.setPort k (trains { p with enable := true }))) ∧
      (p.st ≠ .down ∨ p.signal = false → exec (.portEnable k) s = .next (u.setPort k { p with enable := true })) ∧
      (p.st = .error → p.enable = true → p.signal = true → exec (.retrain k) s = .next (u.setPort k (trains empty))) ∧
      (p.st = .up → ∃ cause, cause < 8 ∧ exec (.retrain k) s = .next ((ended { u with freeCtr := u.freeCtr + 1 } cause).train k)) ∧
      (p.st ≠ .error → p.st ≠ .up → exec (.retrain k) s = .next u) ∧
      (p.st = .down → p.enable = true → exec (.linkSignalDetect k) s = .next (s.setPort k (trains { p with signal := true }))) ∧
      (p.st ≠ .down ∨ p.enable = false → exec (.linkSignalDetect k) s = .next (s.setPort k { p with signal := true }))) ∧
    (p.st = .training →
      (s.now ≤ p.since + ticksMs 250 → exec (.trainingComplete k true) s =
        .next ((s.setPort k { p with st := .negotiating, abilitySent := true, expected := 0, lastFlit := s.now }).out
          (.linkCtl k 1 [7, s.pln.fuses.verjoFloor, s.pln.fuses.moduleId, k, s.lnk.coord, bits s.lnk.wcfg 0 2]))) ∧
      (p.enable = true → p.signal = true →
        (s.now ≤ p.since + ticksMs 250 → exec (.trainingComplete k false) s = .next (s.setPort k (trains empty))) ∧
        (p.since + ticksMs 250 ≤ s.now → exec (.trainingTimeout k) s = .next (s.setPort k (trains empty))))) ∧
    (p.st = .negotiating → ∀ versions floor role peerPort peerId,
      let heard : Port := { p with peerPort := peerPort % 8, peerId := peerId }
      let top := topVersion versions
      let ability := exec (.ability k versions floor role peerPort peerId) s
      let failed (r : Nat) : State := (s.setPort k { heard with st := .error, error := r }).raise
        { code := 0x0702, detail := k + versions % 8 * 2 ^ 4 + s.pln.fuses.verjoFloor % 4 * 2 ^ 8 + r * 2 ^ 12 }
      (versions % 8 ≠ 0 → s.pln.fuses.verjoFloor ≤ top → peerPort = pairOf k →
        ability = .next (s.setPort k { heard with st := .up, version := top, error := 0 })) ∧
      (versions % 8 = 0 → ability = .next (failed 1)) ∧
      (versions % 8 ≠ 0 → top < s.pln.fuses.verjoFloor → ability = .next (failed 2)) ∧
      (versions % 8 ≠ 0 → s.pln.fuses.verjoFloor ≤ top → peerPort ≠ pairOf k → ability = .next (failed 3)))

/-- R394, R395, R415: BIND makes a matching pending entry ACTIVE, UNBIND closes it, a declaration is kept, and an entry that waits 30 s for
its BIND ends the admission. -/
def Obligations.BindingEvents : Prop :=
  (∀ (s : State) (port c peerCtx tag peer : Nat), port < 7 → c < 16 → peerCtx < 16 → (s.port port).st = .up → s.pln.fatal = false →
    let k := s.lnk.named port
    let b := s.binding k c
    let heard : State := { s with lnk := { s.lnk with
      bindMsgs := s.lnk.bindMsgs ++ [{ port := k, ctx := c, peerCtx := peerCtx, tag := tag, expected := peer }] } }
    (b.st = 1 → b.peerCtx = peerCtx → b.tag = tag → peer = s.pln.fuses.moduleId → (s.port (s.lnk.wire k)).peerId = b.peerId →
      exec (.bind port c peerCtx tag peer) s = .next (heard.setBinding k c { b with st := 2 })) ∧
    (b.st ≠ 1 ∨ (s.lnk.bindMsgs = [] ∧ (b.peerCtx ≠ peerCtx ∨ b.tag ≠ tag ∨ peer ≠ s.pln.fuses.moduleId)) →
      exec (.bind port c peerCtx tag peer) s = .next heard)) ∧
  (∀ (s : State) (port peerCtx tag cause : Nat), port < 7 → peerCtx < 16 → (s.port port).st = .up → s.pln.fatal = false →
    let k := s.lnk.named port
    let names (c : Nat) : Prop := ((s.binding k c).st = 1 ∨ (s.binding k c).st = 2) ∧ (s.binding k c).peerCtx = peerCtx ∧ (s.binding k c).tag = tag
    let gone : State := { s with lnk := { s.lnk with
      bindMsgs := s.lnk.bindMsgs.filter fun m => !(decide (m.port = k) && decide (m.peerCtx = peerCtx) && decide (m.tag = tag)) } }
    ((∀ c, c < 16 → ¬names c) → exec (.unbind port peerCtx tag cause) s = .next gone) ∧
    (∀ c, c < 16 → names c → (∀ j, j < c → ¬names j) →
      let closed := gone.setBinding k c { s.binding k c with st := 3 }
      (cause ≠ 2 ∨ s.live c = false → exec (.unbind port peerCtx tag cause) s = .next closed) ∧
      (cause = 2 → s.live c = true → exec (.unbind port peerCtx tag cause) s =
        .next (closed.raise { code := 0x0706, ctxFatal := true, ctx := c, detail := port })))) ∧
  (∀ (s : State) (port tag d4 d5 : Nat), port < 7 → (s.port port).st = .up → s.pln.fatal = false →
    exec (.reserve port tag d4 d5) s = .next { s with lnk := { s.lnk with
      reserves := s.lnk.reserves ++ [{ port := port, tag := tag, d4 := d4, d5 := d5 }] } }) ∧
  (∀ (s : State) (k c : Nat), k < 7 → c < 16 → (s.ctx c).st = .loading → s.pln.fatal = false → (s.binding k c).st = 1 →
    (s.binding k c).since + ticksMs 30000 ≤ s.now →
    exec (.bindTimeout k c) s = .next (s.raise { code := 0x0703, ctxFatal := true, ctx := c, detail := k }))

/-- R372, R374, R375, R391, R417, R418: writes into a partner window arrive, are held while it is suspended, and time out 10 ms after the
flit that sends them; SUSPENDED leaves behind the last write that is in a flit, and confirms for every domain in which the window lies (the
model's reading, log entry 56). That a write on a port other than +X and −X is refused with reason 5 is the model's choice (log entry 192). -/
def Obligations.PartnerWindowEvents : Prop :=
  ∀ (s : State), s.pln.fatal = false →
    (∀ k w, k < 7 → w < 2 → (s.port k).st = .up →
      let p := s.port k
      let inHalf (h : Nat) := s.pln.half (s.pwin w).first = h ∨ s.pln.half ((s.pwin w).first + (s.pwin w).frames - 1) = h
      (k = w → (s.pwin w).frames ≠ 0 → (∀ x ∈ p.rx, x.kind ≠ 7) → ∃ t, exec (.suspended k w) s = .next t ∧
        t = { s with hbm := { s.hbm with hdom := t.hbm.hdom } } ∧
        ∀ h, (h < 2 → inHalf h → t.hdom h = { s.hdom h with confirmed := (s.hdom h).confirmed ++ [w] }) ∧
          (2 ≤ h ∨ ¬inHalf h → t.hdom h = s.hdom h)) ∧
      (k ≠ w ∨ (s.pwin w).frames = 0 ∨ (∃ x ∈ p.rx, x.kind = 7) → exec (.suspended k w) s = .next s) ∧
      (p.suspended = true → ∀ c x, s.nextTx p c = some x → x.pkt.kind ≠ 7) ∧
      (k < 2 → p.version = 0 →
        let masked := Host.Outcome.next ((s.drawn 1).reply (s.lnk.named k) s.stampNow (headOf 9 0x10 0 0 0 0 (s.freeValue % 2 ^ 64) 0 3) 6 6 0 [])
        exec (.suspend k w) s = masked ∧ exec (.resume k w) s = masked) ∧
      (k < 2 → 1 ≤ p.version →
        (mget [] p.begun 1 = [] → exec (.suspend k w) s =
          .next ((s.setPort k { p with suspended := true, suspendDue := none }).out (.linkCtl (s.lnk.wire k) 6 [w]))) ∧
        (mget [] p.begun 1 ≠ [] → exec (.suspend k w) s = .next (s.setPort k { p with suspended := true, suspendDue := some w })) ∧
        (p.held = [] → exec (.resume k w) s = .next (s.setPort k { p with suspended := false, held := [] })) ∧
        (∀ x d, p.held = [x] → s.desc x.desc = some d → exec (.resume k w) s =
          .next ((s.setPort k { p with suspended := false, held := [] }).sendPeer k x.ctx (.dma d.engine) 7 0 x.offset 1 1
            [(x.data, x.poison)] (.dmaWrite d.id true (x.offset / 64)))))) ∧
    (∀ token w, s.waitingFor token = some w → s.unsent w = true → exec (.pwinWriteUnacked token) s = .next s) ∧
    (∀ token w d line, s.waitingFor token = some w → w.use = .dmaWrite d true line → s.unsent w = false → w.since + ticksMs 10 ≤ s.now →
      exec (.pwinWriteUnacked token) s = .next ((s.dropWaiting token).raise
        { code := 0x0707, ctxFatal := true, ctx := w.ctx, detail := w.port + line % 2 ^ 24 * 2 ^ 8 })) ∧
    (∀ k x rest, k < 7 → (s.port k).st = .up → (s.port k).rx = x :: rest → x.kind = 7 →
      let p := s.port k
      let w := s.pwin k
      let line := w.first * 1024 + x.addr / 64
      let taken := s.setPort k { p with rx := rest, owed := mset 0 p.owed x.cls (mget 0 p.owed x.cls + 1 + x.payload.length) }
      let stamp := s.stampIn k x.age
      let refused (reason : Nat) := taken.reply (s.lnk.named k) stamp x 6 reason 0 []
      let inside := k < 2 ∧ x.addr + 64 * x.payload.length ≤ w.frames * 65536
      (s.packetCtx k x = none → exec (.pwinWriteArrival k) s =
        .next ((refused 1).raise { code := 0x0704, detail := k + x.iss % 32 * 2 ^ 4 + x.kind % 16 * 2 ^ 12 })) ∧
      (∀ c, s.packetCtx k x = some c →
        (p.version = 0 → exec (.pwinWriteArrival k) s = .next (refused 6)) ∧
        (p.version ≠ 0 → ¬inside → exec (.pwinWriteArrival k) s = .next (refused 5)) ∧
        (∀ l, p.version ≠ 0 → inside → x.payload = [l] → (s.hdom (s.pln.half (line / 1024))).fenced = true →
          ∃ t, exec (.pwinWriteArrival k) s = .next t ∧ t.hbm.mem = s.hbm.mem ∧
            (line / 16 ∈ (t.hdom (s.pln.half (line / 1024))).log ∨ (t.hdom (s.pln.half (line / 1024))).logOverflow = true)) ∧
        (∀ v bad, p.version ≠ 0 → inside → x.payload = [(v, bad)] → (s.hdom (s.pln.half (line / 1024))).fenced = false →
          exec (.pwinWriteArrival k) s = .next { taken with
            nextId := s.nextId + 2
            hbm := { s.hbm with
              ops := s.hbm.ops ++ [{ id := s.nextId, kind := .peer k x.token, src := .port k, ctx := c, write := true, left := 1
                                     refused := none, meshBad := false }]
              accs := s.hbm.accs ++ [{ id := s.nextId + 1, src := .port k, ctx := c, op := s.nextId, idx := 0, vaddr := line * 64
                                       write := true, data := v, poison := bad, snap := false, phys := line * 64, stage := .toChan
                                       stamp := stamp }] }
            lnk := { taken.lnk with
              peerOps := s.lnk.peerOps ++ [{ id := s.nextId, port := s.lnk.named k, pkt := x, ctx := c, stamp := stamp }] } })))

/-- R285, R315, R391, R392, R396 to R398, R421, R427: a packet of a peer reads, writes or increments for the bound
context, or is refused; an answer ends what waited. The answer to an access of a context that is not Running, and an answer with an unknown
token that is ignored, are the model's reading (log entries 63 and 65), the reason on W in the twin role its choice (log entry 148). -/
def Obligations.RemotePackets : Prop :=
  ∀ (s : State) (k : Nat) (x : LPkt) (rest : List LPkt), k < 7 → (s.port k).st = .up → s.pln.fatal = false → (s.port k).rx = x :: rest →
    let p := s.port k
    let taken := s.setPort k { p with rx := rest, owed := mset 0 p.owed x.cls (mget 0 p.owed x.cls + 1 + x.payload.length) }
    let stamp := s.stampIn k x.age
    let nak (reason : Nat) := taken.reply (s.lnk.named k) stamp x 6 reason 0 []
    let got := exec (.remotePacketReceive k) s
    let opened (y : LPkt) (c : Nat) : State := { taken with lnk := { taken.lnk with
      peerOps := s.lnk.peerOps ++ [{ id := s.nextId, port := s.lnk.named k, pkt := y, ctx := c, stamp := stamp }] } }
    (x.kind = 1 ∨ x.kind = 2 ∨ x.kind = 4 →
      (s.packetCtx k x = none → got = .next ((nak 1).raise { code := 0x0704, detail := k + x.iss % 32 * 2 ^ 4 + x.kind % 16 * 2 ^ 12 })) ∧
      (∀ c, s.packetCtx k x = some c →
        (x.cls = 0 → p.version = 0 → got = .next (nak 6)) ∧ (s.lnk.twinOnly k = true → got = .next (nak 6)) ∧
        (x.cls ≠ 0 ∨ p.version ≠ 0 → s.lnk.twinOnly k = false →
          (x.kind = 4 → got = .next { opened x c with
            nextId := s.nextId + 1
            syu := { s.syu with inbound := s.syu.inbound ++ [{ id := s.nextId, src := .port k, ctx := c, who := none, hostCmd := none
                                                               tag := x.tag, body := .inc (gVid x.addr) x.info
                                                               stamp := stamp }] } }) ∧
          (x.kind = 1 → (s.ctx c).st = .running →
            got = .next ((opened x c).issueMemAt stamp (.peer k x.token) (.port k) c (bits x.addr 0 40) true false x.payload)) ∧
          (x.kind = 2 → (s.ctx c).st = .running →
            let blank := List.replicate x.lines (0, false)
            got = .next ((opened { x with payload := blank } c).issueMemAt stamp (.peer k x.token) (.port k) c (bits x.addr 0 40) false false
              blank)) ∧
          (x.kind ≠ 4 → (s.ctx c).st ≠ .running → (s.ctx c).fmFrames = 0 → got = .next ((nak 3).raise
            { code := 0x0301, ctx := c, addr := x.addr, detail := 3 + b2n (decide (x.kind = 1)) * 2 ^ 4 }))))) ∧
    (x.kind = 3 ∨ x.kind = 5 → s.waitingFor x.token = none → got = .next taken) ∧
    (∀ w, s.waitingFor x.token = some w → s.syu.inbound = [] →
      let done := taken.dropWaiting x.token
      (∀ d win l, x.kind = 5 → w.use = .dmaWrite d win l → got = .next (done.modDesc d fun y => { y with acked := y.acked + 1 })) ∧
      (∀ d, x.kind = 5 → w.use = .collWrite d → got = .next (done.modCDesc d fun y => { y with left := y.left - 1 })) ∧
      (∀ a, x.kind = 5 → w.use = .inc none a → got = .next done) ∧
      (∀ who a, x.kind = 5 → w.use = .inc (some who) a → got = .next (done.freeTicket who false)) ∧
      (∀ d l n y, x.kind = 3 → w.use = .dmaRead d l n → done.desc d = some y → dDstHost y.raw = false → dDstPwin y.raw = false →
        gSpace (dDst y.raw) = 0 → overlapBy y.raw = 0 → (∀ o ∈ s.hbm.ops, o.kind ≠ .dma y.id) → y.lines ≤ x.payload.length → y.id = d →
        got = .next (done.issueMem (.dma y.id) (.dma y.engine) y.ctx (dDst y.raw + 64 * l) true false x.payload)) ∧
      (∀ d l n, x.kind = 5 → w.use = .dmaRead d l n → got = .next taken)) ∧
    (x.kind = 6 →
      let v := s.freeValue
      let peers := if x.info = 1 then 0x0704 else if x.info = 3 ∨ x.info = 4 then 0x0301 + v % 6 else 0
      let refusedRec (w : Waiting) : FaultRec :=
        { code := 0x0705, ctxFatal := true, ctx := w.ctx, detail := w.port + x.info % 16 * 2 ^ 4 + peers * 2 ^ 8 }
      let reason := if x.info = 2 then 1 else if x.info = 1 ∨ x.info = 3 then 2 else v % 4
      let incRec (w : Waiting) (a : Nat) : FaultRec :=
        { code := 0x0505, ctxFatal := true, ctx := w.ctx, addr := a, detail := w.port + reason * 2 ^ 4 }
      (s.waitingFor x.token = none → exec (.nakReceive k) s = .next taken) ∧
      (∀ w, s.waitingFor x.token = some w →
        let done := (taken.dropWaiting x.token).drawn 1
        (∀ d win l y, w.use = .dmaWrite d win l → done.desc d = some y →
          exec (.nakReceive k) s = .next (done.descFault y (refusedRec w))) ∧
        (∀ d, w.use = .collWrite d → exec (.nakReceive k) s = .next (done.cdescFault d (refusedRec w))) ∧
        (∀ a, w.use = .inc none a → exec (.nakReceive k) s = .next (done.raise (incRec w a))) ∧
        (∀ o a, w.use = .inc (some o) a → exec (.nakReceive k) s = .next ((done.noteWho o).raise
          { incRec w a with locValid := true, tile := o.tile, superstep := s.superstepOf o.tile, opIndex := o.opIndex }))))

/-- R399 to R408: a collective unit takes the next descriptor of its queue, refuses it with the first reason of R401, or reads its operands,
computes in the reduction format and writes the result; the last acknowledgement ends it. A unit takes its queues in turn. The reason of a
unit whose own port its context has not bound is the model's reading (log entry 149); that the EXPMAX row takes a descriptor with an unknown
opcode, to refuse it, is its choice (log entry 66). -/
def Obligations.Collectives : Prop :=
  (∀ (s : State) (u q : Nat) (r : RingRec), u < 7 → q < 32768 → s.nextCDesc q = some r → s.pln.fatal = false →
    let x := s.queue q
    let c := x.ctx
    let raw := s.descRaw q r
    let va := x.payloadAddr r
    let l := s.physLine c va false
    let d : CDesc := { id := s.nextId, unit := u, queue := q, ctx := c, raw := raw, left := 0, own := none, twin := none, written := false
                       faulted := false }
    let taken : State := { s with nextId := s.nextId + 1, lnk := { s.lnk with
      cdescs := s.lnk.cdescs ++ [d], nextQueue := mset 0 s.lnk.nextQueue u (q + 1) } }
    let lines (a n : Nat) : List (Nat × Bool) := (List.range n).map fun j =>
      (s.hbmLine (s.physLine c (a + 64 * j) false), s.hbmPoisoned (s.physLine c (a + 64 * j) false))
    x.ownerKind = 3 → x.ownerId = u → x.state ≠ 0 → c < 16 → mget false s.hbm.stopped q = false →
    s.inTurn (mget 0 s.lnk.nextQueue u) q (s.collReady u) = true →
    (s.lnk.cdescs.filter fun d => decide (d.unit = u)).length < 4 → s.hbm.copies = [] → s.hbm.bad = [] →
    (∀ a ∈ s.hbm.accs, a.src ≠ .coll u) → (∀ y ∈ s.lnk.cdescs, y.id < s.nextId) →
    s.sliceTest c va 3 0 false false false = none → s.hbmPoisoned l = false →
    (∀ reason, s.cInvalid u c raw = some reason →
      let t := Host.Outcome.next (taken.cdescFault d.id { code := 0x0708, ctxFatal := true, ctx := c, detail := q + reason * 2 ^ 16 + u * 2 ^ 20 })
      (cRow raw = 0x21 → exec (.collectiveExpmax u q) s = t) ∧ (cRow raw = 0x22 → exec (.collectiveEncode u q) s = t) ∧
      (cRow raw = 0x23 → exec (.collectiveAdd u q) s = t) ∧ (cRow raw = 0x24 → exec (.collectiveDecode u q) s = t) ∧
      (cRow raw = 0x30 → exec (.collectiveDigest u q) s = t)) ∧
    (s.cInvalid u c raw = none → s.runRefused c (cSrcA raw) (cLinesA raw) 3 0 false = none →
      (∀ row cmd f, (row, cmd, f) ∈ [(0x21, Instr.collectiveExpmax u q, expmaxOut), (0x22, .collectiveEncode u q, encodeOut),
          (0x23, .collectiveAdd u q, addOut), (0x24, .collectiveDecode u q, decodeOut)] →
        cOpcode raw = row → s.runRefused c (cSrcB raw) (cLinesB raw) 3 0 false = none →
        let o : DrfOut := f raw (lines (cSrcA raw) (cLinesA raw)) (lines (cSrcB raw) (cLinesB raw))
        let left := (if cDst raw = 0 then 0 else o.lines.length) + if cSend raw then o.lines.length else 0
        let base : State := { taken with lnk := { taken.lnk with cdescs := s.lnk.cdescs ++ [{ d with left := left }] } }
        let here := if cDst raw = 0 then base else base.issueMem (.coll d.id) (.coll u) c (cDst raw) true false o.lines
        let sent := if cSend raw then ((List.range o.lines.length).zip o.lines).foldl (fun (t : State) x =>
          t.sendPeer u c (.coll u) 1 0 (bits (cPeerDst raw + 64 * x.1) 0 40) 0 1 [x.2] (.collWrite d.id)) here else here
        (o.noted = 0 → exec cmd s = .next sent) ∧
        (o.noted ≠ 0 → exec cmd s = .next (sent.raise { code := 0x0709, ctx := c
                                                        detail := q + b2n (decide (row = 0x22)) * 2 ^ 15 + min o.noted 0xFFFF * 2 ^ 16 }))) ∧
      (cOpcode raw = 0x30 → cCount raw = 1 → ∀ e, s.hbmLine (s.physLine c (cSrcA raw) false) = e →
        s.hbmPoisoned (s.physLine c (cSrcA raw) false) = false → e % 64 = 0 → bits e 64 64 = 1 → s.inHbm c (bits e 0 64) 1 = true →
        s.runRefused c (bits e 0 64) 1 3 0 false = none → s.hbmPoisoned (s.physLine c (bits e 0 64) false) = false →
        (∀ y ∈ s.lnk.digests, y.ctx ≠ c) →
        let b := s.binding 6 c
        let digest := sha3 (cSrcB raw + b.tag % 2 ^ 32 * 2 ^ 64 + 2 ^ 96 + s.hbmLine (s.physLine c (bits e 0 64) false) * 2 ^ 128) 80
        ∃ t, exec (.collectiveDigest u q) s = .next t ∧ t.lnk.cdescs = s.lnk.cdescs ++ [{ d with own := some (digest, false) }] ∧
          t.outbox = .linkCtl 6 8 [c, b.peerCtx, b.tag, cSrcB raw, digest, 0, b2n (bit raw 17), 0] :: s.outbox ∧
          t = { s with nextId := s.nextId + 1, outbox := t.outbox, lnk := { s.lnk with
            cdescs := t.lnk.cdescs, history := t.lnk.history, nextQueue := mset 0 s.lnk.nextQueue u (q + 1) } }))) ∧
  (∀ (s : State) (i : Nat) (x : CDesc), s.cdesc i = some x → x.left = 0 → x.faulted = false → (cDigest x.raw = true → x.written = true) →
    s.pln.fatal = false → (s.lnk.cdescs.find? fun y => decide (y.queue = x.queue)) = some x →
    let gone : State := { s with lnk := { s.lnk with cdescs := s.lnk.cdescs.filter fun y => !decide (y.id = i) } }
    let freed (t : State) := (t.rmnFix x.queue).setQueue x.queue ((s.queue x.queue).release 1)
    s.rmnError x.queue = none →
    (cInc x.raw = false → exec (.collectiveDescriptorComplete i) s = .next (freed gone)) ∧
    (cInc x.raw = true → s.syu.inbound = [] → gSpace (cCounter x.raw) = 3 → exec (.collectiveDescriptorComplete i) s =
      .next (freed { gone with
        nextId := s.nextId + 1
        syu := { s.syu with inbound := [{ id := s.nextId, src := .coll x.unit, ctx := x.ctx, who := none, hostCmd := none, tag := 0
                                          body := .inc (gVid (cCounter x.raw)) (cAmount x.raw), stamp := s.stampNow }] } })))

/-- R391, R398, R421 to R424: a twin's digest is refused, answered from the kept ones, compared with the own one, or held. A comparison ends
as a match, a mismatch, with a poisoned digest on this side or on the twin's, or as NOT_HELD. The reason of a NAK to a DIGEST outside the
twin role is the model's choice (log entry 174). -/
def Obligations.TwinDigests : Prop :=
  ∀ (s : State) (peerCtx tag label digest : Nat) (poisoned notHeld : Bool), peerCtx < 16 → (s.port 6).st = .up → s.pln.fatal = false →
    let got (ask : Bool) := exec (.digestReceive peerCtx tag label digest poisoned ask notHeld) s
    let p := headOf 8 peerCtx 0 0 0 0 0 tag 1
    let who := s.bindingCtx 6 peerCtx tag fun st => decide (st = 2)
    let twin := 2 ≤ (s.port 6).version ∧ bits s.lnk.wcfg 0 2 = 1
    let answer (c : Nat) (d : Nat) (bad missing : Bool) : State :=
      s.out (.linkCtl 6 8 [c, (s.binding 6 c).peerCtx, tag, label, d, b2n bad, 0, b2n missing])
    (who = none → ∀ ask, got ask = .next ((s.reply (s.lnk.named 6) (s.stampIn 6 0) p 6 1 0 []).raise
      { code := 0x0704, detail := 6 + peerCtx * 2 ^ 4 + 8 * 2 ^ 12 })) ∧
    (∀ c, who = some c →
      (¬twin → ∀ ask, got ask = .next (s.reply (s.lnk.named 6) (s.stampIn 6 0) p 6 6 0 [])) ∧
      (twin →
        ((∀ y ∈ s.lnk.history, y.ctx = c → y.label ≠ label) → got true = .next (answer c 0 false true)) ∧
        (∀ y, (s.lnk.history.reverse.find? fun y => decide (y.ctx = c) && decide (y.label = label)) = some y → y.ctx = c → y.label = label →
          got true = .next (answer c y.digest y.poisoned y.notHeld)) ∧
        (s.digestWaits c label = none → (s.lnk.digests.filter fun y => decide (y.ctx = c)).length < 16 → got false =
          .next { s with lnk := { s.lnk with digests := s.lnk.digests ++
            [{ ctx := c, label := label, tag := tag, digest := digest % 2 ^ 256, poisoned := poisoned, ask := false, notHeld := notHeld }] } }) ∧
        (∀ d own bad, s.digestWaits c label = some d → d.own = some (own, bad) → cDst d.raw ≠ 0 →
          let o := if notHeld then 5 else if bad then 3 else if poisoned then 4 else if own = digest % 2 ^ 256 then 1 else 2
          let sent := ({ s with lnk := { s.lnk with cdescs := s.lnk.cdescs.map fun (x : CDesc) => if x.id = d.id then
            { x with own := some (own, bad), twin := some (digest % 2 ^ 256, poisoned), written := true, left := 2 } else x } }).issueMem
              (.coll d.id) (.coll d.unit) d.ctx (cDst d.raw) true false
              [(own + digest % 2 ^ 256 * 2 ^ 256, false), (label + o * 2 ^ 64, false)]
          (o = 1 ∨ o = 5 → got false = .next sent) ∧
          (2 ≤ o → o ≤ 4 → got false = .next (sent.raise { code := 0x070A, ctx := d.ctx, detail := o + label % 2 ^ 28 * 2 ^ 4 })))))

/-- R207, R213 to R215, R221, R225, R226, R231, R232: counts and reports reach the TEL block, the gate decides COMMIT or SKIP and appends the
records of the step to the telemetry ring, or counts those that find no room; the ring's reader moves TAIL, and every other write of it is
ignored. That a window's W_INIT is used as it stands at step 0 is the model's choice (log entry 181). -/
def Obligations.TelEvents : Prop :=
  (∀ (s : State) (i : Nat) (x : TelItem), s.telItem i = some x → s.pln.fatal = false → s.syu.inbound = [] →
    let gone : State := { s with telItems := s.telItems.filter fun y => !decide (y.id = i) }
    let t := s.tel x.ctx
    (∀ n id p, x.body = .counts n [(id, p)] →
      let sum (m : SMap Patina) := mset {} m id ((mget {} m id).plus p)
      (t.step < n → exec (.patinaCountsReceive i) s = .next (gone.setTel x.ctx { t with nextTotals := sum t.nextTotals })) ∧
      (n ≤ t.step → exec (.patinaCountsReceive i) s = .next (gone.setTel x.ctx { t with totals := sum t.totals }))) ∧
    (∀ layer q bits64 n nf, x.body = .calipers layer q bits64 n nf →
      let c := mget {} t.calipers (8 * layer + q)
      let init := sext 16 (bits t.calipersCfg 0 16)
      let w := if c.wset then c.w else if t.step = 0 then init else max (-1100) (min init 1000)
      let put (y : Caliper) := Host.Outcome.next (gone.setTel x.ctx { t with calipers := mset {} t.calipers (8 * layer + q) y })
      (∀ neg m e, decodeF fp64 bits64 = .fin neg m e →
        let k := roundAt .rtz m e w
        let y : Caliper := { c with count := (c.count + n) % 2 ^ 64, nonfinite := c.nonfinite || nf, sticky := c.sticky || !magLe m e k w }
        (c.v + k < 2 ^ 128 → exec (.calipersReport i) s = put { y with v := c.v + k }) ∧
        (2 ^ 128 ≤ c.v + k → exec (.calipersReport i) s = put { y with v := 2 ^ 128 - 1, saturated := true })) ∧
      ((decodeF fp64 bits64).nonFinite = true →
        exec (.calipersReport i) s = put { c with count := (c.count + n) % 2 ^ 64, nonfinite := true }))) ∧
  (∀ (s : State) (c : Nat), c < 16 → (s.tel c).gateMet = true → (s.ctx c).st = .running → s.pln.fatal = false →
    (∀ j, (s.tile j).cap = none) → (s.tel c).ringOn = false →
    mget none s.syu.badCounters (s.phys c ((s.tel c).nfVid (s.tel c).step)) = none →
    let t := s.tel c
    let n := t.step
    let v := mget 0 s.syu.counters (s.phys c (t.nfVid n))
    let votes := (v + 2 ^ 64 - (if n % 2 = 0 then t.base0 else t.base1)) % 2 ^ 64
    let e := sext 8 t.e
    let after (u : State) (skip : Bool) : Prop :=
      (u.tel c).step = n + 1 ∧ (u.tel c).last = (if skip then 2 else 1) ∧ (u.tel c).gateMet = false ∧ (u.tel c).watching = true ∧
      (u.tel c).totals = t.nextTotals ∧ (u.tel c).nextTotals = [] ∧
      (if n % 2 = 0 then (u.tel c).base0 = v ∧ (u.tel c).base1 = t.base1 else (u.tel c).base1 = v ∧ (u.tel c).base0 = t.base0) ∧
      (∀ j, (s.tset (tsetOf j)).owner = c → (s.tile j).gate = .wait → (s.tile j).gateStep = n →
        u.tile j = { s.tile j with gate := if skip then .skip else .commit }) ∧
      (∀ j, (s.tset (tsetOf j)).owner ≠ c ∨ (s.tile j).gate ≠ .wait ∨ (s.tile j).gateStep ≠ n → u.tile j = s.tile j) ∧
      (∃ x, u.hbm.accs = s.hbm.accs ++ [x] ∧ x.src = .tel c ∧ x.ctx = c ∧ x.vaddr = t.recordAddr ∧ x.write = true ∧
        x.data = numRecord n (if skip then 2 else 1) (u.tel c).e (u.tel c).skipStreak (u.tel c).commitStreak t.satBitmap) ∧
      u.syu.inbound.map (fun x => x.body) = s.syu.inbound.map (fun x => x.body) ++ [.inc t.decideVid 1,
        .reg { ctx := c, vid := t.gateVid, cmp := 0, expect := (n + 2) * t.target % 2 ^ 64, t := 0, dest := .tel, bank := none, hostCmd := none }]
    (t.skipEnable = false ∨ votes = 0 → ∃ u, exec (.gateDecision c) s = .next u ∧ after u false ∧ (u.tel c).skipStreak = 0 ∧ u.pln = s.pln ∧
      (t.growInterval ≠ 0 → t.commitStreak + 1 = t.growInterval → (u.tel c).commitStreak = 0 ∧ sext 8 (u.tel c).e = min (e + 1) t.eMax) ∧
      (t.commitStreak + 1 ≠ t.growInterval → (u.tel c).commitStreak = (t.commitStreak + 1) % 2 ^ 32 ∧ (u.tel c).e = t.e)) ∧
    (t.skipEnable = true → votes ≠ 0 → t.skipLimit = 0 ∨ min (t.skipStreak + 1) 255 ≠ t.skipLimit → ∃ u, exec (.gateDecision c) s = .next u ∧
      after u true ∧ (u.tel c).skipStreak = min (t.skipStreak + 1) 255 ∧ (u.tel c).commitStreak = 0 ∧
      (t.eMin < e → (u.tel c).e = wrapInt 8 (e - 1)) ∧ (e ≤ t.eMin → (u.tel c).e = t.e) ∧
      (s.pln.enabled = true → { code := if e = t.eMin then 0x0402 else 0x0401, ctx := c
                                detail := (u.tel c).e + (u.tel c).skipStreak * 2 ^ 8 : FaultRec } ∈ u.pln.frq)) ∧
    (t.skipEnable = true → votes ≠ 0 → t.skipLimit ≠ 0 → min (t.skipStreak + 1) 255 = t.skipLimit → ∃ u r,
      exec (.gateDecision c) s = .next u ∧ r = { code := 0x0403, ctxFatal := true, ctx := c, detail := (u.tel c).e + t.skipLimit * 2 ^ 8 } ∧
      (u.ctx c).st = .running ∧ (u.ctx c).afterDecide = some r ∧ (s.pln.enabled = true → r ∈ u.pln.frq) ∧
      (u.tel c).step = n + 1 ∧ (u.tel c).last = 2 ∧ (u.tel c).watching = false ∧
      u.syu.inbound.map (fun x => x.body) = s.syu.inbound.map (fun x => x.body) ++ [.inc t.decideVid 1])) ∧
  (∀ (s : State) (c : Nat) (r : FaultRec), (s.ctx c).afterDecide = some r → r.ctx = c → (∀ j, j ≠ c → (s.ctx j).afterDecide = none) →
    (s.decideOver c = true → s.afterOrder7 = s.consequence r) ∧ (s.decideOver c = false → s.afterOrder7 = s)) ∧
  (∀ (s : State) (c : Nat), s.decideOver c = true ↔
    (∀ x ∈ s.syu.inbound ++ s.syu.accepted, x.src ≠ .tel c) ∧
    (∀ n ∈ s.syu.notifs, n.reg.ctx = c → n.reg.vid ≠ (s.tel c).decideVid) ∧
    (∀ o ∈ s.hbm.ops, o.ctx = c → o.kind ≠ .notif (s.tel c).decideVid)) ∧
  (∀ (s : State) (c : Nat), c < 16 → (s.tel c).gateMet = true → (s.ctx c).st = .running → s.pln.fatal = false →
    (∀ j, (s.tile j).cap = none) → (s.tel c).ringOn = true → (s.tel c).skipEnable = false →
    mget none s.syu.badCounters (s.phys c ((s.tel c).nfVid (s.tel c).step)) = none →
    let t := s.tel c
    let n := 1 + t.followers.length
    let room := 2 ^ t.ringL - (t.head + 2 ^ 32 - t.tail) % 2 ^ 32
    let filled (u : State) (k : Nat) := (u.tel c).head = (t.head + k) % 2 ^ 32 ∧ u.hbm.accs.length = s.hbm.accs.length + 1 + k
    ∃ u, exec (.gateDecision c) s = .next u ∧ (u.tel c).step = t.step + 1 ∧ (u.tel c).last = 1 ∧ (u.tel c).tail = t.tail ∧
      (n ≤ room → filled u n ∧ (u.tel c).dropped = t.dropped ∧ ∃ x ∈ u.hbm.accs, x.src = .tel c ∧ x.write = true ∧
        x.vaddr = t.ringBase + 64 * (t.head % 2 ^ t.ringL) ∧ x.data % 2 ^ 128 = telHead 1 0 t.head t.step) ∧
      (1 ≤ room → room < n → filled u 1 ∧ (u.tel c).dropped = satAdd t.dropped (n - 1) 0xFFFFFFFF ∧ ∃ x ∈ u.hbm.accs, x.src = .tel c ∧
        x.write = true ∧ x.vaddr = t.ringBase + 64 * (t.head % 2 ^ t.ringL) ∧ x.data % 2 ^ 128 = telHead 1 1 t.head t.step) ∧
      (room = 0 → filled u 0 ∧ (u.tel c).dropped = satAdd t.dropped n 0xFFFFFFFF)) ∧
  (∀ (s : State) (m c v : Nat), c < 16 → (m ≠ 2 ∧ m ≠ 0x10 ∧ m ≠ 0x11 + c) ∨ s.claims m = false ∨ s.isOn 18 = false ∨
      ((s.tel c).head + 2 ^ 32 - (s.tel c).tail) % 2 ^ 32 < (v % 2 ^ 32 + 2 ^ 32 - (s.tel c).tail) % 2 ^ 32 →
    exec (.telRingTailWrite m c v) s = .next s) ∧
  (∀ (s : State) (m c v : Nat), c < 16 → m = 2 ∨ m = 0x10 ∨ m = 0x11 + c → s.claims m = true → s.isOn 18 = true →
    (v % 2 ^ 32 + 2 ^ 32 - (s.tel c).tail) % 2 ^ 32 ≤ ((s.tel c).head + 2 ^ 32 - (s.tel c).tail) % 2 ^ 32 →
    exec (.telRingTailWrite m c v) s = .next ((s.access m (0xA0004C + 0x1000 * c)).setTel c { s.tel c with tail := v % 2 ^ 32 }))

/-- R438, R439: a doorbell moves the host's index, is counted, or stops its ring; a ring is enabled, disabled and reset, and an entry that a
completion or event ring still holds goes with its reset. That doorbells are judged whatever ENABLE says, and that a ring in Error stays in
Error until its reset, is the model's reading (log entry 80). -/
def Obligations.HostRings : Prop :=
  ∀ (s : State) (f r : Nat), f < 17 → r < 3 → s.claims (0x10 + f) = true → s.pln.fatal = false →
    let x := (s.fn f).ring r
    let put (t : State) (y : Ring) := t.setFn f ((s.fn f).setRing r y)
    let u := s.access (0x10 + f) (0x101108 + 0x1000 * f + 0x40 * r)
    (∀ w, let n := w % 2 ^ 32
      let ahead (a b : Nat) : Int := sext 32 ((a + 2 ^ 32 - b) % 2 ^ 32)
      let beyond := if r = 0 then 2 ^ x.l < (n + 2 ^ 32 - x.device) % 2 ^ 32 else 0 < ahead n x.device
      (ahead n x.host ≤ 0 → r = 0 → exec (.doorbell f r w) s = .next (put s { x with count := satAdd x.count 1 0xFFFFFFFF })) ∧
      (ahead n x.host ≤ 0 → r ≠ 0 → exec (.doorbell f r w) s = .next s) ∧
      (0 < ahead n x.host → beyond → exec (.doorbell f r w) s = .next ((put s { x with st := 2, cause := 1 }).raise
        { code := 0x0A04, ctx := if f = 0 then 16 else f - 1, detail := f + r * 2 ^ 5 })) ∧
      (0 < ahead n x.host → ¬beyond → exec (.doorbell f r w) s = .next ((put s { x with host := n }).fetch f))) ∧
    (x.enable = false → 6 ≤ x.l → x.l ≤ 16 → x.base % 4096 = 0 → exec (.ringEnable f r true) s =
      .next ((put u { x with enable := true, st := if x.st = 2 then 2 else 1 }).fetch f)) ∧
    (x.enable = true ∨ x.l < 6 ∨ 16 < x.l ∨ x.base % 4096 ≠ 0 → exec (.ringEnable f r true) s = .next u) ∧
    (r ≠ 1 ∨ (s.hif.cmds.filter fun k => decide (k.fn = f)) = [] → exec (.ringEnable f r false) s =
      .next (put u { x with enable := false, st := if x.st = 2 then 2 else 0 })) ∧
    (r = 1 → (s.hif.cmds.filter fun k => decide (k.fn = f)) ≠ [] → exec (.ringEnable f r false) s = .next u) ∧
    (x.enable = true → exec (.ringReset f r) s = .next u) ∧
    (x.enable = false → r ≠ 0 → exec (.ringReset f r) s =
      .next (u.setFn f { (s.fn f).setRing r { x with device := 0, host := 0, st := 0, cause := 0 } with
        heldEntries := (s.fn f).heldEntries.filter fun e => !decide (e.1 = r) })) ∧
    (x.enable = false → r = 0 → exec (.ringReset f r) s =
      .next (u.setFn f { (s.fn f).setRing 0 { x with device := 0, host := 0, st := 0, cause := 0 } with fetching := none }))

/-- R442 to R447, R576: what each host command does when it starts, in the order in which the function's commands were fetched. The queue
that firmware names for the PF is the model's choice (log entry 150), and so are the staging reads, descriptor first and within a page and the
Max Read Request Size (log entry 75); a second ADMIT as NOT_PERMITTED and check 14 at once are its reading (log entries 77 and 78). -/
def Obligations.HostCommands : Prop :=
  ∀ (s : State) (f : Nat) (k : Cmd), f < 17 → s.pln.fatal = false →
    ((s.hif.cmds.filter fun k => decide (k.fn = f)).find? fun k => decide (k.st = .fetched)) = some k →
    let fn := s.fn f
    let x := s.ctx (f - 1)
    let c := if f = 0 then 16 else f - 1
    let started : State := { s with hif := { s.hif with
      cmds := s.hif.cmds.map fun y => if y.fn = k.fn && decide (y.id = k.id) then { y with st := .started } else y } }
    let denied : Host.Outcome State Fault Refusal := .next (s.complete k 4 0 0)
    let op := byteOf k.raw 0
    (op = 0 → exec (.hostNop f) s = .next (started.complete k 0 0 0) ∧ ((fn.ring 1).st = 1 → fn.mayIssue = true →
      ∃ t e, exec (.hostNop f) s = .next t ∧ .hostWrite f ((fn.ring 1).base + 64 * ((fn.ring 1).device % 2 ^ (fn.ring 1).l)) 64 e false ∈ t.outbox ∧
        byteOf e 0 = 0 ∧ bits e 64 32 = k.num % 2 ^ 32 ∧ bits e 96 16 = 0 ∧ bits e 16 1 = phaseOf (fn.ring 1).device (fn.ring 1).l)) ∧
    (op = 6 → (s.hif.cmds.filter fun y => decide (y.fn = f)).head? = some k → exec (.fence f) s = .next (started.complete k 0 0 0)) ∧
    (op = 1 → f = 0 ∨ s.pln.ready = false ∨ x.st ≠ .idle ∨ x.admitSt ≠ .none → exec (.hostAdmit f) s = denied) ∧
    (op = 1 → f ≠ 0 → s.pln.ready = true → x.st = .idle → x.admitSt = .none →
      let y : Ctx := { x with
        admitSt := .staging, admitCmd := some (f, k.id), desc := [], descLen := eField k.raw 16 4, image := []
        imageLen := eField k.raw 32 8, stagedDesc := 0, stagedImage := 0, loadStatus := 1, reserveAt := none }
      let a := eField k.raw 8 8
      (slotBytes < y.imageLen → exec (.hostAdmit f) s = .next { started.setCtx c { y with
        admitSt := .awaiting, loadStatus := loadStatus 4 14 0xFFFF 0, arrived := s.nextId } with nextId := s.nextId + 1 }) ∧
      (y.imageLen ≤ slotBytes → 0 < y.descLen → fn.mayIssue = true → (∀ r ∈ s.hif.reads ++ s.hif.waiting, r.use ≠ .staging c k.id) →
        (∀ y ∈ s.hif.cmds, y.fn = f → y.id = k.id → y = k) → exec (.hostAdmit f) s =
        .next ((started.setCtx c y).hostRead f a (min (min y.descLen (4096 - a % 4096)) fn.mrrs) (.staging c k.id)))) ∧
    (op = 2 → f ≠ 0 → x.st ≠ .loading → x.st ≠ .running → exec (.dma f) s = denied) ∧
    (op = 2 → f = 0 ∨ x.st = .loading ∨ x.st = .running →
      let named := if f = 0 then (if (s.queue 32767).ctx = 16 then some 32767 else none) else x.queues[memRead x.desc 80 2]?
      (named = none → exec (.dma f) s = .next (started.complete k 4 0 0)) ∧ (∀ n, named = some n →
        let q := s.queue n
        ∃ kind, kind < 8 ∧ exec (.dma f) s = .next ({ started with freeCtr := s.freeCtr + 1 }.sendRmn (.host f) (s.routeOf q) c none kind
          (some (f, k.id)) (.message n (s.routeOf q) q.epoch [(hostDesc k.raw, false)] 0)))) ∧
    ((op = 3 ∨ op = 4) → f ≠ 0 → x.st ≠ .running → (op = 3 → exec (.signal f) s = denied) ∧ (op = 4 → exec (.watch f) s = denied)) ∧
    (f = 0 ∨ x.st = .running →
      let item (hc : Option (Nat × Nat)) (b : SyuBody) : State := { started with
        nextId := s.nextId + 1
        syu := { s.syu with inbound := s.syu.inbound ++
          [{ id := s.nextId, src := .host f, ctx := c, who := none, hostCmd := hc, tag := 0, body := b, stamp := s.stampNow }] } }
      (op = 3 → exec (.signal f) s = .next (item (some (f, k.id)) (.inc (eField k.raw 8 2) (byteOf k.raw 10)))) ∧
      (op = 4 → exec (.watch f) s = .next (item none (.reg { ctx := c, vid := eField k.raw 8 2, cmp := byteOf k.raw 10, expect := eField k.raw 16 8
                                                             t := byteOf k.raw 11, dest := .host, bank := none, hostCmd := some (f, k.id) })))) ∧
    (op = 5 →
      let d := if f = 0 then byteOf k.raw 8 else f - 1
      ((s.ctx d).st = .idle → (s.ctx d).admitCmd = none → exec (.teardown f) s = .next (started.complete k 0 0 0)) ∧
      (d < 16 → (s.ctx d).st ≠ .idle → ∃ t, exec (.teardown f) s = .next t ∧ (t.ctx d).st = .tearing ∧ (f, k.id) ∈ (t.ctx d).teardownCmds))

/-- R431, R434, R435, R441, R450, R451: interrupt moderation, bus mastering, power states and resets of a function, and the end of a host read.
A function-level reset waits for the function's outstanding reads before its record and its reset values. A held entry is written when its
function may issue again, unless its ring has stopped. That a function-level reset clears Bus Master Enable is presumed (log entry 81), and so
is when a read may time out (log entry 180); what is pending of a masked vector, EP that a ring entry ignores and a staging read that fails
or is poisoned as check 15 are the model's readings (log entries 83, 79 and 78). -/
def Obligations.HostEvents : Prop :=
  ∀ (s : State), s.pln.fatal = false →
    (∀ f vec, f < 17 → vec < 2 →
      let fn := s.fn f
      let n := if vec = 0 then fn.unsig0 else fn.unsig1
      let since := if vec = 0 then fn.since0 else fn.since1
      let quiet : Fn := if vec = 0 then { fn with unsig0 := 0 } else { fn with unsig1 := 0 }
      0 < n → since + ticksUs fn.irqDelay ≤ s.now →
      (fn.masked vec = true → exec (.irqDelayExpiry f vec) s =
        .next (s.setFn f { quiet with msixPending := mset false fn.msixPending vec true })) ∧
      (fn.masked vec = false → fn.mayIssue = true →
        exec (.irqDelayExpiry f vec) s = .next ((s.setFn f quiet).out (.msix f vec))) ∧
      (fn.masked vec = false → fn.mayIssue = false → exec (.irqDelayExpiry f vec) s =
        .next (s.setFn f { quiet with heldIrqs := fn.heldIrqs ++ [vec] }))) ∧
    (s.claims 0x10 = true →
      (∀ v, 1 ≤ v → v < 17 →
        ((∀ r ∈ s.hif.reads, r.fn ≠ v) → ∃ t, exec (.functionLevelReset v) s = .next t ∧ t.fn v = {} ∧
          (∀ k ∈ t.hif.cmds, k.fn ≠ v) ∧ (s.hif.waiting = [] → t.hif.cmds = s.hif.cmds.filter fun k => !decide (k.fn = v)) ∧
          (∀ r ∈ t.hif.reads ++ t.hif.waiting, r.fn ≠ v) ∧
          (s.live (v - 1) = true → (t.ctx (v - 1)).st = .tearing)) ∧
        ((∃ r ∈ s.hif.reads, r.fn = v) → ∃ t, exec (.functionLevelReset v) s = .next t ∧ (t.fn v).resetting = true ∧ (t.fn v).fetching = none ∧
          t.hif.cmds = (s.hif.cmds.filter fun k => !decide (k.fn = v)) ∧ t.hif.reads = s.hif.reads ∧
          t.hif.waiting = (s.hif.waiting.filter fun r => !decide (r.fn = v)) ∧ t.claims (0x10 + v) = false ∧ (t.fn v).mayIssue = false ∧
          (t.ctx (v - 1)).st = (s.ctx (v - 1)).st) ∧
        ((s.fn v).d3hot = true → exec (.d3hotToD0 v) s = exec (.functionLevelReset v) s)) ∧
      (∃ t, exec .vfEnableClear s = .next t ∧ t.hif.numVfs = 0 ∧ t.hif.vfEnable = false ∧ ∀ v, 1 ≤ v → v < 17 →
        ((∀ r ∈ s.hif.reads, r.fn ≠ v) → t.fn v = {} ∧ (s.live (v - 1) = true → (t.ctx (v - 1)).st = .tearing)) ∧
        ((∃ r ∈ s.hif.reads, r.fn = v) → (t.fn v).resetting = true)) ∧
      (∀ f, f < 17 → (s.fn f).d3hot = false → exec (.d0ToD3hot f) s = .next (s.setFn f { s.fn f with d3hot := true })) ∧
      ((s.fn 0).d3hot = true → (s.fn 0).busMaster = false → exec (.d3hotToD0 0) s = .next (s.setFn 0 { s.fn 0 with d3hot := false })) ∧
      (∀ f, f < 17 → exec (.busMasterEnable f false) s = .next (s.setFn f { s.fn f with busMaster := false })) ∧
      (∀ f, f < 17 → (s.fn f).d3hot = false → (s.fn f).resetting = false → ((s.fn f).ring 0).st ≠ 1 → f = 0 ∨ (s.ctx (f - 1)).admitCmd = none → s.hif.waiting = [] →
        (∀ v ∈ (s.fn f).heldIrqs, (s.fn f).masked v = false) →
        let fn := s.fn f
        exec (.busMasterEnable f true) s = .next { s.setFn f { fn with busMaster := true, heldEntries := [], heldIrqs := [] } with
          outbox := (fn.heldIrqs.map fun v => .msix f v).reverse ++ ((fn.heldEntries.filter fun e => decide ((fn.ring e.1).st = 1)).map fun e =>
            .hostWrite f ((fn.ring e.1).base + 64 * (e.2.1 % 2 ^ (fn.ring e.1).l)) 64 e.2.2 false).reverse ++ s.outbox })) ∧
    (∀ (f a n : Nat) (use : HReadUse), s.hif.reads.length = 512 →
      let r : HRead := { id := s.nextId, fn := f, addr := a, bytes := n, use := use }
      s.hostRead f a n use = { s with nextId := s.nextId + 1, hif := { s.hif with waiting := s.hif.waiting ++ [r] } }) ∧
    (∀ (r : HRead) (rest : List HRead), s.hif.waiting = r :: rest → (∀ y ∈ rest, y.id ≠ r.id) → (s.fn r.fn).mayIssue = true →
      s.hif.reads.length < 512 →
      s.nextRead = { s with hif := { s.hif with reads := s.hif.reads ++ [{ r with since := s.now }], waiting := rest }, outbox := .hostRead r.id r.fn r.addr r.bytes :: s.outbox }) ∧
    (∀ i r, s.hread i = some r → s.hif.waiting = [] → (s.fn r.fn).resetting = true → 1 ≤ r.fn → r.fn < 17 →
      let gone : State := { s with hif := { s.hif with reads := s.hif.reads.filter fun y => !decide (y.id = i) } }
      let ends (t : State) := (∀ status ep data, status ≤ 2 → exec (.hostReadCompletion i status ep data) s = .next t) ∧
        (s.readLate i = true → exec (.completionTimeout i) s = .next t)
      ((∃ y ∈ s.hif.reads, y.id ≠ i ∧ y.fn = r.fn) → ends gone) ∧
      ((∀ y ∈ s.hif.reads, y.id ≠ i → y.fn ≠ r.fn) →
        (s.live (r.fn - 1) = false → ends (gone.setFn r.fn {})) ∧
        (s.live (r.fn - 1) = true →
          ends ((gone.setFn r.fn {}).raise { code := 0x0A06, ctxFatal := true, ctx := r.fn - 1, detail := r.fn })))) ∧
    (∀ i r, s.hread i = some r → s.hif.waiting = [] → (s.fn r.fn).resetting = false →
      let gone : State := { s with hif := { s.hif with reads := s.hif.reads.filter fun y => !decide (y.id = i) } }
      (∀ d line n x, r.use = .dmaSource d line n → s.desc d = some x → x.faulted = false →
        let abort (reason : Nat) := gone.descFault x { code := 0x0A01, ctxFatal := true, ctx := x.ctx, detail := reason + fnOfCtx x.ctx * 2 ^ 8 }
        (∀ ep data, dDstHost x.raw = false → dDstPwin x.raw = false → gSpace (dDst x.raw) = 0 → overlapBy x.raw = 0 →
          let va := dDst x.raw + 64 * line
          let y := [(data % 2 ^ 512, ep)]
          let u := if ep then gone.modDesc d fun y => { y with hostPoison := y.hostPoison + 1 } else gone
          let v := u.issueMem (.dma d) (.dma x.engine) x.ctx va true false y
          ((∀ o ∈ s.hbm.ops, o.kind ≠ .dma d) → exec (.hostReadCompletion i 0 ep data) s = .next { v with hbm := { v.hbm with
            ops := s.hbm.ops ++ [{ id := s.nextId, kind := .dma d, src := .dma x.engine, ctx := x.ctx, write := true, left := 1
                                   refused := none, meshBad := false, more := x.lines - 1 }] } }) ∧
          (∀ o, (s.hbm.ops.find? fun o => decide (o.kind = .dma d)) = some o → exec (.hostReadCompletion i 0 ep data) s =
            .next { u with nextId := s.nextId + 1, hbm := { u.hbm with
              ops := s.hbm.ops.map fun z => if z.id = o.id then { z with left := z.left + 1, more := z.more - 1 } else z
              accs := s.hbm.accs ++ accessList s.stampNow (.dma x.engine) x.ctx o.id true false s.nextId line va y } })) ∧
        (∀ ep data, exec (.hostReadCompletion i 1 ep data) s = .next (abort 1) ∧ exec (.hostReadCompletion i 2 ep data) s = .next (abort 2)) ∧
        (s.readLate i = true → exec (.completionTimeout i) s = .next (abort 3))) ∧
      (∀ f n, r.use = .ringFetch f n → (s.fn f).fetching = some i → ((s.fn f).ring 0).st = 1 →
        let fn : Fn := { s.fn f with fetching := none }
        let ring := fn.ring 0
        let failed (reason : Nat) : State := (gone.setFn f (fn.setRing 0 { ring with st := 2, cause := 2 })).raise
          { code := 0x0A03, ctx := if f = 0 then 16 else f - 1, detail := f + reason * 2 ^ 5 }
        (∀ ep data, exec (.hostReadCompletion i 1 ep data) s = .next (failed 1) ∧ exec (.hostReadCompletion i 2 ep data) s = .next (failed 2) ∧
          (let k : Cmd := { fn := f, id := s.nextId, num := ring.device, raw := data % 2 ^ 512, st := .fetched }
           let took := gone.setFn f (fn.setRing 0 { ring with device := (ring.device + 1) % 2 ^ 32 })
           let listed : State := { took with nextId := s.nextId + 1, hif := { took.hif with cmds := s.hif.cmds ++ [k] } }
           (s.entryTest f k.raw = none → exec (.hostReadCompletion i 0 ep data) s = .next (listed.fetch f)) ∧
           (∀ st, s.entryTest f k.raw = some st → exec (.hostReadCompletion i 0 ep data) s = .next (listed.complete k st 0 0)))) ∧
        (s.readLate i = true → exec (.completionTimeout i) s = .next (failed 3))) ∧
      (∀ c n, r.use = .staging c n → (s.ctx c).admitCmd ≠ some (r.fn, n) → ∀ data, exec (.hostReadCompletion i 0 false data) s = .next gone) ∧
      (∀ c n, r.use = .staging c n → (s.ctx c).admitCmd = some (r.fn, n) → (s.ctx c).admitSt = .staging →
        let x := s.ctx c
        let failed : State := { gone.setCtx c { x with admitSt := .awaiting, loadStatus := loadStatus 4 15 0xFFFF 0, arrived := s.nextId } with
          nextId := s.nextId + 1 }
        (∀ data, x.stagedDesc < x.descLen → exec (.hostReadCompletion i 0 false data) s = .next ((gone.setCtx c { x with
          desc := memWrite x.desc x.stagedDesc r.bytes data, stagedDesc := x.stagedDesc + r.bytes }).stage c)) ∧
        (∀ data, x.descLen ≤ x.stagedDesc →
          let m := memWrite x.image x.stagedImage r.bytes data
          exec (.hostReadCompletion i 0 false data) s = .next (((gone.setCtx c { x with
            image := m, stagedImage := x.stagedImage + r.bytes }).putStaged c m x.stagedImage (x.stagedImage + r.bytes)).stage c)) ∧
        (∀ data, exec (.hostReadCompletion i 0 true data) s = .next failed) ∧
        (s.readLate i = true → exec (.completionTimeout i) s = .next failed))) ∧
    (∀ i r, s.hread i = some r → (s.readLate i = true ↔ bit (s.fn r.fn).timeout 4 = false ∧
      r.since + (match (s.fn r.fn).timeout % 16 with
        | 2 => ticksMs 1 | 5 => ticksMs 16 | 6 => ticksMs 65 | 9 => ticksMs 260 | 10 => ticksMs 1000 | 13 => ticksMs 4000 | 14 => ticksMs 17000
        | _ => ticksUs 50) ≤ s.now)) ∧
    (∀ i, s.readLate i = false → exec (.completionTimeout i) s = .next s)

/-- R452 to R457, R613, R614: a message goes to the receiver of its channel, is acknowledged, or is withdrawn after its time; an access of another
master leaves DENIED. That the Plinth controller takes what channels 2 and 4 hold in the step that sends it, and how it takes an older message,
are the model's choices (log entries 119, 157); that every channel whose receiver is the BMC is delivered to it, and that mailboxes work while
DEVICE_FATAL stands, are its readings (log entry 84). MBX_SEND under the ROM is answered with the error completion. -/
def Obligations.MailboxCommands : Prop :=
  (∀ (s : State) (m n v : Nat), n < 64 → isMaster m = true → s.claims m = true →
    let u := s.access m (0x201040 + 0x100 * n)
    let a := s.access m (0x201050 + 0x100 * n)
    let x := s.chan n
    let len := bits v 0 7
    let sent : Channel := { x with full := true, len := len, seq := (x.seq + 1) % 65536, armed := max 1 x.timeoutMs, since := s.now }
    let message := x.data % 2 ^ (8 * len)
    let taken (t : State) := if n = 2 ∨ n = 4 then t.takeRequest n 0 else t
    (x.sender ≠ m → exec (.mailboxSend m n v) s = .next (u.setChan n { x with denied := true })) ∧
    (x.sender = m → bit v 31 = false ∨ x.full = true ∨ len = 0 ∨ 64 < len → exec (.mailboxSend m n v) s = .next (taken u)) ∧
    (x.sender = m → bit v 31 = true → x.full = false → 1 ≤ len → len ≤ 64 →
      (x.receiver < 0x10 → x.receiver ≠ 3 → exec (.mailboxSend m n v) s = .next (taken (u.setChan n sent))) ∧
      (x.receiver = 3 → exec (.mailboxSend m n v) s = .next (taken ((u.setChan n { sent with mctp := true }).out (.mbxDeliver len message)))) ∧
      (0x10 ≤ x.receiver → exec (.mailboxSend m n v) s =
        .next (taken (((u.setChan n sent).event (x.receiver - 0x10) (3 + n * 2 ^ 64)).msix (x.receiver - 0x10) 2)))) ∧
    (x.receiver ≠ m → exec (.mailboxAck m n) s = .next (a.setChan n { x with denied := true })) ∧
    (x.receiver = m → x.full = true → exec (.mailboxAck m n) s =
      .next (a.setChan n { x with full := false, delivered := true, mctp := false })) ∧
    (x.receiver = m → x.full = false → exec (.mailboxAck m n) s = .next a)) ∧
  (∀ (s : State) (n : Nat), n < 64 → let x := s.chan n
    x.full = true → x.since + ticksMs x.armed ≤ s.now → exec (.mailboxTimeout n) s =
      .next ((s.setChan n { x with full := false, timeout := true, mctp := false }).raise
        { code := 0x0A07, detail := n + x.sender * 2 ^ 8 + x.receiver * 2 ^ 16 })) ∧
  (∀ (s : State), (s.chan 3).full = true → (s.chan 3).mctp = true →
    exec .mbxDeliver s = .next (s.setChan 3 { s.chan 3 with full := false, delivered := true, mctp := false })) ∧
  (∀ (s : State) (len data : Nat), s.pln.slot = 0 → s.pln.pb0 = true ∨ s.pln.pb1 = true →
    exec (.mbxSend len data) s = .next (s.out .errorCompletion)) ∧
  (∀ (s : State) (len data : Nat), s.pln.slot ≠ 0 → let x := s.chan 2
    ((len = 0 ∨ 64 < len) → ∃ answer, exec (.mbxSend len data) s = .next (({ s with freeCtr := s.freeCtr + 1 }.out (.reply 3 answer)).takeRequest 2 0)) ∧
    (1 ≤ len → len ≤ 64 → x.full = true → exec (.mbxSend len data) s = .next ((s.out (.reply 3 1)).takeRequest 2 0)) ∧
    (1 ≤ len → len ≤ 64 → x.full = false → x.receiver < 0x10 → x.receiver ≠ 3 → exec (.mbxSend len data) s = .next (((s.setChan 2 { x with
      data := data % 2 ^ (8 * len) + x.data / 2 ^ (8 * len) * 2 ^ (8 * len), full := true, len := len, seq := (x.seq + 1) % 65536
      armed := max 1 x.timeoutMs, since := s.now }).out (.reply 3 0)).takeRequest 2 0)))

/-- R31, R303, R415, R521, R576: an image is checked, admission refuses or grants in the order of its tests, a loaded context runs, and a torn
down one is Idle with what it held cleared. Which free groups a grant takes, the lowest, is the model's choice (log entry 90); so is that the
registers of an ended context and its queue descriptors go back to their reset values, but for the epoch (log entry 164). -/
def Obligations.ContextLife : Prop :=
  (∀ (s : State) (c : Nat), c < 16 → (s.ctx c).admitSt = .checking → s.slotFilled c = false → exec (.imageChecks c) s = .next s) ∧
  (∀ (s : State) (c : Nat), c < 16 → (s.ctx c).admitSt = .checking → s.slotFilled c = true → s.pln.fatal = false →
    let x := s.ctx c
    let waits (status : Nat) : State := { s.setCtx c { x with admitSt := .awaiting, loadStatus := status, arrived := s.nextId } with
      nextId := s.nextId + 1 }
    (imageFails x.image x.desc x.imageLen = none → exec (.imageChecks c) s = .next (waits 3)) ∧
    (∀ f, imageFails x.image x.desc x.imageLen = some f →
      exec (.imageChecks c) s = .next (waits (4 + f.check * 2 ^ 3 + f.sect * 2 ^ 16 + f.rec_ * 2 ^ 32))) ∧
    (memRead x.image 0 8 ≠ 0x455454455551414D → exec (.imageChecks c) s = .next (waits (4 + 1 * 2 ^ 3 + 0xFFFF * 2 ^ 16)))) ∧
  (∀ (s : State) (c : Nat), c < 16 → (s.ctx c).admitSt = .awaiting → s.pln.fatal = false →
    (∀ e, e < 16 → (s.ctx e).admitSt = .awaiting → (s.ctx c).arrived ≤ (s.ctx e).arrived) →
    let x := s.ctx c
    let d := x.desc
    let refused (detail : Nat) (o : Host.Outcome State Fault Refusal) : Prop :=
      let off := s.setCtx c { x with admitSt := .none, admitCmd := none, reserveAt := none }
      (x.admitCmd = none → o = .next off) ∧
      (∀ f n k, x.admitCmd = some (f, n) → s.cmd f n = some k → o = .next (off.complete k 5 detail 0))
    (∀ detail, s.earlyTests c = some detail → refused detail (exec (.admission c) s)) ∧
    (memRead d 0 2 ≠ 1 → refused (4 + 1 * 2 ^ 4) (exec (.admission c) s)) ∧
    (∀ k t b, k < 7 → x.reserveAt = some t → t + ticksMs 30000 ≤ s.now → b ∈ yBinds d → bindPort d b = k → s.declared d b = none →
      refused (5 + 2 * 2 ^ 4) (exec (.reserveTimeout k c) s)) ∧
    (s.earlyTests c = none → yBinds d = [] → s.admitDeadline x.image d = none → s.admitEnergy x.image d = none →
      ∃ t, exec (.admission c) s = .next t ∧ (t.ctx c).st = .loading ∧ (t.ctx c).admitSt = .loading ∧ (t.ctx c).fmFrames = jFrames d ∧
        (t.ctx c).watchLimit = jWatches d ∧ (t.ctx c).groups = s.freeGroups.take (jGroups d) ∧
        (∀ n ∈ s.granted d, (t.tset n).owner = c ∧ (t.tset n).st = .loading) ∧
        (∀ g ∈ s.freeGroups.take (jGroups d), (t.group g).owner = c) ∧ t.hbm.accs = s.hbm.accs)) ∧
  (∀ (s : State) (c : Nat), c < 16 → (s.ctx c).st = .loading → (s.ctx c).admitSt = .loading → s.pln.fatal = false →
    (∀ k, k < 7 → (s.binding k c).st = 0 ∨ (s.binding k c).st = 2) →
    (∀ r, s.loadCheck c = some r → exec (.loadingComplete c) s = .next (s.raise r)) ∧
    (s.loadCheck c = none → mwf {} s.rmn.queues = true → (∀ n, mget none s.rmn.badQueues n ≠ some true) →
      (∀ n, let q := s.queue n; q.ownerKind = 0 → q.ctx < 16 →
        (s.tile q.tile).powered (gOff q.addr / 64) = true ∧ (s.tile q.tile).mrx (gOff q.addr / 64) = true) →
      (∀ n, (s.tset n).owner < 16 → (s.tset n).group ∈ (s.ctx c).groups → (s.tset n).owner = c) →
      ∃ t, exec (.loadingComplete c) s = .next t ∧ (t.ctx c).st = .running ∧ (t.ctx c).tableValid = true ∧
        ∀ n, n < 120 → (s.tset n).owner = c → (t.tset n).st = .running ∧ (t.tset n).owner = c ∧
          ∀ i k, i < 48 → k < 4 → (t.tile (48 * n + i)).phase = .compute ∧ (t.thread (48 * n + i) k).st = .issuing ∧
            (t.thread (48 * n + i) k).main = {})) ∧
  (∀ (s : State) (c : Nat), c < 16 → (s.ctx c).st = .tearing → s.pln.fatal = false → (∀ i ∈ s.syu.inbound, i.ctx ≠ c) →
    ∃ t, exec (.teardownComplete c) s = .next t ∧ t.ctx c = {} ∧ (∀ n, n < 120 → (s.tset n).owner = c → t.tset n = {}) ∧
      (∀ j, j < 5760 → (s.tset (tsetOf j)).owner = c → (t.tile j).mem = [] ∧ (t.tile j).threads = [] ∧ (t.tile j).blocks = [] ∧ (t.tile j).cache = []) ∧
      (∀ g ∈ (s.ctx c).groups, t.group g = {}) ∧ (∀ q ∈ (s.ctx c).queues, t.queue q = { epoch := (s.queue q).epoch }) ∧
      ∀ p, mget 0x1F s.syu.owners (p / 256) = c → mget 0 t.syu.counters p = 0)

/-- R595 to R599: enabling lets the held records in, a reader selects a record, and clears its alert status. -/
def Obligations.FaultQueueCommands : Prop :=
  ∀ (s : State) (m v : Nat), s.claims m = true →
    (m = 0x10 ∨ m = 3 →
      let u := s.access m 0x400
      (s.pln.enabled = true → exec (.frqEnable m) s = .next u) ∧
      (s.pln.enabled = false → s.pln.hold.length + s.pln.frq.length ≤ 1024 → s.pln.head + s.pln.hold.length < 2 ^ 48 →
        ∃ t, exec (.frqEnable m) s = .next t ∧ t.pln.enabled = true ∧ t.pln.hold = [] ∧ t.pln.frq = s.pln.hold.reverse ++ s.pln.frq ∧
          t.pln.head = s.pln.head + s.pln.hold.length ∧ t.tiles = s.tiles ∧ t.hbm = s.hbm ∧ t.hif = s.hif)) ∧
    (∀ b, (m = 0x10 ∧ b = 0) ∨ (m = 2 ∧ b = 1) ∨ (m = 3 ∧ b = 2) →
      let x := s.bank b
      let n := v % 2 ^ 48
      let shown (st data : Nat) := (s.access m 0x410).setBank b { x with seq := n, st := st, data := data }
      (s.pln.head ≤ n → exec (.frqSelect m v) s = .next (shown 1 0)) ∧
      (∀ r, n < s.pln.head → s.pln.frq[s.pln.head - 1 - n]? = some r → exec (.frqSelect m v) s = .next (shown 0 r.encode)) ∧
      (n < s.pln.head → s.pln.frq[s.pln.head - 1 - n]? = none → exec (.frqSelect m v) s = .next (shown 2 0)) ∧
      (x.statClasses < 2 ^ 13 → ∃ y, exec (.alertStatusClear m v) s = .next ((s.access m 0x448).setBank b y) ∧
        y = { x with statClasses := y.statClasses, statFatal := x.statFatal && !bit v 13 } ∧
        ∀ i, i < 13 → bit y.statClasses i = (bit x.statClasses i && !bit v i)))

/-- R471, R473, R475, R476, R480, R507: an image is loaded into a pool tile that no mark excludes, the digests are compared, and an arbiter's
run decides a mismatch. The model's readings (log entry 37): which two tiles SHADOW_UNRESOLVED strikes, that a mismatch counts when the arbiter's
run has decided, and that a sample whose pool tile has been marked counts as missed, which R473 does not list. -/
def Obligations.ShadowEvents : Prop :=
  ∀ (s : State) (i : Nat) (x : Sample), s.sample i = some x → s.pln.fatal = false →
    let put (y : Sample) : State := { s with ras := { s.ras with samples := s.ras.samples.map fun z => if z.id = x.id then y else z } }
    let y := x.image
    let loaded (pool : Nat) : Tile :=
      { cfg := y.cfg, mem := y.mem.filter fun kv => bit y.cfg.bankPwr (kv.1 / 64 / 1024)
        poison := y.poison.filter fun kv => bit y.cfg.bankPwr (kv.1 / 1024), threads := y.threads, blocks := y.blocks, cache := y.cache
        norms := y.norms, err := { (s.tile pool).err with badWords := y.err.badWords, badCache := y.err.badCache }, gate := y.gate
        gateStep := y.gateStep, shadow := some x.id }
    let resolved (matched : Bool) : State := { s with ras := { s.ras with
      samples := s.ras.samples.filter fun z => !decide (z.id = x.id)
      matched := if matched then satAdd s.ras.matched 1 0xFFFFFFFFFFFFFFFF else s.ras.matched
      mismatched := if matched then s.ras.mismatched else satAdd s.ras.mismatched 1 0xFFFFFFFFFFFFFFFF } }
    let struck (t : Tile) : Tile := { t with err := { t.err with strikes := t.err.strikes + 1 } }
    let rec_ (code : Nat) (fatal : Bool) : FaultRec :=
      { code := code, ctxFatal := fatal, ctx := x.ctx, tile := x.tile, superstep := x.superstep, detail := x.pool + (x.arbiter.getD 0) * 2 ^ 16 }
    let lostPool (t : State) : State :=
      { t with tiles := mset {} t.tiles x.pool (struck (t.tile x.pool)), ras := { t.ras with removed := mset false t.ras.removed x.pool true } }
    (∀ pool, pool < 5760 → x.pool = pool → x.loaded = false → x.own.isSome = true → s.traceQuiet x.entry = true →
      (s.tile pool).shadow = none →
      s.poolGood pool = false → exec (.shadowLoad i pool) s = .next (s.missSample pool i)) ∧
    (∀ pool, pool < 5760 → x.pool = pool → x.loaded = false → x.own.isSome = true → s.traceQuiet x.entry = true →
      (s.tile pool).shadow = none → s.poolGood pool = true →
      (y.allHalted = false → exec (.shadowLoad i pool) s = .next ((put { x with loaded := true }).setTile pool (loaded pool))) ∧
      (y.allHalted = true → exec (.shadowLoad i pool) s =
        .next (((put { x with loaded := true }).setTile pool (loaded pool)).enterExchange pool))) ∧
    (∀ pool, pool < 5760 → x.mismatch = true → x.arbiter = none → x.pool ≠ pool → pool ∈ tilesOf s.ras.poolSets → s.poolFree pool = true →
      s.traceQuiet x.entry = true → y.allHalted = false → exec (.arbiterRun i pool) s = .next ((put { x with arbiter := some pool }).setTile pool (loaded pool))) ∧
    (x.mismatch = false → ∀ a b, x.own = some a → x.poolDigest = some b →
      (a = b → exec (.digestCompare i) s = .next (resolved true)) ∧
      (a ≠ b → exec (.digestCompare i) s = .next (put { x with mismatch := true }))) ∧
    (x.mismatch = true → ∀ a b d, x.own = some a → x.poolDigest = some b → x.arbDigest = some d → x.tile ≠ x.pool →
      (d = b → (s.tile x.tile).err.strikes ≠ 1 → exec (.digestCompare i) s =
        .next (((resolved false).setTile x.tile (struck (s.tile x.tile))).raise (rec_ 0x0B03 true))) ∧
      (d = b → (s.tile x.tile).err.strikes = 1 → exec (.digestCompare i) s =
        .next ((((resolved false).setTile x.tile (struck (s.tile x.tile))).markTile x.tile 3).raiseAll
          [rec_ 0x0B03 true, { code := 0x0B06, detail := s.pln.siteOf x.tile + 3 * 2 ^ 13 }])) ∧
      (d ≠ b → d = a → (s.tile x.pool).err.strikes ≠ 1 → exec (.digestCompare i) s =
        .next ((lostPool (resolved false)).raise (rec_ 0x0B04 false))) ∧
      (d ≠ b → d ≠ a → (s.tile x.tile).err.strikes ≠ 1 → (s.tile x.pool).err.strikes ≠ 1 → exec (.digestCompare i) s =
        .next ((lostPool ((resolved false).setTile x.tile (struck (s.tile x.tile)))).raise (rec_ 0x0B05 true))))

/-- R42, R43, R278, R315, R484, R578, R580, R581: what an Armature core loads and stores in each space, and what traps it. That an access outside the
owner's spaces traps without a record, and that the region table refuses with reasons 6 and 7 and a trap, are readings of the model (log entry
129); that a load is answered in its step is its choice (log entry 130). -/
def Obligations.CoreAccesses : Prop :=
  ∀ (s : State) (core a n v : Nat), core < 16 → 1 ≤ n → n < 65 → s.isOn 1 = true → s.pln.fatal = false →
    let c := s.coreCtx core
    let snap := s.coreSnap core
    let trap := s.out (.coreTrap core)
    let got (x : Nat) : State := s.out (.coreValue core x)
    let poisoned (line : Nat) := trap.raise { code := 0x0902, ctx := c, addr := line, detail := core }
    let base := a / 64 * 64
    let fits := a % 64 + n ≤ 64
    let load := exec (.armatureCoreLoad core a n) s
    let store := exec (.armatureCoreStore core a n v) s
    (addrOk a = false → store = .next trap ∧ (gSpace a ≠ 0 → gSpace a ≠ 3 → gSpace a ≠ 15 → load = .next trap) ∧
      (gSpace a = 3 → exec (.armatureCounterStore core a v) s = .next trap)) ∧
    (addrOk a = true →
      (gSpace a = 0 → s.readWaits (.arm core) c base (linesTouched a n).length = false →
        let l := s.physLine c base snap
        (s.coreSpace0 c a n = false → load = .next trap) ∧
        (s.coreSpace0 c a n = true → fits → s.coreRefused c base 1 false snap = none → mget none s.hbm.bad l = none →
          (s.hbmPoisoned l = false → load = .next (got (bits (s.hbmLine l) (8 * (a % 64)) (8 * n)))) ∧
          (s.hbmPoisoned l = true → load = .next (poisoned base))) ∧
        (∀ r, s.coreSpace0 c a n = true → fits → s.coreRefused c base 1 false snap = some r → load = .next (trap.raise r))) ∧
      (gSpace a = 0 →
        (s.coreSpace0 c a n = false → store = .next trap) ∧
        (s.coreSpace0 c a n = true → fits → store = .next { s with
          nextId := s.nextId + 2
          hbm := { s.hbm with
            ops := s.hbm.ops ++ [{ id := s.nextId, kind := .core core, src := .arm core, ctx := c, write := true, left := 1, refused := none
                                   meshBad := false }]
            accs := s.hbm.accs ++ [{ id := s.nextId + 1, src := .arm core, ctx := c, op := s.nextId, idx := 0, vaddr := base, write := true
                                     data := v % 2 ^ (8 * n), part := (a % 64, n), poison := false, snap := false, phys := 0
                                     stage := .toSlice, stamp := s.stampNow }] } }) ∧
        (s.coreSpace0 c a n = true → ¬fits →
          let m := 64 - a % 64
          let part (i va off len x : Nat) : Access :=
            { id := s.nextId + i, src := .arm core, ctx := c, op := s.nextId, idx := 0, vaddr := va, write := true, data := x, part := (off, len)
              poison := false, snap := false, phys := 0, stage := .toSlice, stamp := s.stampNow }
          store = .next { s with
            nextId := s.nextId + 3
            hbm := { s.hbm with
              ops := s.hbm.ops ++ [{ id := s.nextId, kind := .core core, src := .arm core, ctx := c, write := true, left := 2, refused := none
                                     meshBad := false }]
              accs := s.hbm.accs ++ [part 1 base (a % 64) m (v % 2 ^ (8 * m)), part 2 (base + 64) 0 (n - m) (bits v (8 * m) (8 * (n - m)))] } })) ∧
      (gSpace a = 1 →
        let t := s.tile (gTile a)
        let l := gOff a / 64
        (s.coreSpace1 c a n = false → load = .next trap ∧ store = .next trap) ∧
        let loading := (s.tset (tsetOf (gTile a))).st = .loading
        (s.coreSpace1 c a n = true → fits → t.powered l = true → t.dmaOk l = true ∨ loading →
          (t.poisoned l = false → t.parityBad l = false → load = .next (got (bits (t.line l) (8 * (a % 64)) (8 * n)))) ∧
          (t.poisoned l = true → load = .next (poisoned base)) ∧
          (t.phase ≠ .compute ∨ t.cap = none →
            (n < 64 → store = .next (s.setTile (gTile a) (t.putNarrow (gOff a) n (v % 2 ^ (8 * n))))) ∧
            (n = 64 → store = .next (s.setTile (gTile a) (t.putLine l (v % 2 ^ 512) false))))) ∧
        (s.coreSpace1 c a n = true → fits → t.powered l = false ∨ (t.dmaOk l = false ∧ ¬loading) →
          let refused (store : Bool) : FaultRec :=
            { code := 0x0308, ctxFatal := true, ctx := c, addr := a
              detail := (if t.powered l then 7 else 6) * 2 ^ 16 + b2n store * 2 ^ 20 }
          load = .next (trap.raise (refused false)) ∧ store = .next (trap.raise (refused true)))) ∧
      (gSpace a = 3 →
        let sent : State := { s with
          nextId := s.nextId + 1
          syu := { s.syu with inbound := s.syu.inbound ++ [{ id := s.nextId, src := .arm core, ctx := c, who := none, hostCmd := none, tag := 0
                                                             body := .inc (gVid a) v, stamp := s.stampNow }] } }
        (s.coreIncs core c (gVid a) = false →
          (n = 8 → s.coreSpace3 c a = true → let p := s.phys c (gVid a)
            (mget none s.syu.badCounters p = none → load = .next (got (mget 0 s.syu.counters p))) ∧
            (mget none s.syu.badCounters p = some false → load = .next { got (mget 0 s.syu.counters p) with syu := { s.syu with
              secded := satAdd s.syu.secded 1 0xFFFFFFFF, badCounters := mset none s.syu.badCounters p none } }) ∧
            (mget none s.syu.badCounters p = some true → ∃ x, load =
              .next (({ s with freeCtr := s.freeCtr + 1 }.out (.coreValue core x)).raise (syuBad c p 0)))) ∧
          (n ≠ 8 ∨ s.coreSpace3 c a = false → load = .next trap)) ∧
        (1 ≤ v → v ≤ 16 → s.usable c = true → exec (.armatureCounterStore core a v) s = .next sent ∧ (n = 8 → store = .next sent)) ∧
        (v % 2 ^ 64 = 0 ∨ 16 < v % 2 ^ 64 ∨ s.usable c = false → exec (.armatureCounterStore core a v) s = .next trap) ∧
        (n ≠ 8 → store = .next trap)) ∧
      (gSpace a = 15 →
        (c ≠ 16 → a % 2 ^ 32 / 8 * 8 ≠ 0x300028 → load = .next trap) ∧ (c ≠ 16 → store = .next trap) ∧
        (c = 16 → gZeroOk a = true → a % 2 ^ 32 / 8 * 8 ≠ 0x300028 →
          load = .next ((s.regRead 2 core (a % 2 ^ 32) n).2.out (.coreValue core (s.regRead 2 core (a % 2 ^ 32) n).1))) ∧
        (c = 16 → gZeroOk a = true → store = .next (s.regWrite 2 core (a % 2 ^ 32) n (v % 2 ^ (8 * n))))) ∧
      (gSpace a ≠ 0 → gSpace a ≠ 1 → gSpace a ≠ 3 → gSpace a ≠ 15 → load = .next trap ∧ store = .next trap))

/-- R496 to R501: the cartridge attaches in its orders, reports wear, takes one command at a time, and is withdrawn. The model's choices: the stages
that one command each takes (log entry 99), that a WRITE's lines are read when it starts (101), what a medium holds that this device has not
written, and that FORMAT leaves zeros in the directory, no marks and a fresh medium behind it (102), what a detach leaves in the registers (104),
and the layout of the certificate's signed bytes (158); the reasons for which COUNT 0, an unformatted medium and a failing FORMAT are refused are its
readings (100). -/
def Obligations.CartridgeEvents : Prop :=
  ∀ (s : State), s.pln.fatal = false →
    let x := s.crt
    let put (y : Crt) : State := { s with crt := y }
    let refused (y : Crt) (reason : Nat) : State := (put { y with st := 5 }).raise { code := 0x0B0B, detail := reason }
    let wornPut (t : State) (y : Crt) (gb : Nat) : State := { t with crt := { y with writtenGb := gb % 2 ^ 48, permille := wearPermille gb } }
    (s.isOn 19 = true → ∀ i,
      let good := sha3 i.sig.key 96 = s.pln.fuses.authority ∧
        ecdsaOk i.sig.key (sha384 (i.certIdent % 2 ^ 128 + i.certBlocks % 2 ^ 32 * 2 ^ 128 + i.certRatedGb % 2 ^ 64 * 2 ^ 160) 28) i.sig.r i.sig.s = true ∧
        i.certIdent = i.ident ∧ i.certBlocks = i.blocks ∧ i.certRatedGb = 24000000
      let read : Crt := { x with ident := i.ident % 2 ^ 128, blocks := i.blocks % 2 ^ 32, writtenGb := i.writtenGb % 2 ^ 48, mediaFormats := i.mediaFormats % 16 }
      (x.st = 0 → exec (.cartridgeAttach i) s = .next (put { x with st := 1, since := s.now })) ∧
      (x.st = 1 → i.linkOk = true → exec (.cartridgeAttach i) s = .next (put { x with st := 2 })) ∧
      (x.st = 1 → i.linkOk = false → exec (.cartridgeAttach i) s = .next (refused x 1)) ∧
      (x.st = 2 → i.identOk = false → exec (.cartridgeAttach i) s = .next (refused x 3)) ∧
      (x.st = 2 → i.identOk = true → ¬good → exec (.cartridgeAttach i) s = .next (refused read 2)) ∧
      let inserted (st seen : Nat) : State := wornPut { s with freeCtr := s.freeCtr + 1 } { read with
        st := st, format := if i.format = 1 || i.format = 2 then i.format else 0, medium := s.freeCtr, written := [], media := [], marks := []
        wearSeen := seen } i.writtenGb
      let worn : FaultRec := { code := 0x0B0C, detail := wearPermille i.writtenGb }
      (x.st = 2 → i.identOk = true → good →
        (wearPermille i.writtenGb < 900 → exec (.cartridgeAttach i) s = .next (inserted 3 0)) ∧
        (900 ≤ wearPermille i.writtenGb → wearPermille i.writtenGb < 1000 → exec (.cartridgeAttach i) s = .next ((inserted 3 1).raise worn)) ∧
        (1000 ≤ wearPermille i.writtenGb → exec (.cartridgeAttach i) s = .next (((inserted 4 2).raise worn).raise worn)))) ∧
    (x.st = 1 ∨ x.st = 2 → ticksMs 5000 ≤ s.now - x.since → exec .cartridgeAttachTimeout s = .next (refused x 1)) ∧
    (x.st ≠ 0 → ∃ t, exec .cartridgeDetached s = .next t ∧ t.crt.st = 0 ∧ t.crt.busy = none ∧ t.crt.media = [] ∧ t.crt.ident = 0 ∧
      (x.busy.isSome = true → t.crt.status = 4 ∧ t.crt.reason = 6 ∧ t.crt.done = 0)) ∧
    (s.isOn 19 = true → x.busy = none → ∀ v, bit v 63 = true →
      let u := s.access 2 0xD00038
      let op := bits v 24 4
      let next := if op = 1 then exec (.crtRead v) s else if op = 2 then exec (.crtWrite v) s else exec (.crtFormat v) s
      let k : CrtCmd := { op := op, addr := x.cmdAddr, lba := x.cmdLba, count := bits v 0 24, ctx := bits v 28 5, snap := bit v 33
                          version := bits v 34 2, data := [], landed := none }
      let busy (d : List (Nat × Bool)) : State := { u with crt := { x with
        cmd := v % 2 ^ 36, status := 1, reason := 0, done := 0, busy := some { k with data := d } } }
      1 ≤ op → op ≤ 3 →
      (∀ r, s.crtReason v = some r → next = .next { u with crt := { x with cmd := v % 2 ^ 36, status := 3, reason := r, done := 0, busy := none } }) ∧
      (s.crtReason v = none → op ≠ 2 → next = .next (busy [])) ∧
      (s.crtReason v = none → op = 2 → s.coreRefused k.ctx k.addr (64 * k.count) false k.snap = none → s.hbm.bad = [] →
        next = .next (busy ((List.range (64 * k.count)).map fun j =>
          (s.hbmLine (s.physLine k.ctx (k.addr + 64 * j) k.snap), s.hbmPoisoned (s.physLine k.ctx (k.addr + 64 * j) k.snap)))))) ∧
    (∀ k gb, x.busy = some k → k.landed = none →
      let ended (y : Crt) (status done : Nat) : Crt := { y with status := status, reason := 0, done := done, busy := none }
      (k.op = 1 → k.ctx ≤ 16 → k.addr + 4096 * k.count ≤ 2 ^ 40 → exec (.cartridgeCommandComplete [] gb) s =
        .next ((put { x with busy := some { k with landed := some (2, k.count) } }).issueMem .crt .plinth k.ctx k.addr true false
          ((List.range (64 * k.count)).map fun j => x.line (64 * k.lba + j)))) ∧
      (k.op = 2 → wearPermille gb < 900 → exec (.cartridgeCommandComplete [] gb) s =
        .next (wornPut s (ended (x.store (64 * k.lba) k.data) 2 k.count) gb)) ∧
      (k.op = 3 → wearPermille gb < 900 →
        let dir := if k.version = 1 then 1 else 16
        exec (.cartridgeCommandComplete [] gb) s = .next (wornPut { s with freeCtr := s.freeCtr + 1 }
          (ended (Crt.store { x with format := k.version, medium := s.freeCtr, written := [], media := [], marks := [] } 0
            (List.replicate (64 * dir) (0, false))) 2 dir) gb)) ∧
      (∀ failing,
        let bad := (List.range k.count).filter fun i => failing.contains (k.lba + i)
        let failure (i : Nat) : FaultRec := { code := 0x0B0D, ctx := if k.ctx ≤ 16 then k.ctx else 0xFFFF, detail := (k.lba + i) % 2 ^ 32 }
        (∀ i rest, bad = i :: rest → k.op = 1 → k.ctx ≤ 16 → k.addr + 4096 * k.count ≤ 2 ^ 40 →
          ∃ t, exec (.cartridgeCommandComplete failing gb) s = .next t ∧ t.outbox = (s.raise (failure i)).outbox ∧
            t.crt = { x with busy := some { k with landed := some (5, k.count - bad.length) } } ∧
            t.hbm.accs.map (fun a => (a.data, a.poison)) = s.hbm.accs.map (fun a => (a.data, a.poison)) ++ (List.range (64 * k.count)).map
              fun j => if bad.contains (j / 64) then (0, true) else x.line (64 * k.lba + j)) ∧
        (∀ i rest, bad = i :: rest → k.op = 2 → wearPermille gb < 900 → ∃ t, exec (.cartridgeCommandComplete failing gb) s = .next t ∧
          t.crt = (wornPut s (ended (x.store (64 * k.lba) (k.data.take (64 * i))) 4 i) gb).crt ∧
          t.outbox = ((put (ended (x.store (64 * k.lba) (k.data.take (64 * i))) 4 i)).raise (failure i)).outbox) ∧
        (∀ i rest, failing = i :: rest → k.op = 3 → wearPermille gb < 900 → ∃ t, exec (.cartridgeCommandComplete failing gb) s = .next t ∧
          t.crt = (wornPut s (ended x 4 0) gb).crt)))

/-- R515, R516, R526, R527, R529: an interval's energies are charged and none is lost; at a window's close the requested point follows the
budget, and misses and overruns are recorded. That the conversion loss counts with D0, and that remainders and the shares of Loading and
Tearing-down contexts fall to the firmware system context, are the model's choices (log entry 105); that ENERGY_UJ 0 sets no budget is its
reading (log entry 106). -/
def Obligations.EnergyAccounts : Prop :=
  (∀ (s : State) (u : LedgerIn), ∃ t, exec (.ledgerInterval u) s = .next t ∧ t = { s with ctxPwr := t.ctxPwr, pwr := { s.pwr with
      domains := t.pwr.domains, fwEnergy := t.pwr.fwEnergy } } ∧
    (∀ d, d < 20 → t.dom d = { s.dom d with energy := ((s.dom d).energy + u.energy.getD d 0 + if d = 0 then u.loss else 0) % 2 ^ 64 }) ∧
    (∀ c, c < 16 → (s.ctx c).st = .running →
      t.cp c = { s.cp c with ledger := ((s.cp c).ledger + ((List.range 20).map fun d => s.charge u d c).sum) % 2 ^ 64 }) ∧
    (∀ c, 16 ≤ c ∨ (s.ctx c).st ≠ .running → t.cp c = s.cp c) ∧
    t.pwr.fwEnergy = (s.pwr.fwEnergy + (((List.range 20).map fun d => u.energy.getD d 0).sum + u.loss -
      ((s.charged.map fun c => ((List.range 20).map fun d => s.charge u d c).sum).sum))) % 2 ^ 64) ∧
  (∀ (s : State) (c : Nat), c < 16 → (s.ctx c).st = .running → s.pln.fatal = false →
    let x := s.cp c
    x.windows < (s.group x.gRef).superstep / 2 ^ x.windowLog2 →
    let used := (x.ledger - x.windowOpen) * x.sRef
    let budget := x.energy * 2 ^ x.windowLog2
    let exceeded := x.energy ≠ 0 ∧ budget < used
    let closed (request : Nat) : State := (s.setCp c { x with
      request := request, windowOpen := x.ledger, windows := x.windows + 1, winMisses := 0, winExcess := 0 }).refreshTdoms
    let missed : FaultRec := { code := 0x0801, ctx := c, detail := min x.winMisses 0xFFFF + min (x.winExcess / 1000) 0xFFFF * 2 ^ 16 }
    let late := x.deadline ≠ 0 ∧ 0 < x.winMisses
    let overRec (request reason : Nat) : FaultRec :=
      { code := 0x0802, ctx := c, detail := request + reason * 2 ^ 3 + min (used * 1000 / budget) 0xFFFF * 2 ^ 16 }
    let owed : List FaultRec := if late then [missed] else []
    let got := exec (.energyWindowClose c) s
    (x.energy = 0 ∨ (x.pin = true ∧ ¬exceeded) → got = .next ((closed 0).raiseAll owed)) ∧
    (x.energy ≠ 0 → x.pin = false → ¬exceeded →
      (100 * used ≤ 94 * budget → got = .next ((closed (x.request - 1)).raiseAll owed)) ∧
      (94 * budget < 100 * used → got = .next ((closed x.request).raiseAll owed))) ∧
    (exceeded → x.pin = true → got = .next ((closed 0).raiseAll (owed ++ [overRec 0 2]))) ∧
    (exceeded → x.pin = false → x.request = 4 → got = .next ((closed 4).raiseAll (owed ++ [overRec 4 1]))) ∧
    (exceeded → x.pin = false → x.request < 4 →
      let t := closed (x.request + 1)
      let low := ∃ k, k < 12 ∧ 0 < s.setsIn c k ∧ (t.tdom k).point < x.request + 1
      (¬low → got = .next (t.raiseAll owed)) ∧ (low → got = .next (t.raiseAll (owed ++ [overRec (x.request + 1) 3])))))

/-- R530 to R533, R605, R608: temperature, input power, input voltage and rails: forced points while they can help, a device-fatal record and
power off when they cannot, which supersedes every other cause. Several causes in one 100 µs interval move a forced point from where it stood when
the interval began, the largest index of theirs counting. An input below 36 V takes its blade's power good away, and without the other blade the
module is off. Which sensors lie in which domain (log entry 107), and where an episode ends and how the points fall again (log entry 108), are the
model's choices; that a trip which stands writes no second record is its reading (log entry 110). -/
def Obligations.PowerLimits : Prop :=
  (∀ (s : State) (u : TempsIn),
    let die := hottest ((List.range 56).map fun i => (i, u.die.getD i 0))
    let stack := hottest ((List.range 12).map fun i => (i, u.hbm.getD i 0))
    (s.pln.tripped = false → s.pln.fatal = false → die.2 < 105 → stack.2 < 105 → ∃ t, exec (.sensorPoll u) s = .next t ∧
      t.pwr.dieMax = die.2 ∧ t.pwr.hbmMax = stack.2 ∧ t.pwr.vinMv = u.vinMv % 65536 ∧ t.pwr.pinW = u.pinW % 65536 ∧
      ∀ k, k < 12 →
        let h := (hottest (nearSensors u k)).2
        let x := s.tdom k
        let same := x.ivl = some (s.now / ticksUs 100)
        let start := if same then x.base else x.forced
        let byHeat := if 95 < h then min 4 (start + 1) else if h ≤ 93 then start - 1 else start
        let byPower := if s.pwr.capEpisode then min 4 (start + 1) else 0
        (t.tdom k).forced = max (if same then x.forced else 0) (max byPower byHeat) ∧
        (t.tdom k).heatHeld = (decide (95 < h) && (x.heatHeld || (decide (start = 4) && decide (97 < h)))) ∧
        (t.tdom k).capHeld = (s.pwr.capEpisode && (x.capHeld || decide (start = 4))) ∧
        (t.tdom k).held = ((t.tdom k).heatHeld || (t.tdom k).capHeld)) ∧
    (s.pln.tripped = false → 105 ≤ die.2 ∨ 105 ≤ stack.2 → ∃ t, exec (.sensorPoll u) s = .next t ∧
      t.pln.fatal = true ∧ t.pln.thermTrip = true ∧ t.pln.tripped = true ∧ t.pln.stressed = true ∧ t.pln.trainPowered = false ∧
      t.pln.hbmLost = true ∧ .thermTrip ∈ t.outbox ∧ (s.pln.enabled = true →
        { code := 0x0804, devFatal := true, detail := if 105 ≤ die.2 then heatDetail die false else heatDetail stack true : FaultRec } ∈ t.pln.frq) ∧
      (∀ d, 3 ≤ d → d < 20 → (t.dom d).st = 0) ∧ (∀ k, k < 12 → (t.tdom k).railMv = 0) ∧ ∀ d, d < 3 → t.dom d = s.dom d) ∧
    (s.pln.tripped = true ∨ (s.pln.fatal = true ∧ die.2 < 105 ∧ stack.2 < 105) → exec (.sensorPoll u) s = .next { s with pwr := { s.pwr with
      dieMax := die.2 % 256, dieSensor := die.1, hbmMax := stack.2 % 256, hbmStack := stack.1, vinMv := u.vinMv % 65536
      pinW := u.pinW % 65536 } })) ∧
  (∀ (s : State) (mw : Nat),
    let limit := 1000 * s.pwr.ceilingW
    let p := s.pwr
    let above := (limit < mw ∨ p.capEpisode = true) ∧ 97 * limit ≤ 100 * mw
    (s.pln.fatal = true → exec (.powerCap mw) s = .next { s with pwr := { p with pinW := mw / 1000 % 65536 } }) ∧
    (s.pln.fatal = false → above → ∃ t, exec (.powerCap mw) s = .next t ∧ t.pwr.pinW = mw / 1000 % 65536 ∧ t.pwr.capEpisode = true ∧
      (p.capEpisode = false → s.pln.enabled = true → { code := 0x0805, detail := min (mw / 1000) 0xFFFF : FaultRec } ∈ t.pln.frq) ∧
      ∀ k, k < 12 →
        let x := s.tdom k
        let same := x.ivl = some (s.now / ticksUs 100)
        let start := if same then x.base else x.forced
        (t.tdom k).forced = max (if same then x.forced else 0) (min 4 (start + 1)) ∧
        (t.tdom k).capHeld = (x.capHeld || decide (start = 4)) ∧ (t.tdom k).heatHeld = x.heatHeld ∧
        (t.tdom k).held = (x.heatHeld || x.capHeld || decide (start = 4))) ∧
    (s.pln.fatal = false → ¬above → ∃ t, exec (.powerCap mw) s = .next t ∧ t.pwr.pinW = mw / 1000 % 65536 ∧ t.pwr.capEpisode = false ∧
      t.pln = s.pln ∧ ∀ k, k < 12 → (t.tdom k).forced = (s.tdom k).forced ∧ (t.tdom k).held = (s.tdom k).heatHeld ∧
        (t.tdom k).capHeld = false ∧ (t.tdom k).heatHeld = (s.tdom k).heatHeld)) ∧
  (∀ (s : State), s.pln.fatal = false →
    let dead (t : State) (r : FaultRec) : Prop := t.pln.fatal = true ∧ t.pln.fatalRec = some r ∧ t.pln.stressed = true ∧
      (∀ d, 1 ≤ d → d < 20 → (t.dom d).st = 0) ∧ t.dom 0 = s.dom 0
    (∀ blade mv, blade < 2 → mv < 40000 ∨ 60000 < mv →
      let other := if blade = 0 then s.pln.pb1 else s.pln.pb0
      (36000 ≤ mv → ∃ t, exec (.inputVoltage blade mv) s = .next t ∧ t.pwr.vinMv = mv % 65536 ∧ t.pln.pb0 = s.pln.pb0 ∧ t.pln.pb1 = s.pln.pb1 ∧
        dead t { code := 0x0806, devFatal := true, detail := min mv 0xFFFF }) ∧
      (mv < 36000 → other = true → ∃ t, exec (.inputVoltage blade mv) s = .next t ∧ t.pwr.vinMv = mv ∧
        t.pln.pb0 = decide (blade = 1) ∧ t.pln.pb1 = decide (blade = 0) ∧ dead t { code := 0x0806, devFatal := true, detail := mv }) ∧
      (mv < 36000 → other = false → ∃ t, exec (.inputVoltage blade mv) s = .next t ∧ t.now = 0 ∧ t.pln.pb0 = false ∧ t.pln.pb1 = false ∧
        t.pln.slot = 0 ∧ t.pln.ready = false ∧ t.tiles = [] ∧ t.ctxs = [] ∧ t.pln.fuses = s.pln.fuses ∧
        (∀ d, 1 ≤ d → d < 20 → (t.dom d).st = 0))) ∧
    (∀ d high, d < 20 → ∃ t, exec (.railFault d high) s = .next t ∧
      dead t { code := 0x0807, devFatal := true, detail := d + b2n high * 2 ^ 5 }))

/-- R57 to R61, R426, R561, R609 to R612: a domain goes Off in its order, a lost clock or a lockstep mismatch stops the device, and the blades start
it. A request for a domain that R57 or R61 holds changes nothing and is not audited, which is the model's reading (log entry 111); so is that retired
frames are known across the removal of power (log entry 155), and that a second blade which comes after 5 s comes too late. That D4 and D5, too, are
refused with an audit entry while they are not On is its choice (log entry 182). -/
def Obligations.PowerEvents : Prop :=
  ∀ (s : State),
    let stopped (detail : Nat) : State :=
      let t := s.raise { code := 0x0C03, devFatal := true, detail := detail }
      { t with pln := { t.pln with failed := true, bootFatal := true } }
    (∀ d, d < 20 → d ≠ 4 → d ≠ 5 →
      let order := d ≠ 0 ∧ ∀ e, e < 20 → neededBy d e = true → (s.dom e).st = 0
      let off := s.setDom d { s.dom d with st := 0 }
      ((s.dom d).st ≠ 2 → exec (.domainPowerDown d) s = .next s) ∧
      ((s.dom d).st = 2 → ¬order → exec (.domainPowerDown d) s = .next (s.auditGeneral 7 1 0 (d + 2 * 2 ^ 32))) ∧
      ((s.dom d).st = 2 → order → s.domHeld d = true → exec (.domainPowerDown d) s = .next s) ∧
      ((s.dom d).st = 2 → order → s.domHeld d = false →
        (d = 1 ∨ d = 2 ∨ 18 ≤ d → exec (.domainPowerDown d) s = .next off) ∧
        (d = 3 → exec (.domainPowerDown d) s = .next { off with lnk := { s.lnk with
          ports := mvals {} (fun _ p => { p.down with signal := false }) s.lnk.ports } }) ∧
        (6 ≤ d → d ≤ 17 → exec (.domainPowerDown d) s = .next (off.setTdom (d - 6) { s.tdom (d - 6) with railMv := 0 })))) ∧
    (∀ h, h < 2 → s.mayDrain h = false → exec (.domainPowerDown (4 + h)) s = .next (s.auditGeneral 7 1 0 (4 + h + (s.dom (4 + h)).st * 2 ^ 32))) ∧
    (∀ h, h < 2 → s.mayDrain h = true → s.pwinsIn h = [] → exec (.domainPowerDown (4 + h)) s =
      .next { s.setDom (4 + h) { s.dom (4 + h) with st := 3 } with
        hbm := { s.hbm with hdom := mset {} s.hbm.hdom h { s.hdom h with down := true, confirmed := [] } } }) ∧
    (∀ v, exec (.plinthLockstep v) s = .next (s.raise { code := 0x0B09, devFatal := true, detail := v % 2 ^ 32 })) ∧
    (∀ pll i, s.pln.ready = true → pll ≤ 2 → exec (.pllLockLoss pll i) s = .next (stopped (pll + i % 16 * 2 ^ 4))) ∧
    (s.pln.slot ≠ 0 → ∃ i, i < 16 ∧ exec .serdesRefclkLoss s = .next (stopped (1 + i * 2 ^ 4))) ∧
    (∀ b, b < 2 →
      let pb0 := s.pln.pb0 || decide (b = 0)
      let pb1 := s.pln.pb1 || decide (b = 1)
      let late := s.pln.pb0 ≠ s.pln.pb1 ∧ pb0 = pb1 ∧ ticksMs 5000 ≤ s.now - s.pln.pbSince ∧ s.pln.slot = 0
      (s.pln.pb0 = false → s.pln.pb1 = false → ∃ sel, sel < 4 ∧ exec (.bladePowerGood b) s = .next { s with
        freeCtr := s.freeCtr + 1
        pln := { s.pln with pb0 := pb0, pb1 := pb1, pbSince := s.now, smbAddr := 0x60 + sel } }) ∧
      (s.pln.pb0 = true ∨ s.pln.pb1 = true →
        (¬late → exec (.bladePowerGood b) s = .next { s with pln := { s.pln with pb0 := pb0, pb1 := pb1 } }) ∧
        (late → exec (.bladePowerGood b) s = .next { s with pln := { s.pln with pb0 := pb0, pb1 := pb1, pbLate := true } }))) ∧
    (s.pln.pb0 ≠ s.pln.pb1 → ticksMs 5000 ≤ s.now - s.pln.pbSince → s.pln.slot = 0 →
      exec .secondBladeTimeout s = .next { s with pln := { s.pln with pbLate := true } }) ∧
    (∃ t, exec .powerRemoved s = .next t ∧ t.now = 0 ∧ t.tiles = [] ∧ t.tsets = [] ∧ t.ctxs = [] ∧
      t.hbm = { frames := s.hbm.frames.filter fun kv => decide (kv.2 = .retired) } ∧ t.syu = {} ∧ t.rmn = {} ∧
      t.hif = {} ∧ t.pln.fatal = false ∧ t.pln.frq = [] ∧ t.pln.fuses = s.pln.fuses ∧ t.pln.slotA = s.pln.slotA ∧ t.pln.slotB = s.pln.slotB ∧
      t.pln.auditChange = s.pln.auditChange ∧ t.pln.auditMark = s.pln.auditMark ∧ t.pln.auditGeneral = s.pln.auditGeneral ∧
      t.ras.retire = s.ras.retire ∧ t.pln.poweredMs = s.pln.poweredMs + s.now / 100000)

/-- R429, R538 to R552, R561: what asks for a reset; which path a start takes; what a cold and a warm boot leave when the physical device shows no
fault; that a boot runs its rows in turn, Orders 6 to 8 beside each other, a row waiting while a domain that its own need is Off (R60), and waits for
the domains of R550 before READY. How many rows one command runs (log entry 112), how a row ends beside one that fails, and the tile domains that are
Off again (154), are the model's choices; that a request which merges into a waiting one writes no second record (117), the path after a loss of power
(113), AFTER_FATAL after a conventional reset (114), the firmware system context at work from READY on (19), and the rates that count as a trained
link (179) are its readings. -/
def Obligations.ResetsAndBoots : Prop :=
  (∀ (s : State), s.pln.slot ≠ 0 ∨ s.pln.failed = true ∨ s.pln.boot ≠ [] →
    let dark (h : Hif) : Hif := { h with dlUp := false, configReady := false, speed := 0, width := 0, flit := false }
    let asked (i : Instr) (cause : Nat) : Prop :=
      (s.pln.resetReq = none → ∃ t, exec i s = .next t ∧ t.hif = dark t.hif ∧ t.pln.resetReq = some (cause, s.pln.resetFull) ∧ t.pln.fatal = true) ∧
      (s.pln.resetReq ≠ none → exec i s = .next { s with hif := dark s.hif })
    asked .perstAssert 1 ∧ (s.hif.dlUp = true → asked .hotReset 2 ∧ asked .dlDown 3) ∧
    (∀ m, m = 1 ∨ m = 0x10 → s.claims m = true →
      let u := s.access m 0x108
      (s.pln.resetReq = none → exec (.plnResetGo m) s =
        .next { u with pln := { u.pln with resetReq := some (4, s.pln.resetFull), resetGo := true } }) ∧
      (s.pln.resetReq ≠ none → exec (.plnResetGo m) s = .next { u with pln := { u.pln with resetGo := true } }))) ∧
  (∀ (s : State) (speed width : Nat) (flit : Bool), s.isOn 2 = true → s.hif.dlUp = false →
    (1 ≤ speed → speed ≤ 6 → width = 16 ∨ width = 8 → flit = true ∨ speed ≠ 6 → exec (.dlUp speed width flit) s =
      .next { s with hif := { s.hif with dlUp := true, speed := speed, width := width, flit := flit } }) ∧
    (speed = 0 ∨ 6 < speed ∨ (width ≠ 16 ∧ width ≠ 8) ∨ (speed = 6 ∧ flit = false) → exec (.dlUp speed width flit) s = .next s)) ∧
  (∀ (s : State) (b : BootIn), b.pll = none → b.spine = none → b.hbm = none → b.bist = [] → b.proof = [] → b.cut = 0 → 10 ≤ b.parts →
    let a := s.pln.slotA
    let floor := s.pln.fuses.fwFloor
    a.auth = true → a.form = true → floor ≤ a.svn → s.pln.slotB.svn ≤ a.svn → s.pln.cbtFlash = s.mbx.provisioned → s.ras.retire = [] →
    s.pln.openChange = none →
    let up (t : State) : Prop := t.pln.ready = true ∧ t.pln.boot = [] ∧ t.pln.stage = 6 ∧ t.pln.slot = 1 ∧ t.pln.running = a ∧
      t.hif.configReady = true ∧ t.elapsed = min (b.ms / 10) 0xFFFF ∧ (t.ctx 16).tableValid = true ∧ t.pln.fuses = s.pln.fuses ∧
      (∀ d ∈ [1, 2, 3, 4, 5, 18, 19], (t.dom d).st = 2) ∧ (∀ d, 6 ≤ d → d < 18 → (t.dom d).st = 0) ∧
      t.pln.hbmLost = false ∧ t.pln.trainPowered = true
    (s.pln.pb0 = true → s.pln.pb1 = true → s.pln.pbLate = false → s.pln.failed = false → s.pln.ready = false → s.pln.resetReq = none →
      s.pln.fatal = false → s.pln.boot = [] → ∃ t, exec (.coldBoot b) s = .next t ∧ up t ∧ t.pln.path = 0 ∧ t.pln.stressed = false) ∧
    (∀ cause full, s.pln.resetReq = some (cause, full) → s.pln.pb0 = false ∨ s.pln.pb1 = false → exec (.warmBoot b) s = .next s) ∧
    (∀ cause full, s.pln.resetReq = some (cause, full) → s.pln.pb0 = true → s.pln.pb1 = true →
      s.pln.thermTrip = false ∨ s.pwr.dieMax ≤ 85 → ∃ t, exec (.warmBoot b) s = .next t ∧
      let cold := s.pln.hbmLost = true ∨ (s.pln.boot ≠ [] ∧ s.pln.failed = false ∧ s.pln.path = 0)
      let fast := s.pln.trainPowered = true ∧ b.savedOk = true ∧ full = false ∧ s.pln.stressed = false
      up t ∧ t.pln.resetReq = none ∧ t.pln.resetGo = false ∧ t.pln.cause = cause ∧ t.pln.afterFatal = s.pln.fatal ∧ t.pln.fatal = false ∧
        t.tiles = [] ∧ t.tsets = [] ∧ (∀ c, c < 16 → t.ctx c = {}) ∧ t.syu = {} ∧ t.rmn.items = [] ∧ (∀ n, n < 32767 → t.queue n = {}) ∧
        t.hbm.mem = [] ∧ t.hbm.fmap = [] ∧
        (cold → t.pln.path = 0 ∧ t.pln.declined = 0) ∧ (¬cold → fast → t.pln.path = 1 ∧ t.pln.declined = 0) ∧
        (¬cold → ¬fast → t.pln.path = 2 ∧ 1 ≤ t.pln.declined ∧ t.pln.declined ≤ 4))) ∧
  (∀ (s : State) (b : BootIn) (k i : Nat), b.pll = some (k, i) → 2 ≤ b.parts → s.pln.pb0 = true → s.pln.pb1 = true → s.pln.pbLate = false →
    s.pln.failed = false → s.pln.ready = false → s.pln.resetReq = none → s.pln.fatal = false → s.pln.boot = [] → s.pln.slotA.auth = true →
    s.pln.slotA.form = true → s.pln.fuses.fwFloor ≤ s.pln.slotA.svn → s.pln.cbtFlash = s.mbx.provisioned → s.pln.openChange = none →
    ∃ t, exec (.coldBoot b) s = .next t ∧ t.pln.failed = true ∧ t.pln.ready = false ∧ t.pln.fatal = true ∧ t.pln.stage = 1) ∧
  (∀ (s : State) (b : BootIn), s.pln.failed = false → s.pln.fatal = false → s.pln.resetReq = none → b.parts = 1 →
    let u : State := { s with now := max s.now (s.pln.pathSince.getD s.now + ticksMs b.ms) }
    let next := if s.pln.path = 0 then exec (.coldBoot b) s else exec (.warmBoot b) s
    let on (t : State) (d : Nat) : State := t.setDom d { t.dom d with st := 2 }
    let waits (x : BootPart) : Prop := ∀ rest, s.pln.boot = x :: rest → next = .next u
    ((s.dom 1).st ≠ 2 → ∀ x ∈ [BootPart.pcie, .spine, .links, .hbm, .bist, .tiles], waits x) ∧
    ((s.dom 18).st ≠ 2 → ∀ x ∈ [BootPart.links, .hbm, .bist, .tiles], waits x) ∧
    (∀ rest, s.pln.boot = .control :: rest → next = .next { on u 1 with pln := { s.pln with boot := rest } }) ∧
    (∀ rest, s.pln.boot = .pcie :: rest → (s.dom 1).st = 2 → next =
      .next { on u 2 with hif := { s.hif with configReady := true }, pln := { s.pln with boot := rest } }) ∧
    (∀ rest, s.pln.boot = .spine :: rest → (s.dom 1).st = 2 → b.spine = none → next = .next { on (on u 18) 19 with pln := { s.pln with boot := rest } }) ∧
    (∀ rest k i, s.pln.boot = .spine :: rest → (s.dom 1).st = 2 → b.spine = some (k, i) → k ≠ 6 → ∃ t, next = .next t ∧ t.pln.failed = true ∧ t.pln.fatal = true ∧
      t.pln.boot = .spine :: rest) ∧
    (∀ rest k ch, s.pln.boot = .hbm :: rest → (s.dom 1).st = 2 → (s.dom 18).st = 2 → s.pln.path ≠ 1 → b.hbm = some (k, ch) → ∃ t, next = .next t ∧ t.pln.failed = true ∧
      t.pln.fatal = true ∧ t.pln.boot.head? = some .hbm ∧ t.pln.trainPowered = s.pln.trainPowered ∧
      (rest = [.bist, .tiles, .commit] → t.pln.boot = [.hbm, .tiles, .commit] ∧ ∀ d, 6 ≤ d → d < 18 → (t.dom d).st = 2)) ∧
    (∀ i, s.pln.boot = [.links, .hbm, .bist, .tiles, .commit] → (s.dom 1).st = 2 → (s.dom 18).st = 2 → s.pln.path ≠ 1 → b.spine = some (6, i) → b.hbm = none → ∃ t, next = .next t ∧
      t.pln.failed = true ∧ t.pln.fatal = true ∧ t.pln.boot = [.links, .tiles, .commit] ∧ t.pln.trainPowered = true ∧
      ∀ d, 3 ≤ d → d < 18 → (t.dom d).st = 2) ∧
    (∀ d, s.pln.boot = [.commit] → s.pln.cand = {} → s.pln.ready = false → d ∈ [0, 1, 2, 4, 5, 18] → (s.dom d).st ≠ 2 → ∃ t, next = .next t ∧
      t.pln.ready = false ∧ t.pln.boot = [.commit] ∧ t.pln.fuses = s.pln.fuses))

/-- R557 to R560, R613: a limited change is refused, or takes effect with its step, its audit entry and its reply; power lost on the way leaves it open,
and the next start completes or abandons it. The master sends its request as a message on channel 2 or 4, which the Plinth controller takes in the
same step, the model's choice (log entry 119); a reply is lost where its channel is FULL, and a request whose length or zero bytes are not those of
R559 is refused as a value (log entry 157). Cause 4 of a RESET that the PF driver asks for, and that a second RESET merges into one that waits, are
its readings (log entry 117). A BMC's request under the ROM is answered with the error completion (R613). -/
def Obligations.LimitedChanges : Prop :=
  (∀ (s : State) (m : Nat), m = 3 ∨ m = 0x10 → s.pln.slot ≠ 0 →
    let n := if m = 3 then 3 else 5
    let q := if m = 3 then 2 else 4
    let x := s.chan q
    let f := s.pln.fuses
    (∀ (t : State) code result counter, code < 2 ^ 8 → result < 2 ^ 8 →
      let y := t.chan n
      let reply := code + result * 2 ^ 8 + counter % 65536 * 2 ^ 32
      let sent : Channel := { y with
        data := reply + y.data / 2 ^ 64 * 2 ^ 64, full := true, len := 8, seq := (y.seq + 1) % 65536, armed := max 1 y.timeoutMs, since := t.now }
      (y.full = true → t.replyTo m code result counter = t) ∧
      (y.full = false → y.receiver < 0x10 → y.receiver ≠ 3 → t.replyTo m code result counter = t.setChan n sent) ∧
      (y.full = false → y.receiver = 3 →
        t.replyTo m code result counter = (t.setChan n { sent with mctp := true }).out (.mbxDeliver 8 reply)) ∧
      (y.full = false → 0x10 ≤ y.receiver → t.replyTo m code result counter =
        ((t.setChan n sent).event (y.receiver - 0x10) (3 + n * 2 ^ 64)).msix (y.receiver - 0x10) 2)) ∧
    (s.pln.pb0 = true ∨ s.pln.pb1 = true → ∀ v cut, let off : State := { s with pln := { s.pln with slot := 0 } }
      let answer : State := if m = 3 then off.out .errorCompletion else off
      exec (.reset m v) off = .next answer ∧ exec (.reduceCeiling m v cut) off = .next answer ∧
      exec (.advanceFirmwareFloor m v cut) off = .next answer ∧ exec (.advanceVerjoFloor m v cut) off = .next answer) ∧
    (x.full = true → ∀ v cut, exec (.reset m v) s = .next s ∧ exec (.reduceCeiling m v cut) s = .next s ∧
      exec (.advanceFirmwareFloor m v cut) s = .next s ∧ exec (.advanceVerjoFloor m v cut) s = .next s) ∧
    (x.full = false → x.sender = m → x.receiver = 1 →
      let taken (code v : Nat) : State := s.setChan q { x with
        data := code + v % 2 ^ 16 * 2 ^ 32 + x.data / 2 ^ 64 * 2 ^ 64, len := 8, seq := (x.seq + 1) % 65536, armed := max 1 x.timeoutMs
        since := s.now, full := false, delivered := true, mctp := false }
      (∀ full,
        (1 < full % 2 ^ 16 → exec (.reset m full) s = .next ((taken 4 full).replyTo m 4 2 0)) ∧
        (full % 2 ^ 16 ≤ 1 →
          let r := (taken 4 full).replyTo m 4 0 0
          (s.pln.resetReq ≠ none → exec (.reset m full) s = .next r) ∧
          (s.pln.resetReq = none → exec (.reset m full) s =
            .next { r with pln := { r.pln with resetReq := some (if m = 3 then 5 else 4, decide (full % 2 ^ 16 = 1)) } }))) ∧
      (∀ cmd code setting used limit old ok change,
        (cmd, code, setting, used, limit, old, ok, change) ∈
          ([(fun v cut => Instr.reduceCeiling m v cut, 1, 2, f.reductions, 8, f.ceilingW,
              fun v => 500 ≤ v ∧ v < s.pwr.ceilingW, fun v => .ceiling v),
            (fun v cut => Instr.advanceFirmwareFloor m v cut, 2, 4, f.floorSteps, 32, f.fwFloor,
              fun v => f.fwFloor < v ∧ v ≤ s.pln.running.svn ∧ v ≤ 31, fun v => .floor false v),
            (fun v cut => Instr.advanceVerjoFloor m v cut, 3, 4, f.floorSteps, 32, f.verjoFloor,
              fun v => f.verjoFloor < v ∧ v ≤ 2, fun v => .floor true v)] :
            List ((Nat → Nat → Instr) × Nat × Nat × Nat × Nat × Nat × (Nat → Prop) × (Nat → Limited))) →
        ∀ v cut, v < 2 ^ 16 →
        let u := taken code v
        (s.pln.resetReq ≠ none → exec (cmd v cut) s = .next (u.replyTo m code 3 used)) ∧
        (s.pln.resetReq = none → limit ≤ used ∨ 96 ≤ s.pln.auditChange.length → exec (cmd v cut) s =
          .next (((u.auditGeneral 9 m used (old + v * 2 ^ 64)).raise { code := 0x0C0A, detail := setting + code * 2 ^ 4 }).replyTo m code 1 used)) ∧
        (s.pln.resetReq = none → used < limit → s.pln.auditChange.length < 96 → ¬ok v → exec (cmd v cut) s = .next (u.replyTo m code 2 used)) ∧
        (s.pln.resetReq = none → used < limit → s.pln.auditChange.length < 96 → ok v →
          (cut = 0 → ∃ t : State, exec (cmd v cut) s = .next (t.replyTo m code 0 (used + 1)) ∧ t.mbx = u.mbx ∧ t.hif = s.hif ∧ t.outbox = s.outbox ∧
            t.pln.fuses = (match change v with
              | .ceiling w => { f with reductions := f.reductions + 1, ceilingW := w }
              | .floor verjo w => { f with floorSteps := f.floorSteps + 1, fwFloor := if verjo then f.fwFloor else w
                                           verjoFloor := if verjo then w else f.verjoFloor }
              | _ => f) ∧
            t.pwr = (if setting = 2 then { s.pwr with ceilingW := v, reductions := f.reductions + 1 } else s.pwr) ∧
            (∃ e, t.pln.auditChange = s.pln.auditChange ++ [e] ∧ e.agent = m ∧ e.intent = true ∧ e.done = true ∧ e.abandoned = false ∧
              e.counter = used + 1 ∧ e.data = old + v * 2 ^ 64)) ∧
          (cut ≠ 0 → ∃ t, exec (cmd v cut) s = .next t ∧ t.now = 0 ∧ t.pln.fuses = f ∧ t.pln.slot = 0 ∧
            t.pln.openChange = some { entry := s.pln.auditChange.length, burnt := decide (cut = 2), change := change v } ∧
            (∃ e, t.pln.auditChange = s.pln.auditChange ++ [e] ∧ e.intent = true ∧ e.done = false)))))) ∧
  (∀ (s : State) (n cut : Nat), n = 2 ∨ n = 4 →
    let x := s.chan n
    let code := x.message % 2 ^ 8
    (x.full = false ∨ s.pln.slot = 0 → s.takeRequest n cut = s) ∧
    (x.full = true → s.pln.slot ≠ 0 → code = 0 ∨ 4 < code →
      s.takeRequest n cut = (s.setChan n { x with full := false, delivered := true, mctp := false }).replyTo x.sender code 4 0)) ∧
  (∀ (s : State) (b : BootIn) (x : OpenChange), s.pln.openChange = some x → b.parts = 0 → s.pln.pb0 = true → s.pln.pb1 = true →
    s.pln.pbLate = false → s.pln.failed = false → s.pln.ready = false → s.pln.resetReq = none → s.pln.fatal = false → s.pln.boot = [] →
    ∃ t, exec (.coldBoot b) s = .next t ∧ t.pln.openChange = none ∧
      t.pln.auditChange.length = s.pln.auditChange.length ∧
      (∀ e, s.pln.auditChange[x.entry]? = some e → t.pln.auditChange[x.entry]? =
        some (if x.burnt then { e with done := true } else { e with abandoned := true })) ∧
      (x.burnt = false → t.pln.fuses = s.pln.fuses) ∧
      (x.burnt = true → ∀ w, x.change = .ceiling w → t.pwr.ceilingW = w ∧
        t.pln.fuses = { s.pln.fuses with reductions := s.pln.fuses.reductions + 1, ceilingW := w }) ∧
      (x.burnt = true → ∀ m, x.change = .cbt m → t.mbx.provisioned = m ∧ t.pln.fuses = { s.pln.fuses with cbtGens := s.pln.fuses.cbtGens + 1 }) ∧
      (x.burnt = true → ∀ r m, x.change = .tileMap r m → t.pln.fuses = { s.pln.fuses with gens := s.pln.fuses.gens ++ [r] }))

/-- R542, R601, R612 to R616: what the BMC does on the sideband. That an activation resets nothing else and goes on with the boot that waits is the
model's reading (log entry 118), as is that one before the first start finds nothing to select again (117); the numbers of the responses that the
spec leaves open are its choice (120). A selection that fails leaves every row of the cold path to run again, which is the model's choice (154) over
its reading of which path follows a loss of power (113). -/
def Obligations.SidebandCommands : Prop :=
  ∀ (s : State),
    (s.pln.pb0 = true ∨ s.pln.pb1 = true →
      let answered (t : State) : State := t.out (.reply 3 0)
      (∀ e, exec (.setEndpointId e) s = .next (answered { s with pln := { s.pln with eid := e % 256 } })) ∧
      (∀ i : ImageIn,
        let x : Slot := { sig := i.sig, hash := i.hash, form := i.form, svn := i.svn % 32, minor := i.minor % 256, build := i.build % 65536,
                          auth := decide (sha3 i.sig.key 96 = s.pln.fuses.signer) && ecdsaOk i.sig.key i.hash i.sig.r i.sig.s }
        (s.pln.slot = 1 → exec (.firmwareUpdate i) s = .next (answered { s with pln := { s.pln with slotB := x } })) ∧
        (s.pln.slot ≠ 1 → exec (.firmwareUpdate i) s = .next (answered { s with pln := { s.pln with slotA := x } }))) ∧
      (s.pln.slot = 0 → s.pln.failed = false → s.pln.boot = [] → exec .activateFirmware s = .next (answered s)) ∧
      (s.pln.slot ≠ 0 ∨ s.pln.failed = true ∨ s.pln.boot ≠ [] →
        let a := s.pln.slotA
        let b := s.pln.slotB
        let good (x : Slot) : Prop := x.auth = true ∧ x.form = true ∧ s.pln.fuses.fwFloor ≤ x.svn
        let rows := if s.pln.boot.head? = some .image ∧ s.pln.bootFatal = false then s.pln.boot.tail else s.pln.boot
        let started (k : Nat) (x : Slot) : State := { s with pln := { s.pln with slot := k, running := x, failed := s.pln.bootFatal, boot := rows } }
        (good a → good b → b.svn ≤ a.svn → exec .activateFirmware s = .next (answered (started 1 a))) ∧
        (good a → good b → a.svn < b.svn → exec .activateFirmware s = .next (answered (started 2 b))) ∧
        (a.auth = false → good b → ∃ t, exec .activateFirmware s = .next (answered t) ∧ t.pln.slot = 2 ∧ t.pln.running = b ∧
          (s.pln.enabled = true → { code := 0x0C02, detail := 2 : FaultRec } ∈ t.pln.frq)) ∧
        (a.auth = false → b.auth = false → ∃ t, exec .activateFirmware s = .next (answered t) ∧ t.pln.slot = 0 ∧ t.pln.failed = true ∧
          t.pln.ready = false ∧ t.pln.path = 0 ∧ t.pln.boot = bootRows 0 ∧ t.pln.hbmLost = true ∧ t.pln.trainPowered = false ∧
          (∀ d, 1 ≤ d → d < 20 → (t.dom d).st = 0) ∧ t.dom 0 = s.dom 0))) ∧
    (s.pln.slot ≠ 0 →
      (s.pwr.smbus = 1 → ∀ take, exec (.smbusSegmentRequest take) s = .next (s.out (.reply 3 1))) ∧
      (s.pwr.smbus ≠ 1 → exec (.smbusSegmentRequest true) s = .next ({ s with pwr := { s.pwr with smbus := 2 } }.out (.reply 3 0))) ∧
      (s.pwr.smbus = 2 → exec (.smbusSegmentRequest false) s = .next ({ s with pwr := { s.pwr with smbus := 0 } }.out (.reply 3 0))) ∧
      (s.pwr.smbus = 0 → exec (.smbusSegmentRequest false) s = .next (s.out (.reply 3 1))))

/-- R439, R451, R560, R561, R587 to R590, R598, R613, R614: a master's write of a register, whole or in two halves, and the BMC's reads and writes. Where the
window's domain is not On, where the access is no access of R589, and where the register's rules refuse the master, nothing is written; a
function that is being reset takes no write. That a misaligned write is ignored (log entry 122), and that the answer to a write which R614 grants the
BMC is a free value (log entry 124), are the model's readings. Under the ROM a read or a write of the BMC has the error completion (R613). -/
def Obligations.RegisterAccesses : Prop :=
  (∀ (s : State) (m core off size v : Nat), isMaster m = true → s.claims m = true → (m = 3 → s.pln.slot ≠ 0) → core < 16 →
    let u := s.access m off
    let held := mget none s.pln.halves (64 * windowOf off + m)
    let slot := off / 8 * 8
    (0x10 ≤ m → 2 ^ 26 ≤ off → exec (.registerWrite m core off size v) s = .next (s.barWrite (m - 0x10) off size v)) ∧
    (m < 0x10 ∨ off < 2 ^ 26 →
    (s.isOn (windowDomain slot) = false → exec (.registerWrite m core off size v) s = .next u) ∧
    (size ≠ 4 → size ≠ 8 → exec (.registerWrite m core off size v) s = .next u) ∧
    (off % size ≠ 0 → exec (.registerWrite m core off size v) s = .next u) ∧
    (s.isOn (windowDomain slot) = true → off % 8 = 0 → s.isWide m core off = true →
      exec (.registerWrite m core off 8 v) s = .next (u.putReg m core off (v % 2 ^ 64))) ∧
    (s.isOn (windowDomain slot) = true → off % 8 = 0 → s.isWide m core off = false → exec (.registerWrite m core off 8 v) s =
      .next ((u.putReg m core off (v % 2 ^ 32)).putReg m core (off + 4) (v / 2 ^ 32 % 2 ^ 32))) ∧
    (s.isOn (windowDomain slot) = true → off % 4 = 0 → s.isWide m core slot = false →
      exec (.registerWrite m core off 4 v) s = .next (u.putReg m core off (v % 2 ^ 32))) ∧
    (s.isOn (windowDomain slot) = true → off % 4 = 0 → s.isWide m core slot = true →
      (held = none → exec (.registerWrite m core off 4 v) s =
        .next { u with pln := { u.pln with halves := mset none u.pln.halves (64 * windowOf off + m) (some (off, v % 2 ^ 32)) } }) ∧
      (∀ w, off = slot → held = some (off + 4, w) → exec (.registerWrite m core off 4 v) s =
        .next (u.putReg m core slot (v % 2 ^ 32 + w * 2 ^ 32))) ∧
      (∀ w, off = slot + 4 → held = some (slot, w) → exec (.registerWrite m core off 4 v) s =
        .next (u.putReg m core slot (w + v % 2 ^ 32 * 2 ^ 32)))))) ∧
  (∀ (s : State) (f core off size v : Nat), f < 17 → core < 16 → (s.fn f).resetting = true → off < 2 ^ 27 →
    exec (.registerWrite (0x10 + f) core off size v) s = .next s) ∧
  (∀ (s : State) (f size v : Nat), f < 17 →
    (∀ r, r < 3 → s.pln.fatal = false → s.barWrite f (2 ^ 26 + 0x1000 * r) 4 v = s.doorbell f r (v % 2 ^ 32)) ∧
    (∀ o, o < 0x4000 → o % 0x1000 ≠ 0 ∨ 0x3000 ≤ o → s.barWrite f (2 ^ 26 + o) size v = s) ∧
    (∀ o, o < 0x1000 → s.barWrite f (2 ^ 26 + 0x5000 + o) size v = s) ∧
    (∀ n, n < 4 → (s.fn f).vector n < 2 ^ 128 → (mget false (s.fn f).msixPending n && !bit v 32) = false → s.barWrite f (2 ^ 26 + 0x4000 + 16 * n + 8) 8 v =
      s.setFn f { s.fn f with msixTable := mset msixReset (s.fn f).msixTable n ((s.fn f).vector n % 2 ^ 64 + v % 2 ^ 64 * 2 ^ 64) })) ∧
  (∀ (s : State) (m core v : Nat), isMaster m = true → s.claims m = true → core < 16 →
    (∀ f, f ≤ 16 → m = 1 ∨ m = 0x10 + f → s.isOn 2 = true →
      let off := 0x101008 + 0x1000 * f
      exec (.registerWrite m core off 4 v) s = .next ((s.access m off).setFn f { s.fn f with irqCount := bits v 0 8, irqDelay := bits v 8 16 })) ∧
    (∀ f, f ≤ 16 → m ≠ 1 → m ≠ 0x10 + f →
      exec (.registerWrite m core (0x101008 + 0x1000 * f) 4 v) s = .next (s.access m (0x101008 + 0x1000 * f))) ∧
    (∀ n, n < 16 → m = 1 ∨ (m = 2 ∧ core = n) → s.isOn 1 = true →
      (∃ t, exec (.registerWrite m core (0xE00100 + 8 * n) 4 v) s = .next t ∧ t.pln.coreTags = mset 0x10 s.pln.coreTags n (v % 2 ^ 6) ∧
        t.tiles = s.tiles ∧ t.hbm = s.hbm ∧ t.hif = s.hif) ∧
      exec (.registerWrite m core (0xE00104 + 8 * n) 4 v) s = .next (s.access m (0xE00104 + 8 * n))) ∧
    (∀ c, c < 16 → m = 2 → s.isOn 18 = true → (s.ctx c).st = .loading → (∀ n ∈ s.tsetsOf c, (s.tset n).st = .loading) →
      exec (.registerWrite m core (0xA00008 + 0x1000 * c) 4 v) s =
        .next ((s.access m (0xA00008 + 0x1000 * c)).setTel c { s.tel c with target := v % 2 ^ 32 })) ∧
    (m = 1 ∨ m = 3 ∨ m = 0x10 → (m = 3 → s.pln.slot ≠ 0) → s.isOn 0 = true →
      ∃ t, exec (.registerWrite m core 0x200 4 v) s = .next t ∧ t.pln.auditSel = v % 2 ^ 32 % 2 ^ 13 ∧ t.tiles = s.tiles ∧ t.hif = s.hif)) ∧
  (∀ (s : State) (off v : Nat), s.pln.slot = 0 → s.pln.pb0 = true ∨ s.pln.pb1 = true →
    exec (.regRead off) s = .next (s.out .errorCompletion) ∧ exec (.regWrite off v) s = .next (s.out .errorCompletion)) ∧
  (∀ (s : State) (off v : Nat), s.pln.slot ≠ 0 →
    exec (.regRead off) s = .next ((s.regRead 3 0 off 4).2.out (.reply 3 (s.regRead 3 0 off 4).1)) ∧
    (s.isOn 0 = true → s.pln.fuses.stepping < 16 → s.pln.fuses.ordering < 16 → ∃ t : State, exec (.regRead 0) s = .next (t.out (.reply 3
      (0x1680 + s.pln.fuses.stepping * 2 ^ 16 + s.pln.fuses.ordering * 2 ^ 20)))) ∧
    (s.bmcGrants off = false ∨ off % 4 ≠ 0 → exec (.regWrite off v) s = .next ((s.regWrite 3 0 off 4 v).out (.reply 3 0))) ∧
    (s.bmcGrants off = true → off % 4 = 0 → ∃ answer, exec (.regWrite off v) s =
      .next ((({ s.regWrite 3 0 off 4 v with freeCtr := (s.regWrite 3 0 off 4 v).freeCtr + 1 } : State)).out (.reply 3 answer))) ∧
    (s.isOn 0 = true → ∃ t, exec (.regWrite 0x200 v) s = .next t ∧ t.pln.auditSel = v % 2 ^ 32 % 2 ^ 13))

/-- R147, R160, R196, R197: an operation that would otherwise execute ends as a detection, and changes nothing of its own, when a block, a
norm accumulator or an operand-cache entry that it reads disagrees with its residue or parity, or when a mismatch waits in a stage of its
engine that it runs (which stages it runs is the model's reading, log entry 145). -/
def Obligations.ResidueDetections : Prop :=
  ∀ (s : State) (tile th : Nat) (w : BitVec 128),
    let u := s.issueState tile th
    let o := s.opOf tile th w
    let x := s.tile tile
    let d := mxeBlock o (wOpd o.w)
    let a := mxeBlock o (wOpa o.w)
    let adds := bit (wAux o.w) 0
    let seen (i : Instr) (k : DetKind) (place : Nat) : Prop := exec i s = .next (u.detect tile (o.det k place))
    (∀ i sp reads stages, (i, sp, reads, stages) ∈
        ([(.mma tile th w, mmaSpec, [d], if wFmt o.w < 10 then stagesEa else stagesF32), (.msf64 tile th w, msf64Spec, [d], stagesSf64),
          (.mrd tile th w, mrdSpec, [a], stagesRead), (.msave tile th w, msaveSpec, [a], stagesMove),
          (.mrestore tile th w, mrestoreSpec, if adds then [d] else [], if adds then (x.block d).stagesAdd else stagesMove)] :
          List (Instr × OpSpec × List Nat × List Nat)) →
      s.goes i tile th w sp = true →
      ((∃ n ∈ reads, (x.block n).sound = false) → seen i (.residue false 7) 0) ∧
      ((∀ n ∈ reads, (x.block n).sound = true) → ∀ k ∈ stages, x.err.mxeUpset = some k → seen i (.residue false k) 0)) ∧
    (∀ i sp entries norms stages, (i, sp, entries, norms, stages) ∈
        ([(.vew tile th w, vewSpec, vewEntries o, tapNorms o, stagesVew o), (.vfma tile th w, vfmaSpec, vewEntries o, tapNorms o, stagesVfma o),
          (.vcvt tile th w, vcvtSpec, if bits (wAux o.w) 4 2 = 2 then [cacheNo o (wOpb o.w)] else [], [], stagesVcvt o),
          (.vred tile th w, vredSpec, [], [], stagesVred o), (.vnormAcc tile th w, vnormAccSpec, [], [normNo o (wAux o.w)], stagesAcc),
          (.vnormRead tile th w, vnormReadSpec, [], [normNo o (wAux o.w)], stagesNormRead),
          (.vopt tile th w, voptSpec, [cacheNo o (bits (wAux o.w) 0 4)], optNorms o, stagesVopt o),
          (.vgrn tile th w, vgrnSpec, [cacheNo o (wOpb o.w)], [], stagesVgrn o),
          (.vocs tile th w, vocsSpec, (List.range (wLen o.w)).map fun j => cacheNo o (wOpa o.w) + j, [], [])] :
          List (Instr × OpSpec × List Nat × List Nat × List Nat)) →
      s.goes i tile th w sp = true →
      (∀ n, (entries.find? fun n => mget false x.err.badCache n) = some n → seen i .cache n) ∧
      ((∀ n ∈ entries, mget false x.err.badCache n = false) → (∃ n ∈ norms, (mget {} x.norms n).sound = false) → seen i (.residue true 5) 0) ∧
      ((∀ n ∈ entries, mget false x.err.badCache n = false) → (∀ n ∈ norms, (mget {} x.norms n).sound = true) →
        ∀ k ∈ stages, x.err.vxeUpset = some k → seen i (.residue true k) 0))
end

