-- ==== Sys2Proof/Laws/SMap.lean ====
section
/-! SUPPORT. The laws of sparse maps: what a map reads after an update, and that every operation keeps the canonical form. -/

namespace Sys2Proof.Machine

theorem mwfFrom_mono {α : Type} [DecidableEq α] {d : α} : ∀ {m : SMap α} {a b : Nat}, b ≤ a → mwfFrom d a m = true → mwfFrom d b m = true
  | [], _, _, _, _ => rfl
  | (k, v) :: m, a, b, h, hw => by
    simp only [mwfFrom, Bool.and_eq_true, decide_eq_true_eq] at hw ⊢
    exact ⟨⟨by omega, hw.1.2⟩, hw.2⟩

theorem mwfFrom_filter {α : Type} [DecidableEq α] {d : α} (p : Nat × α → Bool) :
    ∀ {m : SMap α} {b : Nat}, mwfFrom d b m = true → mwfFrom d b (m.filter p) = true
  | [], _, _ => rfl
  | (k, v) :: m, b, hw => by
    simp only [mwfFrom, Bool.and_eq_true, decide_eq_true_eq] at hw
    have ih := mwfFrom_filter p (m := m) (b := k + 1) hw.2
    unfold List.filter
    split
    · simp only [mwfFrom, Bool.and_eq_true, decide_eq_true_eq]; exact ⟨hw.1, ih⟩
    · exact mwfFrom_mono (by omega) ih

theorem mwfFrom_mput {α : Type} [DecidableEq α] {d : α} (k : Nat) (v : α) (hv : v ≠ d) :
    ∀ {m : SMap α} {b : Nat}, b ≤ k → (∀ kv ∈ m, kv.1 ≠ k) → mwfFrom d b m = true → mwfFrom d b (mput k v m) = true
  | [], b, h, _, _ => by simp [mput, mwfFrom, h, hv]
  | (k', v') :: m, b, h, hn, hw => by
    simp only [mwfFrom, Bool.and_eq_true, decide_eq_true_eq] at hw
    have hk : k' ≠ k := hn (k', v') List.mem_cons_self
    unfold mput
    split
    · simp only [mwfFrom, Bool.and_eq_true, decide_eq_true_eq]
      exact ⟨⟨h, hv⟩, ⟨⟨by omega, hw.1.2⟩, hw.2⟩⟩
    · simp only [mwfFrom, Bool.and_eq_true, decide_eq_true_eq]
      exact ⟨hw.1, mwfFrom_mput k v hv (by omega) (fun kv hm => hn kv (List.mem_cons_of_mem _ hm)) hw.2⟩

theorem mwfFrom_mset {α : Type} [DecidableEq α] {d : α} (k : Nat) (v : α) {m : SMap α} {b : Nat} (h : b ≤ k)
    (hw : mwfFrom d b m = true) : mwfFrom d b (mset d m k v) = true := by
  unfold mset mdel
  split
  · exact mwfFrom_filter _ hw
  · refine mwfFrom_mput k v (by assumption) h (fun kv hm => ?_) (mwfFrom_filter _ hw)
    exact of_decide_eq_true (List.mem_filter.1 hm).2

/-! ### What a map reads after an update -/

theorem mget_mdel_self {α : Type} {d : α} (k : Nat) : ∀ m : SMap α, mget d (mdel k m) k = d
  | [] => rfl
  | (k', v) :: m => by
    have ih := mget_mdel_self (d := d) k m
    unfold mdel at ih ⊢
    by_cases h : k' = k
    · simpa [List.filter_cons, h] using ih
    · simpa [List.filter_cons, h, mget, Ne.symm h] using ih

theorem mget_mdel_ne {α : Type} {d : α} {k j : Nat} (h : j ≠ k) : ∀ m : SMap α, mget d (mdel k m) j = mget d m j
  | [] => rfl
  | (k', v) :: m => by
    have ih := mget_mdel_ne (d := d) h m
    unfold mdel at ih ⊢
    by_cases hk : k' = k
    · subst hk
      simpa [List.filter_cons, mget, h] using ih
    · by_cases hj : j = k' <;> simp_all [List.filter_cons, mget]

theorem mget_mput_self {α : Type} {d : α} (k : Nat) (v : α) : ∀ {m : SMap α}, (∀ kv ∈ m, kv.1 ≠ k) → mget d (mput k v m) k = v
  | [], _ => by simp [mput, mget]
  | (k', v') :: m, h => by
    have hk : k' ≠ k := h (k', v') List.mem_cons_self
    unfold mput
    split
    · simp [mget]
    · simpa [mget, Ne.symm hk] using mget_mput_self (d := d) k v fun kv hm => h kv (List.mem_cons_of_mem _ hm)

theorem mget_mput_ne {α : Type} {d : α} {k j : Nat} (v : α) (h : j ≠ k) : ∀ m : SMap α, mget d (mput k v m) j = mget d m j
  | [] => by simp [mput, mget, h]
  | (k', v') :: m => by
    unfold mput
    split
    · simp [mget, h]
    · simp [mget, mget_mput_ne (d := d) v h m]

/-- A place reads what was written to it. -/
@[simp] theorem mget_mset_self {α : Type} [DecidableEq α] {d : α} (m : SMap α) (k : Nat) (v : α) : mget d (mset d m k v) k = v := by
  unfold mset
  split
  · rename_i h
    rw [mget_mdel_self, h]
  · exact mget_mput_self k v fun kv hm => of_decide_eq_true (List.mem_filter.1 hm).2

/-- A write leaves every other place alone. -/
theorem mget_mset_ne {α : Type} [DecidableEq α] {d : α} (m : SMap α) {k j : Nat} (v : α) (h : j ≠ k) :
    mget d (mset d m k v) j = mget d m j := by
  unfold mset
  split
  · exact mget_mdel_ne h m
  · rw [mget_mput_ne v h, mget_mdel_ne h]

theorem mget_mset {α : Type} [DecidableEq α] {d : α} (m : SMap α) (k j : Nat) (v : α) :
    mget d (mset d m k v) j = if j = k then v else mget d m j := by
  split
  · subst_vars
    exact mget_mset_self m _ v
  · exact mget_mset_ne m v (by assumption)

/-! ### Maps -/

theorem all_filter {α : Type} {p q : α → Bool} {m : List α} (h : m.all p = true) : (m.filter q).all p = true := by
  simp only [List.all_eq_true, List.mem_filter] at h ⊢
  exact fun x hx => h x hx.1

theorem all_mput {α : Type} {p : Nat × α → Bool} (k : Nat) (v : α) (hv : p (k, v) = true) :
    ∀ {m : SMap α}, m.all p = true → (mput k v m).all p = true
  | [], _ => by simp [mput, hv]
  | (k', v') :: m, h => by
    simp only [List.all_cons, Bool.and_eq_true] at h
    unfold mput
    split
    · simp [hv, h.1, h.2]
    · simp [h.1, all_mput (p := p) k v hv h.2]

theorem all_mset {α : Type} [DecidableEq α] {d : α} {p : Nat × α → Bool} (k : Nat) (v : α) (hv : p (k, v) = true)
    {m : SMap α} (h : m.all p = true) : (mset d m k v).all p = true := by
  unfold mset mdel
  split
  · exact all_filter h
  · exact all_mput k v hv (all_filter h)

theorem mget_of_all {α : Type} {d : α} {q : α → Bool} (hd : q d = true) (k : Nat) :
    ∀ {m : SMap α}, (m.all fun kv => q kv.2) = true → q (mget d m k) = true
  | [], _ => hd
  | (k', v') :: m, h => by
    simp only [List.all_cons, Bool.and_eq_true] at h
    unfold mget
    split
    · exact h.1
    · exact mget_of_all hd k h.2

theorem all_mvals {α : Type} [DecidableEq α] {d : α} {q : α → Bool} {f : Nat → α → α} (hf : ∀ k v, q v = true → q (f k v) = true) :
    ∀ {m : SMap α}, (m.all fun kv => q kv.2) = true → ((mvals d f m).all fun kv => q kv.2) = true := by
  intro m h
  simp only [mvals, List.all_eq_true, List.mem_filter, List.mem_map] at h ⊢
  rintro x ⟨⟨y, hy, rfl⟩, _⟩
  exact hf _ _ (h y hy)

/-- Dropping places: they read the default, every other place as before. -/
theorem mget_mdrop {α : Type} {d : α} (p : Nat → Bool) (k : Nat) :
    ∀ m : SMap α, mget d (mdrop p m) k = if p k then d else mget d m k
  | [] => by simp [mdrop, mget]
  | (k', v) :: m => by
    have ih := mget_mdrop (d := d) p k m
    unfold mdrop at ih ⊢
    by_cases h : p k' = true <;> by_cases hk : k = k' <;> simp_all [List.filter_cons, mget]

theorem mget_mmod {α : Type} [DecidableEq α] {d : α} (m : SMap α) (k j : Nat) (f : α → α) :
    mget d (mmod d m k f) j = if j = k then f (mget d m k) else mget d m j :=
  mget_mset m k j _

end Sys2Proof.Machine
end

