-- ==== Sys2Proof/Laws/Memory.lean ====
section
/-! SUPPORT. The laws of byte memories: the canonical form is kept, a read after a write to the same place gives the value, and
a write leaves every other place alone. -/

namespace Sys2Proof.Machine

@[simp] theorem Memory.wf_nil : Memory.wf [] = true := rfl

@[simp] theorem memSetByte_wf {m : Memory} {a : Nat} {b : BitVec 8} (h : Memory.wf m = true) : Memory.wf (memSetByte m a b) = true :=
  mwfFrom_mset a b (Nat.zero_le a) h

@[simp] theorem memWrite_wf : ∀ {n : Nat} {m : Memory} {a v : Nat}, Memory.wf m = true → Memory.wf (memWrite m a n v) = true
  | 0, _, _, _, h => h
  | n + 1, m, a, v, h => memWrite_wf (n := n) (m := memSetByte m a (BitVec.ofNat 8 v)) (memSetByte_wf h)

@[simp] theorem mdrop_wf {m : Memory} {p : Nat → Bool} (h : Memory.wf m = true) : Memory.wf (mdrop p m) = true :=
  mwfFrom_filter _ h

@[simp] theorem filter_wf {m : Memory} {p : Host.Cell → Bool} (h : Memory.wf m = true) : Memory.wf (m.filter p) = true :=
  mwfFrom_filter _ h

theorem foldl_wf {α : Type} {f : Memory → α → Memory} (hf : ∀ m a, Memory.wf m = true → Memory.wf (f m a) = true) :
    ∀ {l : List α} {m : Memory}, Memory.wf m = true → Memory.wf (l.foldl f m) = true
  | [], _, h => h
  | _ :: l, _, h => foldl_wf hf (l := l) (hf _ _ h)

/-! ### Reads after writes -/

theorem memByte_set (m : Memory) (a x : Nat) (b : BitVec 8) : memByte (memSetByte m a b) x = if x = a then b else memByte m x :=
  mget_mset m a x b

/-- A write of `n` bytes leaves every byte outside them alone. -/
theorem memByte_write_of_outside : ∀ {n : Nat} {m : Memory} {a v x : Nat}, x < a ∨ a + n ≤ x → memByte (memWrite m a n v) x = memByte m x
  | 0, _, _, _, _, _ => rfl
  | n + 1, m, a, v, x, h => by
    rw [memWrite, memByte_write_of_outside (by omega), memByte_set]
    exact if_neg (by omega)

/-- Byte `i` of a write of `n` bytes is byte `i` of the value. -/
theorem memByte_write_inside : ∀ {n : Nat} {m : Memory} {a v i : Nat}, i < n →
    memByte (memWrite m a n v) (a + i) = BitVec.ofNat 8 (v / 256 ^ i)
  | 0, _, _, _, _, h => by omega
  | n + 1, m, a, v, 0, _ => by
    rw [memWrite, memByte_write_of_outside (by omega), memByte_set]
    simp
  | n + 1, m, a, v, i + 1, h => by
    have := memByte_write_inside (n := n) (m := memSetByte m a (BitVec.ofNat 8 v)) (a := a + 1) (v := v / 256) (i := i) (by omega)
    rw [memWrite, show a + (i + 1) = a + 1 + i by omega, this, Nat.div_div_eq_div_mul, Nat.pow_succ, Nat.mul_comm]

theorem memRead_congr : ∀ {n : Nat} {m m' : Memory} {a : Nat}, (∀ i, i < n → memByte m' (a + i) = memByte m (a + i)) →
    memRead m' a n = memRead m a n
  | 0, _, _, _, _ => rfl
  | n + 1, m, m', a, h => by
    have h0 := h 0 (by omega)
    have := memRead_congr (n := n) (m := m) (m' := m') (a := a + 1) fun i hi => by
      have := h (i + 1) (by omega)
      rwa [show a + (i + 1) = a + 1 + i by omega] at this
    simp only [memRead, this]
    rw [show memByte m' a = memByte m a from h0]

/-- A read of bytes that a write did not touch. -/
theorem memRead_write_of_disjoint {m : Memory} {a n v b k : Nat} (h : b + k ≤ a ∨ a + n ≤ b) :
    memRead (memWrite m a n v) b k = memRead m b k :=
  memRead_congr fun _ _ => memByte_write_of_outside (by omega)

/-- A read of exactly the bytes written gives the value, cut to their width. -/
theorem memRead_write_same : ∀ {n : Nat} {m : Memory} {a v : Nat}, memRead (memWrite m a n v) a n = v % 256 ^ n
  | 0, _, _, _ => by simp [memRead, Nat.mod_one]
  | n + 1, m, a, v => by
    have ih := memRead_write_same (n := n) (m := memSetByte m a (BitVec.ofNat 8 v)) (a := a + 1) (v := v / 256)
    rw [memRead, memWrite, ih, memByte_write_of_outside (by omega), memByte_set, if_pos rfl, BitVec.toNat_ofNat,
      show 256 ^ (n + 1) = 256 * 256 ^ n from Nat.pow_succ', Nat.mod_mul]

theorem memRead_lt : ∀ {n : Nat} {m : Memory} {a : Nat}, memRead m a n < 256 ^ n
  | 0, _, _ => by simp [memRead]
  | n + 1, m, a => by
    have h1 := memRead_lt (n := n) (m := m) (a := a + 1)
    have h2 := (memByte m a).isLt
    simp only [memRead, Nat.pow_succ]
    omega

end Sys2Proof.Machine
end

