-- ==== Sys2Proof/Laws/State.lean ====
section
/-! SUPPORT. Each update of State beside each field that it leaves alone, and what the part that it writes then reads. -/

namespace Sys2Proof.Machine

@[simp] theorem State.setTile_pending (s : State) (n : Nat) (v : Tile) : (s.setTile n v).pending = s.pending := rfl
@[simp] theorem State.setTile_now (s : State) (n : Nat) (v : Tile) : (s.setTile n v).now = s.now := rfl
@[simp] theorem State.setTile_nextId (s : State) (n : Nat) (v : Tile) : (s.setTile n v).nextId = s.nextId := rfl
@[simp] theorem State.setTile_freeCtr (s : State) (n : Nat) (v : Tile) : (s.setTile n v).freeCtr = s.freeCtr := rfl
@[simp] theorem State.setTile_outbox (s : State) (n : Nat) (v : Tile) : (s.setTile n v).outbox = s.outbox := rfl
@[simp] theorem State.setTile_tsets (s : State) (n : Nat) (v : Tile) : (s.setTile n v).tsets = s.tsets := rfl
@[simp] theorem State.setTile_groups (s : State) (n : Nat) (v : Tile) : (s.setTile n v).groups = s.groups := rfl
@[simp] theorem State.setTile_ctxs (s : State) (n : Nat) (v : Tile) : (s.setTile n v).ctxs = s.ctxs := rfl
@[simp] theorem State.setTile_ctxPwr (s : State) (n : Nat) (v : Tile) : (s.setTile n v).ctxPwr = s.ctxPwr := rfl
@[simp] theorem State.setTile_tels (s : State) (n : Nat) (v : Tile) : (s.setTile n v).tels = s.tels := rfl
@[simp] theorem State.setTile_telItems (s : State) (n : Nat) (v : Tile) : (s.setTile n v).telItems = s.telItems := rfl
@[simp] theorem State.setTile_xsends (s : State) (n : Nat) (v : Tile) : (s.setTile n v).xsends = s.xsends := rfl
@[simp] theorem State.setTile_syu (s : State) (n : Nat) (v : Tile) : (s.setTile n v).syu = s.syu := rfl
@[simp] theorem State.setTile_rmn (s : State) (n : Nat) (v : Tile) : (s.setTile n v).rmn = s.rmn := rfl
@[simp] theorem State.setTile_hbm (s : State) (n : Nat) (v : Tile) : (s.setTile n v).hbm = s.hbm := rfl
@[simp] theorem State.setTile_lnk (s : State) (n : Nat) (v : Tile) : (s.setTile n v).lnk = s.lnk := rfl
@[simp] theorem State.setTile_hif (s : State) (n : Nat) (v : Tile) : (s.setTile n v).hif = s.hif := rfl
@[simp] theorem State.setTile_mbx (s : State) (n : Nat) (v : Tile) : (s.setTile n v).mbx = s.mbx := rfl
@[simp] theorem State.setTile_ras (s : State) (n : Nat) (v : Tile) : (s.setTile n v).ras = s.ras := rfl
@[simp] theorem State.setTile_crt (s : State) (n : Nat) (v : Tile) : (s.setTile n v).crt = s.crt := rfl
@[simp] theorem State.setTile_pwr (s : State) (n : Nat) (v : Tile) : (s.setTile n v).pwr = s.pwr := rfl
@[simp] theorem State.setTile_pln (s : State) (n : Nat) (v : Tile) : (s.setTile n v).pln = s.pln := rfl

@[simp] theorem State.modTile_pending (s : State) (n : Nat) (f : Tile → Tile) : (s.modTile n f).pending = s.pending := rfl
@[simp] theorem State.modTile_now (s : State) (n : Nat) (f : Tile → Tile) : (s.modTile n f).now = s.now := rfl
@[simp] theorem State.modTile_nextId (s : State) (n : Nat) (f : Tile → Tile) : (s.modTile n f).nextId = s.nextId := rfl
@[simp] theorem State.modTile_freeCtr (s : State) (n : Nat) (f : Tile → Tile) : (s.modTile n f).freeCtr = s.freeCtr := rfl
@[simp] theorem State.modTile_outbox (s : State) (n : Nat) (f : Tile → Tile) : (s.modTile n f).outbox = s.outbox := rfl
@[simp] theorem State.modTile_tsets (s : State) (n : Nat) (f : Tile → Tile) : (s.modTile n f).tsets = s.tsets := rfl
@[simp] theorem State.modTile_groups (s : State) (n : Nat) (f : Tile → Tile) : (s.modTile n f).groups = s.groups := rfl
@[simp] theorem State.modTile_ctxs (s : State) (n : Nat) (f : Tile → Tile) : (s.modTile n f).ctxs = s.ctxs := rfl
@[simp] theorem State.modTile_ctxPwr (s : State) (n : Nat) (f : Tile → Tile) : (s.modTile n f).ctxPwr = s.ctxPwr := rfl
@[simp] theorem State.modTile_tels (s : State) (n : Nat) (f : Tile → Tile) : (s.modTile n f).tels = s.tels := rfl
@[simp] theorem State.modTile_telItems (s : State) (n : Nat) (f : Tile → Tile) : (s.modTile n f).telItems = s.telItems := rfl
@[simp] theorem State.modTile_xsends (s : State) (n : Nat) (f : Tile → Tile) : (s.modTile n f).xsends = s.xsends := rfl
@[simp] theorem State.modTile_syu (s : State) (n : Nat) (f : Tile → Tile) : (s.modTile n f).syu = s.syu := rfl
@[simp] theorem State.modTile_rmn (s : State) (n : Nat) (f : Tile → Tile) : (s.modTile n f).rmn = s.rmn := rfl
@[simp] theorem State.modTile_hbm (s : State) (n : Nat) (f : Tile → Tile) : (s.modTile n f).hbm = s.hbm := rfl
@[simp] theorem State.modTile_lnk (s : State) (n : Nat) (f : Tile → Tile) : (s.modTile n f).lnk = s.lnk := rfl
@[simp] theorem State.modTile_hif (s : State) (n : Nat) (f : Tile → Tile) : (s.modTile n f).hif = s.hif := rfl
@[simp] theorem State.modTile_mbx (s : State) (n : Nat) (f : Tile → Tile) : (s.modTile n f).mbx = s.mbx := rfl
@[simp] theorem State.modTile_ras (s : State) (n : Nat) (f : Tile → Tile) : (s.modTile n f).ras = s.ras := rfl
@[simp] theorem State.modTile_crt (s : State) (n : Nat) (f : Tile → Tile) : (s.modTile n f).crt = s.crt := rfl
@[simp] theorem State.modTile_pwr (s : State) (n : Nat) (f : Tile → Tile) : (s.modTile n f).pwr = s.pwr := rfl
@[simp] theorem State.modTile_pln (s : State) (n : Nat) (f : Tile → Tile) : (s.modTile n f).pln = s.pln := rfl

@[simp] theorem State.modThread_pending (s : State) (t n : Nat) (f : Thread → Thread) : (s.modThread t n f).pending = s.pending := rfl
@[simp] theorem State.modThread_now (s : State) (t n : Nat) (f : Thread → Thread) : (s.modThread t n f).now = s.now := rfl
@[simp] theorem State.modThread_nextId (s : State) (t n : Nat) (f : Thread → Thread) : (s.modThread t n f).nextId = s.nextId := rfl
@[simp] theorem State.modThread_freeCtr (s : State) (t n : Nat) (f : Thread → Thread) : (s.modThread t n f).freeCtr = s.freeCtr := rfl
@[simp] theorem State.modThread_outbox (s : State) (t n : Nat) (f : Thread → Thread) : (s.modThread t n f).outbox = s.outbox := rfl
@[simp] theorem State.modThread_tsets (s : State) (t n : Nat) (f : Thread → Thread) : (s.modThread t n f).tsets = s.tsets := rfl
@[simp] theorem State.modThread_groups (s : State) (t n : Nat) (f : Thread → Thread) : (s.modThread t n f).groups = s.groups := rfl
@[simp] theorem State.modThread_ctxs (s : State) (t n : Nat) (f : Thread → Thread) : (s.modThread t n f).ctxs = s.ctxs := rfl
@[simp] theorem State.modThread_ctxPwr (s : State) (t n : Nat) (f : Thread → Thread) : (s.modThread t n f).ctxPwr = s.ctxPwr := rfl
@[simp] theorem State.modThread_tels (s : State) (t n : Nat) (f : Thread → Thread) : (s.modThread t n f).tels = s.tels := rfl
@[simp] theorem State.modThread_telItems (s : State) (t n : Nat) (f : Thread → Thread) : (s.modThread t n f).telItems = s.telItems := rfl
@[simp] theorem State.modThread_xsends (s : State) (t n : Nat) (f : Thread → Thread) : (s.modThread t n f).xsends = s.xsends := rfl
@[simp] theorem State.modThread_syu (s : State) (t n : Nat) (f : Thread → Thread) : (s.modThread t n f).syu = s.syu := rfl
@[simp] theorem State.modThread_rmn (s : State) (t n : Nat) (f : Thread → Thread) : (s.modThread t n f).rmn = s.rmn := rfl
@[simp] theorem State.modThread_hbm (s : State) (t n : Nat) (f : Thread → Thread) : (s.modThread t n f).hbm = s.hbm := rfl
@[simp] theorem State.modThread_lnk (s : State) (t n : Nat) (f : Thread → Thread) : (s.modThread t n f).lnk = s.lnk := rfl
@[simp] theorem State.modThread_hif (s : State) (t n : Nat) (f : Thread → Thread) : (s.modThread t n f).hif = s.hif := rfl
@[simp] theorem State.modThread_mbx (s : State) (t n : Nat) (f : Thread → Thread) : (s.modThread t n f).mbx = s.mbx := rfl
@[simp] theorem State.modThread_ras (s : State) (t n : Nat) (f : Thread → Thread) : (s.modThread t n f).ras = s.ras := rfl
@[simp] theorem State.modThread_crt (s : State) (t n : Nat) (f : Thread → Thread) : (s.modThread t n f).crt = s.crt := rfl
@[simp] theorem State.modThread_pwr (s : State) (t n : Nat) (f : Thread → Thread) : (s.modThread t n f).pwr = s.pwr := rfl
@[simp] theorem State.modThread_pln (s : State) (t n : Nat) (f : Thread → Thread) : (s.modThread t n f).pln = s.pln := rfl

@[simp] theorem State.modRegs_pending (s : State) (o : Op) (f : RegSet → RegSet) : (s.modRegs o f).pending = s.pending := rfl
@[simp] theorem State.modRegs_now (s : State) (o : Op) (f : RegSet → RegSet) : (s.modRegs o f).now = s.now := rfl
@[simp] theorem State.modRegs_nextId (s : State) (o : Op) (f : RegSet → RegSet) : (s.modRegs o f).nextId = s.nextId := rfl
@[simp] theorem State.modRegs_freeCtr (s : State) (o : Op) (f : RegSet → RegSet) : (s.modRegs o f).freeCtr = s.freeCtr := rfl
@[simp] theorem State.modRegs_outbox (s : State) (o : Op) (f : RegSet → RegSet) : (s.modRegs o f).outbox = s.outbox := rfl
@[simp] theorem State.modRegs_tsets (s : State) (o : Op) (f : RegSet → RegSet) : (s.modRegs o f).tsets = s.tsets := rfl
@[simp] theorem State.modRegs_groups (s : State) (o : Op) (f : RegSet → RegSet) : (s.modRegs o f).groups = s.groups := rfl
@[simp] theorem State.modRegs_ctxs (s : State) (o : Op) (f : RegSet → RegSet) : (s.modRegs o f).ctxs = s.ctxs := rfl
@[simp] theorem State.modRegs_ctxPwr (s : State) (o : Op) (f : RegSet → RegSet) : (s.modRegs o f).ctxPwr = s.ctxPwr := rfl
@[simp] theorem State.modRegs_tels (s : State) (o : Op) (f : RegSet → RegSet) : (s.modRegs o f).tels = s.tels := rfl
@[simp] theorem State.modRegs_telItems (s : State) (o : Op) (f : RegSet → RegSet) : (s.modRegs o f).telItems = s.telItems := rfl
@[simp] theorem State.modRegs_xsends (s : State) (o : Op) (f : RegSet → RegSet) : (s.modRegs o f).xsends = s.xsends := rfl
@[simp] theorem State.modRegs_syu (s : State) (o : Op) (f : RegSet → RegSet) : (s.modRegs o f).syu = s.syu := rfl
@[simp] theorem State.modRegs_rmn (s : State) (o : Op) (f : RegSet → RegSet) : (s.modRegs o f).rmn = s.rmn := rfl
@[simp] theorem State.modRegs_hbm (s : State) (o : Op) (f : RegSet → RegSet) : (s.modRegs o f).hbm = s.hbm := rfl
@[simp] theorem State.modRegs_lnk (s : State) (o : Op) (f : RegSet → RegSet) : (s.modRegs o f).lnk = s.lnk := rfl
@[simp] theorem State.modRegs_hif (s : State) (o : Op) (f : RegSet → RegSet) : (s.modRegs o f).hif = s.hif := rfl
@[simp] theorem State.modRegs_mbx (s : State) (o : Op) (f : RegSet → RegSet) : (s.modRegs o f).mbx = s.mbx := rfl
@[simp] theorem State.modRegs_ras (s : State) (o : Op) (f : RegSet → RegSet) : (s.modRegs o f).ras = s.ras := rfl
@[simp] theorem State.modRegs_crt (s : State) (o : Op) (f : RegSet → RegSet) : (s.modRegs o f).crt = s.crt := rfl
@[simp] theorem State.modRegs_pwr (s : State) (o : Op) (f : RegSet → RegSet) : (s.modRegs o f).pwr = s.pwr := rfl
@[simp] theorem State.modRegs_pln (s : State) (o : Op) (f : RegSet → RegSet) : (s.modRegs o f).pln = s.pln := rfl

@[simp] theorem State.setTset_pending (s : State) (n : Nat) (v : TSet) : (s.setTset n v).pending = s.pending := rfl
@[simp] theorem State.setTset_now (s : State) (n : Nat) (v : TSet) : (s.setTset n v).now = s.now := rfl
@[simp] theorem State.setTset_nextId (s : State) (n : Nat) (v : TSet) : (s.setTset n v).nextId = s.nextId := rfl
@[simp] theorem State.setTset_freeCtr (s : State) (n : Nat) (v : TSet) : (s.setTset n v).freeCtr = s.freeCtr := rfl
@[simp] theorem State.setTset_outbox (s : State) (n : Nat) (v : TSet) : (s.setTset n v).outbox = s.outbox := rfl
@[simp] theorem State.setTset_tiles (s : State) (n : Nat) (v : TSet) : (s.setTset n v).tiles = s.tiles := rfl
@[simp] theorem State.setTset_groups (s : State) (n : Nat) (v : TSet) : (s.setTset n v).groups = s.groups := rfl
@[simp] theorem State.setTset_ctxs (s : State) (n : Nat) (v : TSet) : (s.setTset n v).ctxs = s.ctxs := rfl
@[simp] theorem State.setTset_ctxPwr (s : State) (n : Nat) (v : TSet) : (s.setTset n v).ctxPwr = s.ctxPwr := rfl
@[simp] theorem State.setTset_tels (s : State) (n : Nat) (v : TSet) : (s.setTset n v).tels = s.tels := rfl
@[simp] theorem State.setTset_telItems (s : State) (n : Nat) (v : TSet) : (s.setTset n v).telItems = s.telItems := rfl
@[simp] theorem State.setTset_xsends (s : State) (n : Nat) (v : TSet) : (s.setTset n v).xsends = s.xsends := rfl
@[simp] theorem State.setTset_syu (s : State) (n : Nat) (v : TSet) : (s.setTset n v).syu = s.syu := rfl
@[simp] theorem State.setTset_rmn (s : State) (n : Nat) (v : TSet) : (s.setTset n v).rmn = s.rmn := rfl
@[simp] theorem State.setTset_hbm (s : State) (n : Nat) (v : TSet) : (s.setTset n v).hbm = s.hbm := rfl
@[simp] theorem State.setTset_lnk (s : State) (n : Nat) (v : TSet) : (s.setTset n v).lnk = s.lnk := rfl
@[simp] theorem State.setTset_hif (s : State) (n : Nat) (v : TSet) : (s.setTset n v).hif = s.hif := rfl
@[simp] theorem State.setTset_mbx (s : State) (n : Nat) (v : TSet) : (s.setTset n v).mbx = s.mbx := rfl
@[simp] theorem State.setTset_ras (s : State) (n : Nat) (v : TSet) : (s.setTset n v).ras = s.ras := rfl
@[simp] theorem State.setTset_crt (s : State) (n : Nat) (v : TSet) : (s.setTset n v).crt = s.crt := rfl
@[simp] theorem State.setTset_pwr (s : State) (n : Nat) (v : TSet) : (s.setTset n v).pwr = s.pwr := rfl
@[simp] theorem State.setTset_pln (s : State) (n : Nat) (v : TSet) : (s.setTset n v).pln = s.pln := rfl

@[simp] theorem State.setGroup_pending (s : State) (g : Nat) (v : Group) : (s.setGroup g v).pending = s.pending := rfl
@[simp] theorem State.setGroup_now (s : State) (g : Nat) (v : Group) : (s.setGroup g v).now = s.now := rfl
@[simp] theorem State.setGroup_nextId (s : State) (g : Nat) (v : Group) : (s.setGroup g v).nextId = s.nextId := rfl
@[simp] theorem State.setGroup_freeCtr (s : State) (g : Nat) (v : Group) : (s.setGroup g v).freeCtr = s.freeCtr := rfl
@[simp] theorem State.setGroup_outbox (s : State) (g : Nat) (v : Group) : (s.setGroup g v).outbox = s.outbox := rfl
@[simp] theorem State.setGroup_tiles (s : State) (g : Nat) (v : Group) : (s.setGroup g v).tiles = s.tiles := rfl
@[simp] theorem State.setGroup_tsets (s : State) (g : Nat) (v : Group) : (s.setGroup g v).tsets = s.tsets := rfl
@[simp] theorem State.setGroup_ctxs (s : State) (g : Nat) (v : Group) : (s.setGroup g v).ctxs = s.ctxs := rfl
@[simp] theorem State.setGroup_ctxPwr (s : State) (g : Nat) (v : Group) : (s.setGroup g v).ctxPwr = s.ctxPwr := rfl
@[simp] theorem State.setGroup_tels (s : State) (g : Nat) (v : Group) : (s.setGroup g v).tels = s.tels := rfl
@[simp] theorem State.setGroup_telItems (s : State) (g : Nat) (v : Group) : (s.setGroup g v).telItems = s.telItems := rfl
@[simp] theorem State.setGroup_xsends (s : State) (g : Nat) (v : Group) : (s.setGroup g v).xsends = s.xsends := rfl
@[simp] theorem State.setGroup_syu (s : State) (g : Nat) (v : Group) : (s.setGroup g v).syu = s.syu := rfl
@[simp] theorem State.setGroup_rmn (s : State) (g : Nat) (v : Group) : (s.setGroup g v).rmn = s.rmn := rfl
@[simp] theorem State.setGroup_hbm (s : State) (g : Nat) (v : Group) : (s.setGroup g v).hbm = s.hbm := rfl
@[simp] theorem State.setGroup_lnk (s : State) (g : Nat) (v : Group) : (s.setGroup g v).lnk = s.lnk := rfl
@[simp] theorem State.setGroup_hif (s : State) (g : Nat) (v : Group) : (s.setGroup g v).hif = s.hif := rfl
@[simp] theorem State.setGroup_mbx (s : State) (g : Nat) (v : Group) : (s.setGroup g v).mbx = s.mbx := rfl
@[simp] theorem State.setGroup_ras (s : State) (g : Nat) (v : Group) : (s.setGroup g v).ras = s.ras := rfl
@[simp] theorem State.setGroup_crt (s : State) (g : Nat) (v : Group) : (s.setGroup g v).crt = s.crt := rfl
@[simp] theorem State.setGroup_pwr (s : State) (g : Nat) (v : Group) : (s.setGroup g v).pwr = s.pwr := rfl
@[simp] theorem State.setGroup_pln (s : State) (g : Nat) (v : Group) : (s.setGroup g v).pln = s.pln := rfl

@[simp] theorem State.setCtx_pending (s : State) (c : Nat) (v : Ctx) : (s.setCtx c v).pending = s.pending := rfl
@[simp] theorem State.setCtx_now (s : State) (c : Nat) (v : Ctx) : (s.setCtx c v).now = s.now := rfl
@[simp] theorem State.setCtx_nextId (s : State) (c : Nat) (v : Ctx) : (s.setCtx c v).nextId = s.nextId := rfl
@[simp] theorem State.setCtx_freeCtr (s : State) (c : Nat) (v : Ctx) : (s.setCtx c v).freeCtr = s.freeCtr := rfl
@[simp] theorem State.setCtx_outbox (s : State) (c : Nat) (v : Ctx) : (s.setCtx c v).outbox = s.outbox := rfl
@[simp] theorem State.setCtx_tiles (s : State) (c : Nat) (v : Ctx) : (s.setCtx c v).tiles = s.tiles := rfl
@[simp] theorem State.setCtx_tsets (s : State) (c : Nat) (v : Ctx) : (s.setCtx c v).tsets = s.tsets := rfl
@[simp] theorem State.setCtx_groups (s : State) (c : Nat) (v : Ctx) : (s.setCtx c v).groups = s.groups := rfl
@[simp] theorem State.setCtx_ctxPwr (s : State) (c : Nat) (v : Ctx) : (s.setCtx c v).ctxPwr = s.ctxPwr := rfl
@[simp] theorem State.setCtx_tels (s : State) (c : Nat) (v : Ctx) : (s.setCtx c v).tels = s.tels := rfl
@[simp] theorem State.setCtx_telItems (s : State) (c : Nat) (v : Ctx) : (s.setCtx c v).telItems = s.telItems := rfl
@[simp] theorem State.setCtx_xsends (s : State) (c : Nat) (v : Ctx) : (s.setCtx c v).xsends = s.xsends := rfl
@[simp] theorem State.setCtx_syu (s : State) (c : Nat) (v : Ctx) : (s.setCtx c v).syu = s.syu := rfl
@[simp] theorem State.setCtx_rmn (s : State) (c : Nat) (v : Ctx) : (s.setCtx c v).rmn = s.rmn := rfl
@[simp] theorem State.setCtx_hbm (s : State) (c : Nat) (v : Ctx) : (s.setCtx c v).hbm = s.hbm := rfl
@[simp] theorem State.setCtx_lnk (s : State) (c : Nat) (v : Ctx) : (s.setCtx c v).lnk = s.lnk := rfl
@[simp] theorem State.setCtx_hif (s : State) (c : Nat) (v : Ctx) : (s.setCtx c v).hif = s.hif := rfl
@[simp] theorem State.setCtx_mbx (s : State) (c : Nat) (v : Ctx) : (s.setCtx c v).mbx = s.mbx := rfl
@[simp] theorem State.setCtx_ras (s : State) (c : Nat) (v : Ctx) : (s.setCtx c v).ras = s.ras := rfl
@[simp] theorem State.setCtx_crt (s : State) (c : Nat) (v : Ctx) : (s.setCtx c v).crt = s.crt := rfl
@[simp] theorem State.setCtx_pwr (s : State) (c : Nat) (v : Ctx) : (s.setCtx c v).pwr = s.pwr := rfl
@[simp] theorem State.setCtx_pln (s : State) (c : Nat) (v : Ctx) : (s.setCtx c v).pln = s.pln := rfl

@[simp] theorem State.modCtx_pending (s : State) (c : Nat) (f : Ctx → Ctx) : (s.modCtx c f).pending = s.pending := rfl
@[simp] theorem State.modCtx_now (s : State) (c : Nat) (f : Ctx → Ctx) : (s.modCtx c f).now = s.now := rfl
@[simp] theorem State.modCtx_nextId (s : State) (c : Nat) (f : Ctx → Ctx) : (s.modCtx c f).nextId = s.nextId := rfl
@[simp] theorem State.modCtx_freeCtr (s : State) (c : Nat) (f : Ctx → Ctx) : (s.modCtx c f).freeCtr = s.freeCtr := rfl
@[simp] theorem State.modCtx_outbox (s : State) (c : Nat) (f : Ctx → Ctx) : (s.modCtx c f).outbox = s.outbox := rfl
@[simp] theorem State.modCtx_tiles (s : State) (c : Nat) (f : Ctx → Ctx) : (s.modCtx c f).tiles = s.tiles := rfl
@[simp] theorem State.modCtx_tsets (s : State) (c : Nat) (f : Ctx → Ctx) : (s.modCtx c f).tsets = s.tsets := rfl
@[simp] theorem State.modCtx_groups (s : State) (c : Nat) (f : Ctx → Ctx) : (s.modCtx c f).groups = s.groups := rfl
@[simp] theorem State.modCtx_ctxPwr (s : State) (c : Nat) (f : Ctx → Ctx) : (s.modCtx c f).ctxPwr = s.ctxPwr := rfl
@[simp] theorem State.modCtx_tels (s : State) (c : Nat) (f : Ctx → Ctx) : (s.modCtx c f).tels = s.tels := rfl
@[simp] theorem State.modCtx_telItems (s : State) (c : Nat) (f : Ctx → Ctx) : (s.modCtx c f).telItems = s.telItems := rfl
@[simp] theorem State.modCtx_xsends (s : State) (c : Nat) (f : Ctx → Ctx) : (s.modCtx c f).xsends = s.xsends := rfl
@[simp] theorem State.modCtx_syu (s : State) (c : Nat) (f : Ctx → Ctx) : (s.modCtx c f).syu = s.syu := rfl
@[simp] theorem State.modCtx_rmn (s : State) (c : Nat) (f : Ctx → Ctx) : (s.modCtx c f).rmn = s.rmn := rfl
@[simp] theorem State.modCtx_hbm (s : State) (c : Nat) (f : Ctx → Ctx) : (s.modCtx c f).hbm = s.hbm := rfl
@[simp] theorem State.modCtx_lnk (s : State) (c : Nat) (f : Ctx → Ctx) : (s.modCtx c f).lnk = s.lnk := rfl
@[simp] theorem State.modCtx_hif (s : State) (c : Nat) (f : Ctx → Ctx) : (s.modCtx c f).hif = s.hif := rfl
@[simp] theorem State.modCtx_mbx (s : State) (c : Nat) (f : Ctx → Ctx) : (s.modCtx c f).mbx = s.mbx := rfl
@[simp] theorem State.modCtx_ras (s : State) (c : Nat) (f : Ctx → Ctx) : (s.modCtx c f).ras = s.ras := rfl
@[simp] theorem State.modCtx_crt (s : State) (c : Nat) (f : Ctx → Ctx) : (s.modCtx c f).crt = s.crt := rfl
@[simp] theorem State.modCtx_pwr (s : State) (c : Nat) (f : Ctx → Ctx) : (s.modCtx c f).pwr = s.pwr := rfl
@[simp] theorem State.modCtx_pln (s : State) (c : Nat) (f : Ctx → Ctx) : (s.modCtx c f).pln = s.pln := rfl

@[simp] theorem State.setCp_pending (s : State) (c : Nat) (v : CtxPwr) : (s.setCp c v).pending = s.pending := rfl
@[simp] theorem State.setCp_now (s : State) (c : Nat) (v : CtxPwr) : (s.setCp c v).now = s.now := rfl
@[simp] theorem State.setCp_nextId (s : State) (c : Nat) (v : CtxPwr) : (s.setCp c v).nextId = s.nextId := rfl
@[simp] theorem State.setCp_freeCtr (s : State) (c : Nat) (v : CtxPwr) : (s.setCp c v).freeCtr = s.freeCtr := rfl
@[simp] theorem State.setCp_outbox (s : State) (c : Nat) (v : CtxPwr) : (s.setCp c v).outbox = s.outbox := rfl
@[simp] theorem State.setCp_tiles (s : State) (c : Nat) (v : CtxPwr) : (s.setCp c v).tiles = s.tiles := rfl
@[simp] theorem State.setCp_tsets (s : State) (c : Nat) (v : CtxPwr) : (s.setCp c v).tsets = s.tsets := rfl
@[simp] theorem State.setCp_groups (s : State) (c : Nat) (v : CtxPwr) : (s.setCp c v).groups = s.groups := rfl
@[simp] theorem State.setCp_ctxs (s : State) (c : Nat) (v : CtxPwr) : (s.setCp c v).ctxs = s.ctxs := rfl
@[simp] theorem State.setCp_tels (s : State) (c : Nat) (v : CtxPwr) : (s.setCp c v).tels = s.tels := rfl
@[simp] theorem State.setCp_telItems (s : State) (c : Nat) (v : CtxPwr) : (s.setCp c v).telItems = s.telItems := rfl
@[simp] theorem State.setCp_xsends (s : State) (c : Nat) (v : CtxPwr) : (s.setCp c v).xsends = s.xsends := rfl
@[simp] theorem State.setCp_syu (s : State) (c : Nat) (v : CtxPwr) : (s.setCp c v).syu = s.syu := rfl
@[simp] theorem State.setCp_rmn (s : State) (c : Nat) (v : CtxPwr) : (s.setCp c v).rmn = s.rmn := rfl
@[simp] theorem State.setCp_hbm (s : State) (c : Nat) (v : CtxPwr) : (s.setCp c v).hbm = s.hbm := rfl
@[simp] theorem State.setCp_lnk (s : State) (c : Nat) (v : CtxPwr) : (s.setCp c v).lnk = s.lnk := rfl
@[simp] theorem State.setCp_hif (s : State) (c : Nat) (v : CtxPwr) : (s.setCp c v).hif = s.hif := rfl
@[simp] theorem State.setCp_mbx (s : State) (c : Nat) (v : CtxPwr) : (s.setCp c v).mbx = s.mbx := rfl
@[simp] theorem State.setCp_ras (s : State) (c : Nat) (v : CtxPwr) : (s.setCp c v).ras = s.ras := rfl
@[simp] theorem State.setCp_crt (s : State) (c : Nat) (v : CtxPwr) : (s.setCp c v).crt = s.crt := rfl
@[simp] theorem State.setCp_pwr (s : State) (c : Nat) (v : CtxPwr) : (s.setCp c v).pwr = s.pwr := rfl
@[simp] theorem State.setCp_pln (s : State) (c : Nat) (v : CtxPwr) : (s.setCp c v).pln = s.pln := rfl

@[simp] theorem State.setTel_pending (s : State) (c : Nat) (v : Tel) : (s.setTel c v).pending = s.pending := rfl
@[simp] theorem State.setTel_now (s : State) (c : Nat) (v : Tel) : (s.setTel c v).now = s.now := rfl
@[simp] theorem State.setTel_nextId (s : State) (c : Nat) (v : Tel) : (s.setTel c v).nextId = s.nextId := rfl
@[simp] theorem State.setTel_freeCtr (s : State) (c : Nat) (v : Tel) : (s.setTel c v).freeCtr = s.freeCtr := rfl
@[simp] theorem State.setTel_outbox (s : State) (c : Nat) (v : Tel) : (s.setTel c v).outbox = s.outbox := rfl
@[simp] theorem State.setTel_tiles (s : State) (c : Nat) (v : Tel) : (s.setTel c v).tiles = s.tiles := rfl
@[simp] theorem State.setTel_tsets (s : State) (c : Nat) (v : Tel) : (s.setTel c v).tsets = s.tsets := rfl
@[simp] theorem State.setTel_groups (s : State) (c : Nat) (v : Tel) : (s.setTel c v).groups = s.groups := rfl
@[simp] theorem State.setTel_ctxs (s : State) (c : Nat) (v : Tel) : (s.setTel c v).ctxs = s.ctxs := rfl
@[simp] theorem State.setTel_ctxPwr (s : State) (c : Nat) (v : Tel) : (s.setTel c v).ctxPwr = s.ctxPwr := rfl
@[simp] theorem State.setTel_telItems (s : State) (c : Nat) (v : Tel) : (s.setTel c v).telItems = s.telItems := rfl
@[simp] theorem State.setTel_xsends (s : State) (c : Nat) (v : Tel) : (s.setTel c v).xsends = s.xsends := rfl
@[simp] theorem State.setTel_syu (s : State) (c : Nat) (v : Tel) : (s.setTel c v).syu = s.syu := rfl
@[simp] theorem State.setTel_rmn (s : State) (c : Nat) (v : Tel) : (s.setTel c v).rmn = s.rmn := rfl
@[simp] theorem State.setTel_hbm (s : State) (c : Nat) (v : Tel) : (s.setTel c v).hbm = s.hbm := rfl
@[simp] theorem State.setTel_lnk (s : State) (c : Nat) (v : Tel) : (s.setTel c v).lnk = s.lnk := rfl
@[simp] theorem State.setTel_hif (s : State) (c : Nat) (v : Tel) : (s.setTel c v).hif = s.hif := rfl
@[simp] theorem State.setTel_mbx (s : State) (c : Nat) (v : Tel) : (s.setTel c v).mbx = s.mbx := rfl
@[simp] theorem State.setTel_ras (s : State) (c : Nat) (v : Tel) : (s.setTel c v).ras = s.ras := rfl
@[simp] theorem State.setTel_crt (s : State) (c : Nat) (v : Tel) : (s.setTel c v).crt = s.crt := rfl
@[simp] theorem State.setTel_pwr (s : State) (c : Nat) (v : Tel) : (s.setTel c v).pwr = s.pwr := rfl
@[simp] theorem State.setTel_pln (s : State) (c : Nat) (v : Tel) : (s.setTel c v).pln = s.pln := rfl

@[simp] theorem State.setQueue_pending (s : State) (q : Nat) (v : Queue) : (s.setQueue q v).pending = s.pending := rfl
@[simp] theorem State.setQueue_now (s : State) (q : Nat) (v : Queue) : (s.setQueue q v).now = s.now := rfl
@[simp] theorem State.setQueue_nextId (s : State) (q : Nat) (v : Queue) : (s.setQueue q v).nextId = s.nextId := rfl
@[simp] theorem State.setQueue_freeCtr (s : State) (q : Nat) (v : Queue) : (s.setQueue q v).freeCtr = s.freeCtr := rfl
@[simp] theorem State.setQueue_outbox (s : State) (q : Nat) (v : Queue) : (s.setQueue q v).outbox = s.outbox := rfl
@[simp] theorem State.setQueue_tiles (s : State) (q : Nat) (v : Queue) : (s.setQueue q v).tiles = s.tiles := rfl
@[simp] theorem State.setQueue_tsets (s : State) (q : Nat) (v : Queue) : (s.setQueue q v).tsets = s.tsets := rfl
@[simp] theorem State.setQueue_groups (s : State) (q : Nat) (v : Queue) : (s.setQueue q v).groups = s.groups := rfl
@[simp] theorem State.setQueue_ctxs (s : State) (q : Nat) (v : Queue) : (s.setQueue q v).ctxs = s.ctxs := rfl
@[simp] theorem State.setQueue_ctxPwr (s : State) (q : Nat) (v : Queue) : (s.setQueue q v).ctxPwr = s.ctxPwr := rfl
@[simp] theorem State.setQueue_tels (s : State) (q : Nat) (v : Queue) : (s.setQueue q v).tels = s.tels := rfl
@[simp] theorem State.setQueue_telItems (s : State) (q : Nat) (v : Queue) : (s.setQueue q v).telItems = s.telItems := rfl
@[simp] theorem State.setQueue_xsends (s : State) (q : Nat) (v : Queue) : (s.setQueue q v).xsends = s.xsends := rfl
@[simp] theorem State.setQueue_syu (s : State) (q : Nat) (v : Queue) : (s.setQueue q v).syu = s.syu := rfl
@[simp] theorem State.setQueue_hbm (s : State) (q : Nat) (v : Queue) : (s.setQueue q v).hbm = s.hbm := rfl
@[simp] theorem State.setQueue_lnk (s : State) (q : Nat) (v : Queue) : (s.setQueue q v).lnk = s.lnk := rfl
@[simp] theorem State.setQueue_hif (s : State) (q : Nat) (v : Queue) : (s.setQueue q v).hif = s.hif := rfl
@[simp] theorem State.setQueue_mbx (s : State) (q : Nat) (v : Queue) : (s.setQueue q v).mbx = s.mbx := rfl
@[simp] theorem State.setQueue_ras (s : State) (q : Nat) (v : Queue) : (s.setQueue q v).ras = s.ras := rfl
@[simp] theorem State.setQueue_crt (s : State) (q : Nat) (v : Queue) : (s.setQueue q v).crt = s.crt := rfl
@[simp] theorem State.setQueue_pwr (s : State) (q : Nat) (v : Queue) : (s.setQueue q v).pwr = s.pwr := rfl
@[simp] theorem State.setQueue_pln (s : State) (q : Nat) (v : Queue) : (s.setQueue q v).pln = s.pln := rfl

@[simp] theorem State.setFn_pending (s : State) (f : Nat) (v : Fn) : (s.setFn f v).pending = s.pending := rfl
@[simp] theorem State.setFn_now (s : State) (f : Nat) (v : Fn) : (s.setFn f v).now = s.now := rfl
@[simp] theorem State.setFn_nextId (s : State) (f : Nat) (v : Fn) : (s.setFn f v).nextId = s.nextId := rfl
@[simp] theorem State.setFn_freeCtr (s : State) (f : Nat) (v : Fn) : (s.setFn f v).freeCtr = s.freeCtr := rfl
@[simp] theorem State.setFn_outbox (s : State) (f : Nat) (v : Fn) : (s.setFn f v).outbox = s.outbox := rfl
@[simp] theorem State.setFn_tiles (s : State) (f : Nat) (v : Fn) : (s.setFn f v).tiles = s.tiles := rfl
@[simp] theorem State.setFn_tsets (s : State) (f : Nat) (v : Fn) : (s.setFn f v).tsets = s.tsets := rfl
@[simp] theorem State.setFn_groups (s : State) (f : Nat) (v : Fn) : (s.setFn f v).groups = s.groups := rfl
@[simp] theorem State.setFn_ctxs (s : State) (f : Nat) (v : Fn) : (s.setFn f v).ctxs = s.ctxs := rfl
@[simp] theorem State.setFn_ctxPwr (s : State) (f : Nat) (v : Fn) : (s.setFn f v).ctxPwr = s.ctxPwr := rfl
@[simp] theorem State.setFn_tels (s : State) (f : Nat) (v : Fn) : (s.setFn f v).tels = s.tels := rfl
@[simp] theorem State.setFn_telItems (s : State) (f : Nat) (v : Fn) : (s.setFn f v).telItems = s.telItems := rfl
@[simp] theorem State.setFn_xsends (s : State) (f : Nat) (v : Fn) : (s.setFn f v).xsends = s.xsends := rfl
@[simp] theorem State.setFn_syu (s : State) (f : Nat) (v : Fn) : (s.setFn f v).syu = s.syu := rfl
@[simp] theorem State.setFn_rmn (s : State) (f : Nat) (v : Fn) : (s.setFn f v).rmn = s.rmn := rfl
@[simp] theorem State.setFn_hbm (s : State) (f : Nat) (v : Fn) : (s.setFn f v).hbm = s.hbm := rfl
@[simp] theorem State.setFn_lnk (s : State) (f : Nat) (v : Fn) : (s.setFn f v).lnk = s.lnk := rfl
@[simp] theorem State.setFn_mbx (s : State) (f : Nat) (v : Fn) : (s.setFn f v).mbx = s.mbx := rfl
@[simp] theorem State.setFn_ras (s : State) (f : Nat) (v : Fn) : (s.setFn f v).ras = s.ras := rfl
@[simp] theorem State.setFn_crt (s : State) (f : Nat) (v : Fn) : (s.setFn f v).crt = s.crt := rfl
@[simp] theorem State.setFn_pwr (s : State) (f : Nat) (v : Fn) : (s.setFn f v).pwr = s.pwr := rfl
@[simp] theorem State.setFn_pln (s : State) (f : Nat) (v : Fn) : (s.setFn f v).pln = s.pln := rfl

@[simp] theorem State.setPort_pending (s : State) (k : Nat) (v : Port) : (s.setPort k v).pending = s.pending := rfl
@[simp] theorem State.setPort_now (s : State) (k : Nat) (v : Port) : (s.setPort k v).now = s.now := rfl
@[simp] theorem State.setPort_nextId (s : State) (k : Nat) (v : Port) : (s.setPort k v).nextId = s.nextId := rfl
@[simp] theorem State.setPort_freeCtr (s : State) (k : Nat) (v : Port) : (s.setPort k v).freeCtr = s.freeCtr := rfl
@[simp] theorem State.setPort_outbox (s : State) (k : Nat) (v : Port) : (s.setPort k v).outbox = s.outbox := rfl
@[simp] theorem State.setPort_tiles (s : State) (k : Nat) (v : Port) : (s.setPort k v).tiles = s.tiles := rfl
@[simp] theorem State.setPort_tsets (s : State) (k : Nat) (v : Port) : (s.setPort k v).tsets = s.tsets := rfl
@[simp] theorem State.setPort_groups (s : State) (k : Nat) (v : Port) : (s.setPort k v).groups = s.groups := rfl
@[simp] theorem State.setPort_ctxs (s : State) (k : Nat) (v : Port) : (s.setPort k v).ctxs = s.ctxs := rfl
@[simp] theorem State.setPort_ctxPwr (s : State) (k : Nat) (v : Port) : (s.setPort k v).ctxPwr = s.ctxPwr := rfl
@[simp] theorem State.setPort_tels (s : State) (k : Nat) (v : Port) : (s.setPort k v).tels = s.tels := rfl
@[simp] theorem State.setPort_telItems (s : State) (k : Nat) (v : Port) : (s.setPort k v).telItems = s.telItems := rfl
@[simp] theorem State.setPort_xsends (s : State) (k : Nat) (v : Port) : (s.setPort k v).xsends = s.xsends := rfl
@[simp] theorem State.setPort_syu (s : State) (k : Nat) (v : Port) : (s.setPort k v).syu = s.syu := rfl
@[simp] theorem State.setPort_rmn (s : State) (k : Nat) (v : Port) : (s.setPort k v).rmn = s.rmn := rfl
@[simp] theorem State.setPort_hbm (s : State) (k : Nat) (v : Port) : (s.setPort k v).hbm = s.hbm := rfl
@[simp] theorem State.setPort_hif (s : State) (k : Nat) (v : Port) : (s.setPort k v).hif = s.hif := rfl
@[simp] theorem State.setPort_mbx (s : State) (k : Nat) (v : Port) : (s.setPort k v).mbx = s.mbx := rfl
@[simp] theorem State.setPort_ras (s : State) (k : Nat) (v : Port) : (s.setPort k v).ras = s.ras := rfl
@[simp] theorem State.setPort_crt (s : State) (k : Nat) (v : Port) : (s.setPort k v).crt = s.crt := rfl
@[simp] theorem State.setPort_pwr (s : State) (k : Nat) (v : Port) : (s.setPort k v).pwr = s.pwr := rfl
@[simp] theorem State.setPort_pln (s : State) (k : Nat) (v : Port) : (s.setPort k v).pln = s.pln := rfl

@[simp] theorem State.modPort_pending (s : State) (k : Nat) (f : Port → Port) : (s.modPort k f).pending = s.pending := rfl
@[simp] theorem State.modPort_now (s : State) (k : Nat) (f : Port → Port) : (s.modPort k f).now = s.now := rfl
@[simp] theorem State.modPort_nextId (s : State) (k : Nat) (f : Port → Port) : (s.modPort k f).nextId = s.nextId := rfl
@[simp] theorem State.modPort_freeCtr (s : State) (k : Nat) (f : Port → Port) : (s.modPort k f).freeCtr = s.freeCtr := rfl
@[simp] theorem State.modPort_outbox (s : State) (k : Nat) (f : Port → Port) : (s.modPort k f).outbox = s.outbox := rfl
@[simp] theorem State.modPort_tiles (s : State) (k : Nat) (f : Port → Port) : (s.modPort k f).tiles = s.tiles := rfl
@[simp] theorem State.modPort_tsets (s : State) (k : Nat) (f : Port → Port) : (s.modPort k f).tsets = s.tsets := rfl
@[simp] theorem State.modPort_groups (s : State) (k : Nat) (f : Port → Port) : (s.modPort k f).groups = s.groups := rfl
@[simp] theorem State.modPort_ctxs (s : State) (k : Nat) (f : Port → Port) : (s.modPort k f).ctxs = s.ctxs := rfl
@[simp] theorem State.modPort_ctxPwr (s : State) (k : Nat) (f : Port → Port) : (s.modPort k f).ctxPwr = s.ctxPwr := rfl
@[simp] theorem State.modPort_tels (s : State) (k : Nat) (f : Port → Port) : (s.modPort k f).tels = s.tels := rfl
@[simp] theorem State.modPort_telItems (s : State) (k : Nat) (f : Port → Port) : (s.modPort k f).telItems = s.telItems := rfl
@[simp] theorem State.modPort_xsends (s : State) (k : Nat) (f : Port → Port) : (s.modPort k f).xsends = s.xsends := rfl
@[simp] theorem State.modPort_syu (s : State) (k : Nat) (f : Port → Port) : (s.modPort k f).syu = s.syu := rfl
@[simp] theorem State.modPort_rmn (s : State) (k : Nat) (f : Port → Port) : (s.modPort k f).rmn = s.rmn := rfl
@[simp] theorem State.modPort_hbm (s : State) (k : Nat) (f : Port → Port) : (s.modPort k f).hbm = s.hbm := rfl
@[simp] theorem State.modPort_hif (s : State) (k : Nat) (f : Port → Port) : (s.modPort k f).hif = s.hif := rfl
@[simp] theorem State.modPort_mbx (s : State) (k : Nat) (f : Port → Port) : (s.modPort k f).mbx = s.mbx := rfl
@[simp] theorem State.modPort_ras (s : State) (k : Nat) (f : Port → Port) : (s.modPort k f).ras = s.ras := rfl
@[simp] theorem State.modPort_crt (s : State) (k : Nat) (f : Port → Port) : (s.modPort k f).crt = s.crt := rfl
@[simp] theorem State.modPort_pwr (s : State) (k : Nat) (f : Port → Port) : (s.modPort k f).pwr = s.pwr := rfl
@[simp] theorem State.modPort_pln (s : State) (k : Nat) (f : Port → Port) : (s.modPort k f).pln = s.pln := rfl

@[simp] theorem State.setBinding_pending (s : State) (k c : Nat) (v : Binding) : (s.setBinding k c v).pending = s.pending := rfl
@[simp] theorem State.setBinding_now (s : State) (k c : Nat) (v : Binding) : (s.setBinding k c v).now = s.now := rfl
@[simp] theorem State.setBinding_nextId (s : State) (k c : Nat) (v : Binding) : (s.setBinding k c v).nextId = s.nextId := rfl
@[simp] theorem State.setBinding_freeCtr (s : State) (k c : Nat) (v : Binding) : (s.setBinding k c v).freeCtr = s.freeCtr := rfl
@[simp] theorem State.setBinding_outbox (s : State) (k c : Nat) (v : Binding) : (s.setBinding k c v).outbox = s.outbox := rfl
@[simp] theorem State.setBinding_tiles (s : State) (k c : Nat) (v : Binding) : (s.setBinding k c v).tiles = s.tiles := rfl
@[simp] theorem State.setBinding_tsets (s : State) (k c : Nat) (v : Binding) : (s.setBinding k c v).tsets = s.tsets := rfl
@[simp] theorem State.setBinding_groups (s : State) (k c : Nat) (v : Binding) : (s.setBinding k c v).groups = s.groups := rfl
@[simp] theorem State.setBinding_ctxs (s : State) (k c : Nat) (v : Binding) : (s.setBinding k c v).ctxs = s.ctxs := rfl
@[simp] theorem State.setBinding_ctxPwr (s : State) (k c : Nat) (v : Binding) : (s.setBinding k c v).ctxPwr = s.ctxPwr := rfl
@[simp] theorem State.setBinding_tels (s : State) (k c : Nat) (v : Binding) : (s.setBinding k c v).tels = s.tels := rfl
@[simp] theorem State.setBinding_telItems (s : State) (k c : Nat) (v : Binding) : (s.setBinding k c v).telItems = s.telItems := rfl
@[simp] theorem State.setBinding_xsends (s : State) (k c : Nat) (v : Binding) : (s.setBinding k c v).xsends = s.xsends := rfl
@[simp] theorem State.setBinding_syu (s : State) (k c : Nat) (v : Binding) : (s.setBinding k c v).syu = s.syu := rfl
@[simp] theorem State.setBinding_rmn (s : State) (k c : Nat) (v : Binding) : (s.setBinding k c v).rmn = s.rmn := rfl
@[simp] theorem State.setBinding_hbm (s : State) (k c : Nat) (v : Binding) : (s.setBinding k c v).hbm = s.hbm := rfl
@[simp] theorem State.setBinding_hif (s : State) (k c : Nat) (v : Binding) : (s.setBinding k c v).hif = s.hif := rfl
@[simp] theorem State.setBinding_mbx (s : State) (k c : Nat) (v : Binding) : (s.setBinding k c v).mbx = s.mbx := rfl
@[simp] theorem State.setBinding_ras (s : State) (k c : Nat) (v : Binding) : (s.setBinding k c v).ras = s.ras := rfl
@[simp] theorem State.setBinding_crt (s : State) (k c : Nat) (v : Binding) : (s.setBinding k c v).crt = s.crt := rfl
@[simp] theorem State.setBinding_pwr (s : State) (k c : Nat) (v : Binding) : (s.setBinding k c v).pwr = s.pwr := rfl
@[simp] theorem State.setBinding_pln (s : State) (k c : Nat) (v : Binding) : (s.setBinding k c v).pln = s.pln := rfl

@[simp] theorem State.setDom_pending (s : State) (d : Nat) (v : Domain) : (s.setDom d v).pending = s.pending := rfl
@[simp] theorem State.setDom_now (s : State) (d : Nat) (v : Domain) : (s.setDom d v).now = s.now := rfl
@[simp] theorem State.setDom_nextId (s : State) (d : Nat) (v : Domain) : (s.setDom d v).nextId = s.nextId := rfl
@[simp] theorem State.setDom_freeCtr (s : State) (d : Nat) (v : Domain) : (s.setDom d v).freeCtr = s.freeCtr := rfl
@[simp] theorem State.setDom_outbox (s : State) (d : Nat) (v : Domain) : (s.setDom d v).outbox = s.outbox := rfl
@[simp] theorem State.setDom_tiles (s : State) (d : Nat) (v : Domain) : (s.setDom d v).tiles = s.tiles := rfl
@[simp] theorem State.setDom_tsets (s : State) (d : Nat) (v : Domain) : (s.setDom d v).tsets = s.tsets := rfl
@[simp] theorem State.setDom_groups (s : State) (d : Nat) (v : Domain) : (s.setDom d v).groups = s.groups := rfl
@[simp] theorem State.setDom_ctxs (s : State) (d : Nat) (v : Domain) : (s.setDom d v).ctxs = s.ctxs := rfl
@[simp] theorem State.setDom_ctxPwr (s : State) (d : Nat) (v : Domain) : (s.setDom d v).ctxPwr = s.ctxPwr := rfl
@[simp] theorem State.setDom_tels (s : State) (d : Nat) (v : Domain) : (s.setDom d v).tels = s.tels := rfl
@[simp] theorem State.setDom_telItems (s : State) (d : Nat) (v : Domain) : (s.setDom d v).telItems = s.telItems := rfl
@[simp] theorem State.setDom_xsends (s : State) (d : Nat) (v : Domain) : (s.setDom d v).xsends = s.xsends := rfl
@[simp] theorem State.setDom_syu (s : State) (d : Nat) (v : Domain) : (s.setDom d v).syu = s.syu := rfl
@[simp] theorem State.setDom_rmn (s : State) (d : Nat) (v : Domain) : (s.setDom d v).rmn = s.rmn := rfl
@[simp] theorem State.setDom_hbm (s : State) (d : Nat) (v : Domain) : (s.setDom d v).hbm = s.hbm := rfl
@[simp] theorem State.setDom_lnk (s : State) (d : Nat) (v : Domain) : (s.setDom d v).lnk = s.lnk := rfl
@[simp] theorem State.setDom_hif (s : State) (d : Nat) (v : Domain) : (s.setDom d v).hif = s.hif := rfl
@[simp] theorem State.setDom_mbx (s : State) (d : Nat) (v : Domain) : (s.setDom d v).mbx = s.mbx := rfl
@[simp] theorem State.setDom_ras (s : State) (d : Nat) (v : Domain) : (s.setDom d v).ras = s.ras := rfl
@[simp] theorem State.setDom_crt (s : State) (d : Nat) (v : Domain) : (s.setDom d v).crt = s.crt := rfl
@[simp] theorem State.setDom_pln (s : State) (d : Nat) (v : Domain) : (s.setDom d v).pln = s.pln := rfl

@[simp] theorem State.setTdom_pending (s : State) (k : Nat) (v : TDom) : (s.setTdom k v).pending = s.pending := rfl
@[simp] theorem State.setTdom_now (s : State) (k : Nat) (v : TDom) : (s.setTdom k v).now = s.now := rfl
@[simp] theorem State.setTdom_nextId (s : State) (k : Nat) (v : TDom) : (s.setTdom k v).nextId = s.nextId := rfl
@[simp] theorem State.setTdom_freeCtr (s : State) (k : Nat) (v : TDom) : (s.setTdom k v).freeCtr = s.freeCtr := rfl
@[simp] theorem State.setTdom_outbox (s : State) (k : Nat) (v : TDom) : (s.setTdom k v).outbox = s.outbox := rfl
@[simp] theorem State.setTdom_tiles (s : State) (k : Nat) (v : TDom) : (s.setTdom k v).tiles = s.tiles := rfl
@[simp] theorem State.setTdom_tsets (s : State) (k : Nat) (v : TDom) : (s.setTdom k v).tsets = s.tsets := rfl
@[simp] theorem State.setTdom_groups (s : State) (k : Nat) (v : TDom) : (s.setTdom k v).groups = s.groups := rfl
@[simp] theorem State.setTdom_ctxs (s : State) (k : Nat) (v : TDom) : (s.setTdom k v).ctxs = s.ctxs := rfl
@[simp] theorem State.setTdom_ctxPwr (s : State) (k : Nat) (v : TDom) : (s.setTdom k v).ctxPwr = s.ctxPwr := rfl
@[simp] theorem State.setTdom_tels (s : State) (k : Nat) (v : TDom) : (s.setTdom k v).tels = s.tels := rfl
@[simp] theorem State.setTdom_telItems (s : State) (k : Nat) (v : TDom) : (s.setTdom k v).telItems = s.telItems := rfl
@[simp] theorem State.setTdom_xsends (s : State) (k : Nat) (v : TDom) : (s.setTdom k v).xsends = s.xsends := rfl
@[simp] theorem State.setTdom_syu (s : State) (k : Nat) (v : TDom) : (s.setTdom k v).syu = s.syu := rfl
@[simp] theorem State.setTdom_rmn (s : State) (k : Nat) (v : TDom) : (s.setTdom k v).rmn = s.rmn := rfl
@[simp] theorem State.setTdom_hbm (s : State) (k : Nat) (v : TDom) : (s.setTdom k v).hbm = s.hbm := rfl
@[simp] theorem State.setTdom_lnk (s : State) (k : Nat) (v : TDom) : (s.setTdom k v).lnk = s.lnk := rfl
@[simp] theorem State.setTdom_hif (s : State) (k : Nat) (v : TDom) : (s.setTdom k v).hif = s.hif := rfl
@[simp] theorem State.setTdom_mbx (s : State) (k : Nat) (v : TDom) : (s.setTdom k v).mbx = s.mbx := rfl
@[simp] theorem State.setTdom_ras (s : State) (k : Nat) (v : TDom) : (s.setTdom k v).ras = s.ras := rfl
@[simp] theorem State.setTdom_crt (s : State) (k : Nat) (v : TDom) : (s.setTdom k v).crt = s.crt := rfl
@[simp] theorem State.setTdom_pln (s : State) (k : Nat) (v : TDom) : (s.setTdom k v).pln = s.pln := rfl

@[simp] theorem State.setChan_pending (s : State) (n : Nat) (v : Channel) : (s.setChan n v).pending = s.pending := rfl
@[simp] theorem State.setChan_now (s : State) (n : Nat) (v : Channel) : (s.setChan n v).now = s.now := rfl
@[simp] theorem State.setChan_nextId (s : State) (n : Nat) (v : Channel) : (s.setChan n v).nextId = s.nextId := rfl
@[simp] theorem State.setChan_freeCtr (s : State) (n : Nat) (v : Channel) : (s.setChan n v).freeCtr = s.freeCtr := rfl
@[simp] theorem State.setChan_outbox (s : State) (n : Nat) (v : Channel) : (s.setChan n v).outbox = s.outbox := rfl
@[simp] theorem State.setChan_tiles (s : State) (n : Nat) (v : Channel) : (s.setChan n v).tiles = s.tiles := rfl
@[simp] theorem State.setChan_tsets (s : State) (n : Nat) (v : Channel) : (s.setChan n v).tsets = s.tsets := rfl
@[simp] theorem State.setChan_groups (s : State) (n : Nat) (v : Channel) : (s.setChan n v).groups = s.groups := rfl
@[simp] theorem State.setChan_ctxs (s : State) (n : Nat) (v : Channel) : (s.setChan n v).ctxs = s.ctxs := rfl
@[simp] theorem State.setChan_ctxPwr (s : State) (n : Nat) (v : Channel) : (s.setChan n v).ctxPwr = s.ctxPwr := rfl
@[simp] theorem State.setChan_tels (s : State) (n : Nat) (v : Channel) : (s.setChan n v).tels = s.tels := rfl
@[simp] theorem State.setChan_telItems (s : State) (n : Nat) (v : Channel) : (s.setChan n v).telItems = s.telItems := rfl
@[simp] theorem State.setChan_xsends (s : State) (n : Nat) (v : Channel) : (s.setChan n v).xsends = s.xsends := rfl
@[simp] theorem State.setChan_syu (s : State) (n : Nat) (v : Channel) : (s.setChan n v).syu = s.syu := rfl
@[simp] theorem State.setChan_rmn (s : State) (n : Nat) (v : Channel) : (s.setChan n v).rmn = s.rmn := rfl
@[simp] theorem State.setChan_hbm (s : State) (n : Nat) (v : Channel) : (s.setChan n v).hbm = s.hbm := rfl
@[simp] theorem State.setChan_lnk (s : State) (n : Nat) (v : Channel) : (s.setChan n v).lnk = s.lnk := rfl
@[simp] theorem State.setChan_hif (s : State) (n : Nat) (v : Channel) : (s.setChan n v).hif = s.hif := rfl
@[simp] theorem State.setChan_ras (s : State) (n : Nat) (v : Channel) : (s.setChan n v).ras = s.ras := rfl
@[simp] theorem State.setChan_crt (s : State) (n : Nat) (v : Channel) : (s.setChan n v).crt = s.crt := rfl
@[simp] theorem State.setChan_pwr (s : State) (n : Nat) (v : Channel) : (s.setChan n v).pwr = s.pwr := rfl
@[simp] theorem State.setChan_pln (s : State) (n : Nat) (v : Channel) : (s.setChan n v).pln = s.pln := rfl

@[simp] theorem State.tick_pending (s : State) : (s.tick).pending = s.pending := rfl
@[simp] theorem State.tick_nextId (s : State) : (s.tick).nextId = s.nextId := rfl
@[simp] theorem State.tick_freeCtr (s : State) : (s.tick).freeCtr = s.freeCtr := rfl
@[simp] theorem State.tick_outbox (s : State) : (s.tick).outbox = s.outbox := rfl
@[simp] theorem State.tick_tiles (s : State) : (s.tick).tiles = s.tiles := rfl
@[simp] theorem State.tick_tsets (s : State) : (s.tick).tsets = s.tsets := rfl
@[simp] theorem State.tick_groups (s : State) : (s.tick).groups = s.groups := rfl
@[simp] theorem State.tick_ctxs (s : State) : (s.tick).ctxs = s.ctxs := rfl
@[simp] theorem State.tick_ctxPwr (s : State) : (s.tick).ctxPwr = s.ctxPwr := rfl
@[simp] theorem State.tick_tels (s : State) : (s.tick).tels = s.tels := rfl
@[simp] theorem State.tick_telItems (s : State) : (s.tick).telItems = s.telItems := rfl
@[simp] theorem State.tick_xsends (s : State) : (s.tick).xsends = s.xsends := rfl
@[simp] theorem State.tick_syu (s : State) : (s.tick).syu = s.syu := rfl
@[simp] theorem State.tick_rmn (s : State) : (s.tick).rmn = s.rmn := rfl
@[simp] theorem State.tick_hbm (s : State) : (s.tick).hbm = s.hbm := rfl
@[simp] theorem State.tick_lnk (s : State) : (s.tick).lnk = s.lnk := rfl
@[simp] theorem State.tick_hif (s : State) : (s.tick).hif = s.hif := rfl
@[simp] theorem State.tick_mbx (s : State) : (s.tick).mbx = s.mbx := rfl
@[simp] theorem State.tick_ras (s : State) : (s.tick).ras = s.ras := rfl
@[simp] theorem State.tick_crt (s : State) : (s.tick).crt = s.crt := rfl
@[simp] theorem State.tick_pwr (s : State) : (s.tick).pwr = s.pwr := rfl
@[simp] theorem State.tick_pln (s : State) : (s.tick).pln = s.pln := rfl

@[simp] theorem State.drawn_pending (s : State) (n : Nat) : (s.drawn n).pending = s.pending := rfl
@[simp] theorem State.drawn_now (s : State) (n : Nat) : (s.drawn n).now = s.now := rfl
@[simp] theorem State.drawn_nextId (s : State) (n : Nat) : (s.drawn n).nextId = s.nextId := rfl
@[simp] theorem State.drawn_outbox (s : State) (n : Nat) : (s.drawn n).outbox = s.outbox := rfl
@[simp] theorem State.drawn_tiles (s : State) (n : Nat) : (s.drawn n).tiles = s.tiles := rfl
@[simp] theorem State.drawn_tsets (s : State) (n : Nat) : (s.drawn n).tsets = s.tsets := rfl
@[simp] theorem State.drawn_groups (s : State) (n : Nat) : (s.drawn n).groups = s.groups := rfl
@[simp] theorem State.drawn_ctxs (s : State) (n : Nat) : (s.drawn n).ctxs = s.ctxs := rfl
@[simp] theorem State.drawn_ctxPwr (s : State) (n : Nat) : (s.drawn n).ctxPwr = s.ctxPwr := rfl
@[simp] theorem State.drawn_tels (s : State) (n : Nat) : (s.drawn n).tels = s.tels := rfl
@[simp] theorem State.drawn_telItems (s : State) (n : Nat) : (s.drawn n).telItems = s.telItems := rfl
@[simp] theorem State.drawn_xsends (s : State) (n : Nat) : (s.drawn n).xsends = s.xsends := rfl
@[simp] theorem State.drawn_syu (s : State) (n : Nat) : (s.drawn n).syu = s.syu := rfl
@[simp] theorem State.drawn_rmn (s : State) (n : Nat) : (s.drawn n).rmn = s.rmn := rfl
@[simp] theorem State.drawn_hbm (s : State) (n : Nat) : (s.drawn n).hbm = s.hbm := rfl
@[simp] theorem State.drawn_lnk (s : State) (n : Nat) : (s.drawn n).lnk = s.lnk := rfl
@[simp] theorem State.drawn_hif (s : State) (n : Nat) : (s.drawn n).hif = s.hif := rfl
@[simp] theorem State.drawn_mbx (s : State) (n : Nat) : (s.drawn n).mbx = s.mbx := rfl
@[simp] theorem State.drawn_ras (s : State) (n : Nat) : (s.drawn n).ras = s.ras := rfl
@[simp] theorem State.drawn_crt (s : State) (n : Nat) : (s.drawn n).crt = s.crt := rfl
@[simp] theorem State.drawn_pwr (s : State) (n : Nat) : (s.drawn n).pwr = s.pwr := rfl
@[simp] theorem State.drawn_pln (s : State) (n : Nat) : (s.drawn n).pln = s.pln := rfl

@[simp] theorem State.out_pending (s : State) (m : OutMsg) : (s.out m).pending = s.pending := rfl
@[simp] theorem State.out_now (s : State) (m : OutMsg) : (s.out m).now = s.now := rfl
@[simp] theorem State.out_nextId (s : State) (m : OutMsg) : (s.out m).nextId = s.nextId := rfl
@[simp] theorem State.out_freeCtr (s : State) (m : OutMsg) : (s.out m).freeCtr = s.freeCtr := rfl
@[simp] theorem State.out_tiles (s : State) (m : OutMsg) : (s.out m).tiles = s.tiles := rfl
@[simp] theorem State.out_tsets (s : State) (m : OutMsg) : (s.out m).tsets = s.tsets := rfl
@[simp] theorem State.out_groups (s : State) (m : OutMsg) : (s.out m).groups = s.groups := rfl
@[simp] theorem State.out_ctxs (s : State) (m : OutMsg) : (s.out m).ctxs = s.ctxs := rfl
@[simp] theorem State.out_ctxPwr (s : State) (m : OutMsg) : (s.out m).ctxPwr = s.ctxPwr := rfl
@[simp] theorem State.out_tels (s : State) (m : OutMsg) : (s.out m).tels = s.tels := rfl
@[simp] theorem State.out_telItems (s : State) (m : OutMsg) : (s.out m).telItems = s.telItems := rfl
@[simp] theorem State.out_xsends (s : State) (m : OutMsg) : (s.out m).xsends = s.xsends := rfl
@[simp] theorem State.out_syu (s : State) (m : OutMsg) : (s.out m).syu = s.syu := rfl
@[simp] theorem State.out_rmn (s : State) (m : OutMsg) : (s.out m).rmn = s.rmn := rfl
@[simp] theorem State.out_hbm (s : State) (m : OutMsg) : (s.out m).hbm = s.hbm := rfl
@[simp] theorem State.out_lnk (s : State) (m : OutMsg) : (s.out m).lnk = s.lnk := rfl
@[simp] theorem State.out_hif (s : State) (m : OutMsg) : (s.out m).hif = s.hif := rfl
@[simp] theorem State.out_mbx (s : State) (m : OutMsg) : (s.out m).mbx = s.mbx := rfl
@[simp] theorem State.out_ras (s : State) (m : OutMsg) : (s.out m).ras = s.ras := rfl
@[simp] theorem State.out_crt (s : State) (m : OutMsg) : (s.out m).crt = s.crt := rfl
@[simp] theorem State.out_pwr (s : State) (m : OutMsg) : (s.out m).pwr = s.pwr := rfl
@[simp] theorem State.out_pln (s : State) (m : OutMsg) : (s.out m).pln = s.pln := rfl

@[simp] theorem State.access_pending (s : State) (m off : Nat) : (s.access m off).pending = s.pending := rfl
@[simp] theorem State.access_now (s : State) (m off : Nat) : (s.access m off).now = s.now := rfl
@[simp] theorem State.access_nextId (s : State) (m off : Nat) : (s.access m off).nextId = s.nextId := rfl
@[simp] theorem State.access_freeCtr (s : State) (m off : Nat) : (s.access m off).freeCtr = s.freeCtr := rfl
@[simp] theorem State.access_outbox (s : State) (m off : Nat) : (s.access m off).outbox = s.outbox := rfl
@[simp] theorem State.access_tiles (s : State) (m off : Nat) : (s.access m off).tiles = s.tiles := rfl
@[simp] theorem State.access_tsets (s : State) (m off : Nat) : (s.access m off).tsets = s.tsets := rfl
@[simp] theorem State.access_groups (s : State) (m off : Nat) : (s.access m off).groups = s.groups := rfl
@[simp] theorem State.access_ctxs (s : State) (m off : Nat) : (s.access m off).ctxs = s.ctxs := rfl
@[simp] theorem State.access_ctxPwr (s : State) (m off : Nat) : (s.access m off).ctxPwr = s.ctxPwr := rfl
@[simp] theorem State.access_tels (s : State) (m off : Nat) : (s.access m off).tels = s.tels := rfl
@[simp] theorem State.access_telItems (s : State) (m off : Nat) : (s.access m off).telItems = s.telItems := rfl
@[simp] theorem State.access_xsends (s : State) (m off : Nat) : (s.access m off).xsends = s.xsends := rfl
@[simp] theorem State.access_syu (s : State) (m off : Nat) : (s.access m off).syu = s.syu := rfl
@[simp] theorem State.access_rmn (s : State) (m off : Nat) : (s.access m off).rmn = s.rmn := rfl
@[simp] theorem State.access_hbm (s : State) (m off : Nat) : (s.access m off).hbm = s.hbm := rfl
@[simp] theorem State.access_lnk (s : State) (m off : Nat) : (s.access m off).lnk = s.lnk := rfl
@[simp] theorem State.access_hif (s : State) (m off : Nat) : (s.access m off).hif = s.hif := rfl
@[simp] theorem State.access_mbx (s : State) (m off : Nat) : (s.access m off).mbx = s.mbx := rfl
@[simp] theorem State.access_ras (s : State) (m off : Nat) : (s.access m off).ras = s.ras := rfl
@[simp] theorem State.access_crt (s : State) (m off : Nat) : (s.access m off).crt = s.crt := rfl
@[simp] theorem State.access_pwr (s : State) (m off : Nat) : (s.access m off).pwr = s.pwr := rfl

/-! ### What is written is read, and nothing else changes -/

theorem State.tile_setTile (s : State) (t j : Nat) (v : Tile) : (s.setTile t v).tile j = if j = t then v else s.tile j := mget_mset _ _ _ _
@[simp] theorem State.tile_setTile_self (s : State) (t : Nat) (v : Tile) : (s.setTile t v).tile t = v := mget_mset_self _ _ _
theorem State.tset_setTset (s : State) (n j : Nat) (v : TSet) : (s.setTset n v).tset j = if j = n then v else s.tset j := mget_mset _ _ _ _
@[simp] theorem State.tset_setTset_self (s : State) (n : Nat) (v : TSet) : (s.setTset n v).tset n = v := mget_mset_self _ _ _
theorem State.group_setGroup (s : State) (g j : Nat) (v : Group) : (s.setGroup g v).group j = if j = g then v else s.group j := mget_mset _ _ _ _
@[simp] theorem State.group_setGroup_self (s : State) (g : Nat) (v : Group) : (s.setGroup g v).group g = v := mget_mset_self _ _ _
theorem State.ctx_setCtx (s : State) (c j : Nat) (v : Ctx) : (s.setCtx c v).ctx j = if j = c then v else s.ctx j := mget_mset _ _ _ _
@[simp] theorem State.ctx_setCtx_self (s : State) (c : Nat) (v : Ctx) : (s.setCtx c v).ctx c = v := mget_mset_self _ _ _
theorem State.cp_setCp (s : State) (c j : Nat) (v : CtxPwr) : (s.setCp c v).cp j = if j = c then v else s.cp j := mget_mset _ _ _ _
@[simp] theorem State.cp_setCp_self (s : State) (c : Nat) (v : CtxPwr) : (s.setCp c v).cp c = v := mget_mset_self _ _ _
theorem State.tel_setTel (s : State) (c j : Nat) (v : Tel) : (s.setTel c v).tel j = if j = c then v else s.tel j := mget_mset _ _ _ _
@[simp] theorem State.tel_setTel_self (s : State) (c : Nat) (v : Tel) : (s.setTel c v).tel c = v := mget_mset_self _ _ _
theorem State.queue_setQueue (s : State) (q j : Nat) (v : Queue) : (s.setQueue q v).queue j = if j = q then v else s.queue j := mget_mset _ _ _ _
@[simp] theorem State.queue_setQueue_self (s : State) (q : Nat) (v : Queue) : (s.setQueue q v).queue q = v := mget_mset_self _ _ _
theorem State.fn_setFn (s : State) (f j : Nat) (v : Fn) : (s.setFn f v).fn j = if j = f then v else s.fn j := mget_mset _ _ _ _
@[simp] theorem State.fn_setFn_self (s : State) (f : Nat) (v : Fn) : (s.setFn f v).fn f = v := mget_mset_self _ _ _
theorem State.port_setPort (s : State) (k j : Nat) (v : Port) : (s.setPort k v).port j = if j = k then v else s.port j := mget_mset _ _ _ _
@[simp] theorem State.port_setPort_self (s : State) (k : Nat) (v : Port) : (s.setPort k v).port k = v := mget_mset_self _ _ _
theorem State.dom_setDom (s : State) (d j : Nat) (v : Domain) : (s.setDom d v).dom j = if j = d then v else s.dom j := mget_mset _ _ _ _
@[simp] theorem State.dom_setDom_self (s : State) (d : Nat) (v : Domain) : (s.setDom d v).dom d = v := mget_mset_self _ _ _
theorem State.tdom_setTdom (s : State) (k j : Nat) (v : TDom) : (s.setTdom k v).tdom j = if j = k then v else s.tdom j := mget_mset _ _ _ _
@[simp] theorem State.tdom_setTdom_self (s : State) (k : Nat) (v : TDom) : (s.setTdom k v).tdom k = v := mget_mset_self _ _ _
theorem State.chan_setChan (s : State) (n j : Nat) (v : Channel) : (s.setChan n v).chan j = if j = n then v else s.chan j := mget_mset _ _ _ _
@[simp] theorem State.chan_setChan_self (s : State) (n : Nat) (v : Channel) : (s.setChan n v).chan n = v := mget_mset_self _ _ _
theorem State.tile_modTile (s : State) (t j : Nat) (f : Tile → Tile) : (s.modTile t f).tile j = if j = t then f (s.tile t) else s.tile j := mget_mset _ _ _ _
@[simp] theorem State.tile_modTile_self (s : State) (t : Nat) (f : Tile → Tile) : (s.modTile t f).tile t = f (s.tile t) := mget_mset_self _ _ _
theorem State.ctx_modCtx (s : State) (c j : Nat) (f : Ctx → Ctx) : (s.modCtx c f).ctx j = if j = c then f (s.ctx c) else s.ctx j := mget_mset _ _ _ _
@[simp] theorem State.ctx_modCtx_self (s : State) (c : Nat) (f : Ctx → Ctx) : (s.modCtx c f).ctx c = f (s.ctx c) := mget_mset_self _ _ _
theorem State.port_modPort (s : State) (k j : Nat) (f : Port → Port) : (s.modPort k f).port j = if j = k then f (s.port k) else s.port j := mget_mset _ _ _ _
@[simp] theorem State.port_modPort_self (s : State) (k : Nat) (f : Port → Port) : (s.modPort k f).port k = f (s.port k) := mget_mset_self _ _ _

theorem State.binding_setBinding_self (s : State) (k c : Nat) (v : Binding) : (s.setBinding k c v).binding k c = v := mget_mset_self _ _ _
theorem Tile.thread_setThread (t : Tile) (n j : Nat) (v : Thread) : (t.setThread n v).thread j = if j = n then v else t.thread j := mget_mset _ _ _ _
@[simp] theorem Tile.thread_setThread_self (t : Tile) (n : Nat) (v : Thread) : (t.setThread n v).thread n = v := mget_mset_self _ _ _
theorem Tile.thread_modThread (t : Tile) (n j : Nat) (f : Thread → Thread) :
    (t.modThread n f).thread j = if j = n then f (t.thread n) else t.thread j := mget_mset _ _ _ _
@[simp] theorem Tile.thread_modThread_self (t : Tile) (n : Nat) (f : Thread → Thread) : (t.modThread n f).thread n = f (t.thread n) := mget_mset_self _ _ _
@[simp] theorem Thread.regs_setRegs (t : Thread) (fill : Bool) (r : RegSet) : (t.setRegs fill r).regs fill = r := by cases fill <;> rfl

/-- The registers of the thread of `o` after a change of them. -/
@[simp] theorem State.regs_modRegs (s : State) (o : Op) (f : RegSet → RegSet) : (s.modRegs o f).regs o = f (s.regs o) := by
  simp [State.modRegs, State.modThread, State.regs, State.thread]

theorem State.tile_modRegs_of_ne (s : State) (o : Op) (f : RegSet → RegSet) (j : Nat) (h : j ≠ o.tile) :
    (s.modRegs o f).tile j = s.tile j := by
  simp [State.modRegs, State.modThread, State.tile_modTile, h]

/-! ### Registers: what is written is read, register 0 discards writes and reads its constant (R65) -/

@[simp] theorem RegSet.getA_zero (r : RegSet) : r.getA 0 = 0 := rfl
@[simp] theorem RegSet.getP_zero (r : RegSet) : r.getP 0 = true := rfl
@[simp] theorem RegSet.setA_zero (r : RegSet) (v : Nat) : r.setA 0 v = r := rfl
@[simp] theorem RegSet.setP_zero (r : RegSet) (v : Bool) : r.setP 0 v = r := rfl

theorem RegSet.getA_setA (r : RegSet) (i j v : Nat) :
    (r.setA i v).getA j = if j = i ∧ i ≠ 0 then v % 2 ^ 56 else r.getA j := by
  unfold RegSet.setA RegSet.getA
  by_cases hi : i = 0 <;> by_cases hj : j = 0 <;> by_cases h : j = i <;> simp_all [mget_mset]

theorem RegSet.getK_setK (r : RegSet) (i j v : Nat) : (r.setK i v).getK j = if j = i then v % 2 ^ 32 else r.getK j := by
  unfold RegSet.setK RegSet.getK
  by_cases h : j = i <;> simp_all [mget_mset]

theorem RegSet.getP_setP (r : RegSet) (i j : Nat) (v : Bool) : (r.setP i v).getP j = if j = i ∧ i ≠ 0 then v else r.getP j := by
  unfold RegSet.setP RegSet.getP
  by_cases hi : i = 0 <;> by_cases hj : j = 0 <;> by_cases h : j = i <;> simp_all [mget_mset]

@[simp] theorem RegSet.getK_setA (r : RegSet) (i j v : Nat) : (r.setA i v).getK j = r.getK j := by unfold RegSet.setA; split <;> rfl
@[simp] theorem RegSet.getP_setA (r : RegSet) (i j v : Nat) : (r.setA i v).getP j = r.getP j := by unfold RegSet.setA; split <;> rfl
@[simp] theorem RegSet.getA_setK (r : RegSet) (i j v : Nat) : (r.setK i v).getA j = r.getA j := rfl
@[simp] theorem RegSet.getP_setK (r : RegSet) (i j v : Nat) : (r.setK i v).getP j = r.getP j := rfl
@[simp] theorem RegSet.getA_setP (r : RegSet) (i j : Nat) (v : Bool) : (r.setP i v).getA j = r.getA j := by unfold RegSet.setP; split <;> rfl
@[simp] theorem RegSet.getK_setP (r : RegSet) (i j : Nat) (v : Bool) : (r.setP i v).getK j = r.getK j := by unfold RegSet.setP; split <;> rfl
theorem RegSet.busy_setBusy (r : RegSet) (i j : Nat) (v : Bool) : (r.setBusy i v).busy j = if j = i then v else r.busy j := mget_mset _ _ _ _

end Sys2Proof.Machine
end

