-- ==== Sys2Proof/Laws/Op.lean ====
section
/-! SUPPORT. What the pipeline of a tile operation does (R75): once every check passes, the operation's effect, then the position;
and what the steps around the effect leave alone. -/

namespace Sys2Proof.Machine

theorem bodies_getA (r : RegSet) : ∀ (ls : List LoopEnt) (p i : Nat), (endBodies r ls p).getA i = r.getA i := by
  intro ls
  induction ls generalizing r with
  | nil => intro p i; rfl
  | cons l ls ih =>
    intro p i
    unfold endBodies
    dsimp only
    split
    · split
      · rw [ih]; simp
      · rfl
    · rfl

theorem bodies_getP (r : RegSet) : ∀ (ls : List LoopEnt) (p i : Nat), (endBodies r ls p).getP i = r.getP i := by
  intro ls
  induction ls generalizing r with
  | nil => intro p i; rfl
  | cons l ls ih =>
    intro p i
    unfold endBodies
    dsimp only
    split
    · split
      · rw [ih]; simp
      · rfl
    · rfl

theorem bodies_flags (r : RegSet) : ∀ (ls : List LoopEnt) (p : Nat), (endBodies r ls p).flags = r.flags := by
  intro ls
  induction ls generalizing r with
  | nil => intro p; rfl
  | cons l ls ih =>
    intro p
    unfold endBodies
    dsimp only
    split
    · split
      · rw [ih]; rfl
      · rfl
    · rfl

theorem bodies_busy (r : RegSet) : ∀ (ls : List LoopEnt) (p i : Nat), (endBodies r ls p).busy i = r.busy i := by
  intro ls
  induction ls generalizing r with
  | nil => intro p i; rfl
  | cons l ls ih =>
    intro p i
    unfold endBodies
    dsimp only
    split
    · split
      · rw [ih]; rfl
      · rfl
    · rfl

/-- Only counters of active loops count when a body ends (R78). -/
theorem bodies_getK (r : RegSet) : ∀ (ls : List LoopEnt) (p i : Nat), (∀ l ∈ ls, l.ctr ≠ i) → (endBodies r ls p).getK i = r.getK i := by
  intro ls
  induction ls generalizing r with
  | nil => intro p i _; rfl
  | cons l ls ih =>
    intro p i h
    have hl : i ≠ l.ctr := fun e => h l List.mem_cons_self e.symm
    unfold endBodies
    dsimp only
    split
    · split
      · rw [ih _ _ _ fun x hx => h x (List.mem_cons_of_mem _ hx), RegSet.getK_setK, if_neg hl]
      · show (RegSet.setK r l.ctr (r.getK l.ctr - 1)).getK i = r.getK i
        rw [RegSet.getK_setK, if_neg hl]
    · rfl

/-- The position moves: registers stand, but for counters of active loops. -/
theorem goTo_frame (r : RegSet) (n : Nat) : RegFrame r (r.goTo n) [] [] [] :=
  ⟨fun i _ => bodies_getA r _ _ i, fun i _ h => bodies_getK r _ _ i h, fun i _ => bodies_getP r _ _ i, bodies_flags r _ _,
    fun i => bodies_busy r _ _ i⟩

theorem RegFrame.refl (r : RegSet) : RegFrame r r [] [] [] := ⟨fun _ _ => rfl, fun _ _ _ => rfl, fun _ _ => rfl, rfl, fun _ => rfl⟩

/-- Every check passes: the operation has its effect. -/
theorem runOp_goes {i : Instr} {tile th : Nat} {w : BitVec 128} {sp : OpSpec} {s : State} (h : s.goes i tile th w sp = true) :
    runOp i tile th w sp s =
      match runEffect sp (s.opOf tile th w) ((s.issueState tile th).fetchLineOf (s.opOf tile th w)).1 (s.issueState tile th) with
      | .done t => .next t
      | .refuse c => .next ((s.issueState tile th).opFault (s.opOf tile th w) c)
      | .wait => s.waitOrReplay tile th
      | .detect d => .next ((s.issueState tile th).detect tile d) := by
  simp only [State.goes, OpSpec.passes, State.fetchOk, Bool.and_eq_true, Option.isNone_iff_eq_none, Bool.not_eq_true'] at h
  obtain ⟨⟨⟨hwf, his⟩, hr⟩, ⟨⟨⟨⟨⟨⟨⟨hf, he⟩, hx⟩, ha⟩, ho⟩, hh⟩, hp⟩, hb⟩, hq⟩ := h
  have hck : runChecked sp (s.opOf tile th w) ((s.issueState tile th).fetchLineOf (s.opOf tile th w)).1 (s.issueState tile th) =
      runEffect sp (s.opOf tile th w) ((s.issueState tile th).fetchLineOf (s.opOf tile th w)).1 (s.issueState tile th) := by
    unfold runChecked
    dsimp only
    rw [he, ha, ho, hh, hp, hb, hq]
    simp only [hx, ite_self, Bool.not_true, Bool.and_false, Bool.false_eq_true, if_false]
  have hft : runFetched sp (s.opOf tile th w) (s.issueState tile th) =
      runEffect sp (s.opOf tile th w) ((s.issueState tile th).fetchLineOf (s.opOf tile th w)).1 (s.issueState tile th) := by
    unfold runFetched
    split
    · rename_i l e
      rw [e] at hck ⊢
      exact hck
    · rename_i l e
      rw [e] at hf
      simp only [Bool.and_eq_true, Option.isNone_iff_eq_none, Bool.not_eq_true'] at hf
      rw [hf.1.1]
      simp only [hf.1.2, hf.2, Bool.false_eq_true, if_false]
      rw [e] at hck ⊢
      exact hck
  unfold runOp guardWf
  rw [if_pos hwf, if_pos his]
  dsimp only
  rw [show (s.issueState tile th).opAt tile th w.toNat = s.opOf tile th w from rfl]
  rw [show (s.opOf tile th w).w = w.toNat from rfl, if_pos hr, hft]
  rfl

/-! ### What the steps around an effect leave alone -/

theorem OpFrame.refl (s : State) (o : Op) : OpFrame s s o := ⟨rfl, fun _ _ => rfl, fun _ _ => rfl, rfl, rfl⟩

theorem OpFrame.trans {s t u : State} {o : Op} (h : OpFrame s t o) (k : OpFrame t u o) : OpFrame s u o :=
  ⟨k.state.trans (by rw [h.state]), fun j hj => (k.tiles j hj).trans (h.tiles j hj), fun n hn => (k.threads n hn).trans (h.threads n hn),
    k.other.trans h.other, k.st.trans h.st⟩

theorem RegsOnly.refl (s : State) (o : Op) : RegsOnly s s o := ⟨.refl s o, rfl⟩

theorem RegsOnly.trans {s t u : State} {o : Op} (h : RegsOnly s t o) (k : RegsOnly t u o) : RegsOnly s u o :=
  ⟨h.1.trans k.1, k.2.trans (by rw [h.2])⟩

/-- A change of the tile alone that keeps the other threads, the other set, and all but threads and digests. -/
theorem RegsOnly.modTile {s : State} {o : Op} {f : Tile → Tile}
    (h1 : ∀ t n, n ≠ o.thread → (f t).thread n = t.thread n)
    (h2 : ∀ t, ((f t).thread o.thread).regs (!o.fill) = (t.thread o.thread).regs (!o.fill))
    (h3 : ∀ t, ((f t).thread o.thread).st = (t.thread o.thread).st)
    (h4 : ∀ t, f t = { t with threads := (f t).threads, digest := (f t).digest }) : RegsOnly s (s.modTile o.tile f) o :=
  ⟨⟨rfl, fun j hj => by rw [State.tile_modTile, if_neg hj], fun n hn => by simp [State.thread, h1 _ n hn],
    by simp [State.thread, h2], by simp [State.thread, h3]⟩, by rw [State.tile_modTile_self]; exact h4 _⟩

theorem RegsOnly.modRegs (s : State) (o : Op) (f : RegSet → RegSet) : RegsOnly s (s.modRegs o f) o := by
  unfold State.modRegs State.modThread
  refine RegsOnly.modTile (fun t n hn => ?_) (fun t => ?_) (fun t => ?_) fun t => rfl
  · rw [Tile.thread_modThread, if_neg hn]
  · rw [Tile.thread_modThread_self]
    cases o.fill <;> rfl
  · rw [Tile.thread_modThread_self]
    cases o.fill <;> rfl

theorem digestBytes_thread (t : Tile) (th v n k : Nat) : (t.digestBytes th v n).thread k = t.thread k := by
  unfold Tile.digestBytes; split <;> rfl

theorem RegsOnly.digest (s : State) (o : Op) (v n : Nat) : RegsOnly s (s.modTile o.tile fun t => t.digestBytes o.thread v n) o := by
  refine RegsOnly.modTile (fun t n _ => ?_) (fun t => ?_) (fun t => ?_) fun t => ?_
  · exact digestBytes_thread _ _ _ _ _
  · rw [digestBytes_thread]
  · rw [digestBytes_thread]
  · unfold Tile.digestBytes; split <;> rfl

theorem RegsOnly.begun (s : State) (o : Op) (l : Nat) (x : Bool) : RegsOnly s (s.begun o l x) o :=
  (RegsOnly.modRegs s o _).trans (RegsOnly.digest _ o _ _)

theorem regs_digest (s : State) (o : Op) (v n : Nat) : (s.modTile o.tile fun t => t.digestBytes o.thread v n).regs o = s.regs o := by
  simp [State.regs, State.thread, digestBytes_thread]

@[simp] theorem regs_begun (s : State) (o : Op) (l : Nat) (x : Bool) : (s.begun o l x).regs o = { s.regs o with fetched := l + 1 } := by
  unfold State.begun
  rw [regs_digest, State.regs_modRegs]

theorem begun_frame (s : State) (o : Op) (l : Nat) (x : Bool) : RegFrame (s.regs o) ((s.begun o l x).regs o) [] [] [] := by
  rw [regs_begun]
  exact ⟨fun _ _ => rfl, fun _ _ _ => rfl, fun _ _ => rfl, rfl, fun _ => rfl⟩

theorem regs_endFill (s : State) (o : Op) : ((s.modTile o.tile fun t => t.endFill o.thread).thread o.tile o.thread).fill =
    (s.thread o.tile o.thread).fill := by
  simp only [State.thread, State.tile_modTile_self]
  unfold Tile.endFill
  split
  · rfl
  · split
    · rw [Tile.thread_modThread_self]
    · rfl

theorem RegsOnly.endFill (s : State) (o : Op) : RegsOnly s (s.modTile o.tile fun t => t.endFill o.thread) o := by
  refine RegsOnly.modTile (fun t n hn => ?_) (fun t => ?_) (fun t => ?_) fun t => ?_ <;> unfold Tile.endFill <;> split
  · rfl
  · split
    · rw [Tile.thread_modThread, if_neg hn]
    · rfl
  · rfl
  · split
    · rw [Tile.thread_modThread_self]
      cases o.fill <;> rfl
    · rfl
  · rfl
  · split
    · rw [Tile.thread_modThread_self]
    · rfl
  · rfl
  · split <;> rfl

theorem current_endFill (s : State) (o : Op) : ((s.modTile o.tile fun t => t.endFill o.thread).tile o.tile).rerun = (s.tile o.tile).rerun := by
  rw [State.tile_modTile_self]
  unfold Tile.endFill
  split
  · rfl
  · split <;> rfl

theorem current_modRegs (s : State) (o : Op) (f : RegSet → RegSet) : ((s.modRegs o f).tile o.tile).rerun = (s.tile o.tile).rerun := by
  simp only [State.modRegs, State.modThread, State.tile_modTile_self]
  rfl

/-- The position moves behind the operation. -/
theorem advance_spec {s : State} {o : Op} {n : Nat} (hc : o.fill = true → (s.tile o.tile).rerun.current = none) :
    RegsOnly s (s.advance o n) o ∧ (s.advance o n).regs o = (s.regs o).goTo (o.idx + n) := by
  unfold State.advance
  dsimp only
  split
  · rename_i hf
    have hcur : (((s.modRegs o fun r => r.goTo (o.idx + n)).modTile o.tile fun t => t.endFill o.thread).tile o.tile).rerun.current = none := by
      rw [current_endFill, current_modRegs, hc hf]
    unfold State.fillRerunOk
    rw [hcur]
    refine ⟨(RegsOnly.modRegs s o _).trans (RegsOnly.endFill _ o), ?_⟩
    have := regs_endFill (s.modRegs o fun r => r.goTo (o.idx + n)) o
    have h2 := State.regs_modRegs s o fun r => r.goTo (o.idx + n)
    simp only [State.regs, Thread.regs, hf, if_true] at this h2 ⊢
    rw [this, h2]
  · exact ⟨RegsOnly.modRegs s o _, State.regs_modRegs s o _⟩

theorem regs_state {s t : State} {o : Op} (h : RegsOnly s t o) : (t.tile o.tile).rerun = (s.tile o.tile).rerun := by
  rw [h.2]

theorem postInc_spec (o : Op) : ∀ (xs : List OpAcc) (s : State), RegsOnly s (s.postInc o xs) o := by
  intro xs
  induction xs with
  | nil => intro s; exact .refl s o
  | cons x xs ih =>
    intro s
    unfold State.postInc
    rw [List.foldl_cons]
    refine RegsOnly.trans ?_ (ih _)
    dsimp only
    split
    · exact RegsOnly.modRegs s o _
    · exact .refl s o

theorem issueState_compute {s : State} {tile th : Nat} (h : (s.tile tile).phase = .compute) : s.issueState tile th = s := by
  unfold State.issueState
  rw [if_pos h]

@[simp] theorem opOf_tile (s : State) (tile th : Nat) (w : BitVec 128) : (s.opOf tile th w).tile = tile := rfl
@[simp] theorem opOf_thread (s : State) (tile th : Nat) (w : BitVec 128) : (s.opOf tile th w).thread = th := rfl
@[simp] theorem opOf_w (s : State) (tile th : Nat) (w : BitVec 128) : (s.opOf tile th w).w = w.toNat := rfl

theorem fillView_phase (t : Tile) : t.fillView.phase = t.phase := by unfold Tile.fillView; split <;> rfl
theorem fillView_rerun (t : Tile) : t.fillView.rerun = t.rerun := by unfold Tile.fillView; split <;> rfl
theorem startFill_phase (t : Tile) (th : Nat) : (t.startFill th).phase = t.phase := by
  unfold Tile.startFill; split
  · rfl
  · split <;> rfl
theorem startFill_rerun (t : Tile) (th : Nat) : (t.startFill th).rerun = t.rerun := by
  unfold Tile.startFill; split
  · rfl
  · split <;> rfl

theorem issueState_phase (s : State) (tile th : Nat) : ((s.issueState tile th).tile tile).phase = (s.tile tile).phase := by
  unfold State.issueState; split
  · rfl
  · rw [State.tile_modTile_self, startFill_phase, fillView_phase]

theorem issueState_rerun (s : State) (tile th : Nat) : ((s.issueState tile th).tile tile).rerun = (s.tile tile).rerun := by
  unfold State.issueState; split
  · rfl
  · rw [State.tile_modTile_self, startFill_rerun, fillView_rerun]

/-- A calm operation of a fill segment is not running again. -/
theorem calm_fill {s : State} {tile th : Nat} {w : BitVec 128} (h : s.calm tile = true) :
    (s.opOf tile th w).fill = true → ((s.issueState tile th).tile tile).rerun.current = none := by
  intro hf
  have hp : (s.tile tile).asFill = true := by
    have : ((s.issueState tile th).tile tile).asFill = true := hf
    rwa [Tile.asFill, issueState_phase, issueState_rerun] at this
  rw [issueState_rerun]
  simpa [State.calm, hp] using h

/-- The frame of an effect on registers, between POSTINC and the position. -/
theorem RegFrame.trans_goTo {r r1 : RegSet} {a k p : List Nat} {n : Nat} (h : RegFrame r r1 a k p) (hl : r1.loops = r.loops) :
    RegFrame r (r1.goTo n) a k p :=
  ⟨fun i hi => ((goTo_frame r1 n).a i (by simp)).trans (h.a i hi),
    fun i hi hn => ((goTo_frame r1 n).k i (by simp) (by rwa [hl])).trans (h.k i hi hn),
    fun i hi => ((goTo_frame r1 n).p i (by simp)).trans (h.p i hi), (goTo_frame r1 n).flags.trans h.flags,
    fun i => ((goTo_frame r1 n).busy i).trans (h.busy i)⟩

/-- An operation whose effect is a change `f` of its thread's registers, and that has no operand in memory. -/
theorem regOp_spec {i : Instr} {tile th : Nat} {w : BitVec 128} {sp : OpSpec} {s : State} {f : RegSet → RegSet}
    (h : s.goes i tile th w sp = true) (hc : s.calm tile = true)
    (ha : ∀ u o, sp.accs u o = []) (hj : sp.jumps = false)
    (he : ∀ u, u.regs (s.opOf tile th w) = { (s.issueState tile th).regs (s.opOf tile th w) with
        fetched := ((s.issueState tile th).fetchLineOf (s.opOf tile th w)).1 + 1 } →
      sp.effect u (s.opOf tile th w) = .done (u.modRegs (s.opOf tile th w) f)) :
    ∃ t, runOp i tile th w sp s = .next t ∧ RegsOnly (s.issueState tile th) t (s.opOf tile th w) ∧
      t.regs (s.opOf tile th w) = (f { (s.issueState tile th).regs (s.opOf tile th w) with
        fetched := ((s.issueState tile th).fetchLineOf (s.opOf tile th w)).1 + 1 }).goTo ((s.opOf tile th w).idx + 1) := by
  have hb := RegsOnly.begun (s.issueState tile th) (s.opOf tile th w) ((s.issueState tile th).fetchLineOf (s.opOf tile th w)).1 true
  have hm := RegsOnly.modRegs ((s.issueState tile th).begun (s.opOf tile th w) ((s.issueState tile th).fetchLineOf (s.opOf tile th w)).1 true)
    (s.opOf tile th w) f
  have hcur := calm_fill (th := th) (w := w) hc
  have hadv := advance_spec (n := 1) (s := (((s.issueState tile th).begun (s.opOf tile th w)
    ((s.issueState tile th).fetchLineOf (s.opOf tile th w)).1 true).modRegs (s.opOf tile th w) f)) (o := s.opOf tile th w)
    (by rw [regs_state (hb.trans hm)]; exact hcur)
  refine ⟨_, ?_, (hb.trans hm).trans hadv.1, ?_⟩
  · rw [runOp_goes h]
    unfold runEffect
    rw [ha]
    simp only [State.postInc, List.foldl_nil]
    rw [he _ (regs_begun _ _ _ _), hj]
    rfl
  · rw [hadv.2, State.regs_modRegs, regs_begun]

/-! ### Operations with operands in memory -/

/-- The state in which the effect of a checked operation runs: its line fetched, its digest taken, POSTINC done (R71). -/
def OpSpec.before (sp : OpSpec) (s : State) (tile th : Nat) (w : BitVec 128) : State :=
  ((s.issueState tile th).begun (s.opOf tile th w) ((s.issueState tile th).fetchLineOf (s.opOf tile th w)).1 true).postInc
    (s.opOf tile th w) (sp.accs (s.issueState tile th) (s.opOf tile th w))

theorem RegFrame.trans {r1 r2 r3 : RegSet} {a k p a' k' p' : List Nat} (h : RegFrame r1 r2 a k p) (g : RegFrame r2 r3 a' k' p')
    (hl : r2.loops = r1.loops) : RegFrame r1 r3 (a ++ a') (k ++ k') (p ++ p') :=
  ⟨fun i hi => (g.a i fun m => hi (List.mem_append_right _ m)).trans (h.a i fun m => hi (List.mem_append_left _ m)),
    fun i hi hn => (g.k i (fun m => hi (List.mem_append_right _ m)) (by rwa [hl])).trans
      (h.k i (fun m => hi (List.mem_append_left _ m)) hn),
    fun i hi => (g.p i fun m => hi (List.mem_append_right _ m)).trans (h.p i fun m => hi (List.mem_append_left _ m)),
    g.flags.trans h.flags, fun i => (g.busy i).trans (h.busy i)⟩

@[simp] theorem setA_loops (r : RegSet) (i v : Nat) : (r.setA i v).loops = r.loops := by unfold RegSet.setA; split <;> rfl
@[simp] theorem setA_flags (r : RegSet) (i v : Nat) : (r.setA i v).flags = r.flags := by unfold RegSet.setA; split <;> rfl
@[simp] theorem setA_tk (r : RegSet) (i v : Nat) : (r.setA i v).tk = r.tk := by unfold RegSet.setA; split <;> rfl
@[simp] theorem setA_pos (r : RegSet) (i v : Nat) : (r.setA i v).pos = r.pos := by unfold RegSet.setA; split <;> rfl
@[simp] theorem setA_fetched (r : RegSet) (i v : Nat) : (r.setA i v).fetched = r.fetched := by unfold RegSet.setA; split <;> rfl
@[simp] theorem busy_setA (r : RegSet) (i v j : Nat) : (r.setA i v).busy j = r.busy j := by unfold RegSet.busy; rw [setA_tk]
@[simp] theorem setP_loops (r : RegSet) (i : Nat) (v : Bool) : (r.setP i v).loops = r.loops := by unfold RegSet.setP; split <;> rfl
@[simp] theorem setP_flags (r : RegSet) (i : Nat) (v : Bool) : (r.setP i v).flags = r.flags := by unfold RegSet.setP; split <;> rfl
@[simp] theorem setP_tk (r : RegSet) (i : Nat) (v : Bool) : (r.setP i v).tk = r.tk := by unfold RegSet.setP; split <;> rfl
@[simp] theorem busy_setP (r : RegSet) (i : Nat) (v : Bool) (j : Nat) : (r.setP i v).busy j = r.busy j := by
  unfold RegSet.busy; rw [setP_tk]

theorem setA_frame (r : RegSet) (i v : Nat) : RegFrame r (r.setA i v) [i] [] [] :=
  ⟨fun j hj => by rw [RegSet.getA_setA, if_neg (by simp at hj; omega)], fun j _ _ => by simp, fun j _ => by simp, by simp, by simp⟩

theorem setK_frame (r : RegSet) (i v : Nat) : RegFrame r (r.setK i v) [] [i] [] :=
  ⟨fun j _ => rfl, fun j hj _ => by rw [RegSet.getK_setK, if_neg (by simpa using hj)], fun j _ => rfl, rfl, fun _ => rfl⟩

theorem setP_frame (r : RegSet) (i : Nat) (v : Bool) : RegFrame r (r.setP i v) [] [] [i] :=
  ⟨fun j _ => by simp, fun j _ _ => by simp, fun j hj => by rw [RegSet.getP_setP, if_neg (by simp at hj; omega)], by simp, by simp⟩

/-- POSTINC moves the address registers of its fields alone (R71). -/
theorem postInc_frame (o : Op) : ∀ (xs : List OpAcc) (s : State),
    RegFrame (s.regs o) ((s.postInc o xs).regs o) (o.posted xs) [] [] ∧ ((s.postInc o xs).regs o).loops = (s.regs o).loops := by
  intro xs
  induction xs with
  | nil => intro s; exact ⟨.refl _, rfl⟩
  | cons x xs ih =>
    intro s
    unfold State.postInc Op.posted
    rw [List.foldl_cons, List.filter_cons]
    dsimp only
    by_cases hp : fPost (opField o.w x.fld) = true
    · rw [if_pos hp, if_pos hp, List.map_cons]
      obtain ⟨h1, h2⟩ := ih (s.modRegs o fun r => r.setA (fReg (opField o.w x.fld)) (r.getA (fReg (opField o.w x.fld)) + x.foot))
      rw [State.regs_modRegs] at h1 h2
      have g := setA_frame (s.regs o) (fReg (opField o.w x.fld)) ((s.regs o).getA (fReg (opField o.w x.fld)) + x.foot)
      exact ⟨g.trans h1 (by simp), h2.trans (by simp)⟩
    · rw [if_neg hp, if_neg hp]
      exact ih s

theorem before_only (sp : OpSpec) (s : State) (tile th : Nat) (w : BitVec 128) :
    RegsOnly (s.issueState tile th) (sp.before s tile th w) (s.opOf tile th w) :=
  (RegsOnly.begun _ _ _ _).trans (postInc_spec _ _ _)

theorem before_frame (sp : OpSpec) (s : State) (tile th : Nat) (w : BitVec 128) :
    RegFrame ((s.issueState tile th).regs (s.opOf tile th w)) ((sp.before s tile th w).regs (s.opOf tile th w))
      ((s.opOf tile th w).posted (sp.accs (s.issueState tile th) (s.opOf tile th w))) [] [] ∧
    ((sp.before s tile th w).regs (s.opOf tile th w)).loops = ((s.issueState tile th).regs (s.opOf tile th w)).loops := by
  have h1 := begun_frame (s.issueState tile th) (s.opOf tile th w) ((s.issueState tile th).fetchLineOf (s.opOf tile th w)).1 true
  have h2 := postInc_frame (s.opOf tile th w) (sp.accs (s.issueState tile th) (s.opOf tile th w))
    ((s.issueState tile th).begun (s.opOf tile th w) ((s.issueState tile th).fetchLineOf (s.opOf tile th w)).1 true)
  have hl : ((((s.issueState tile th).begun (s.opOf tile th w) ((s.issueState tile th).fetchLineOf (s.opOf tile th w)).1 true)).regs
    (s.opOf tile th w)).loops = ((s.issueState tile th).regs (s.opOf tile th w)).loops := by rw [regs_begun]
  exact ⟨h1.trans h2.1 hl, h2.2.trans hl⟩

/-- An operation whose effect is done: the next state is that of its effect, with the position behind it. -/
theorem op_done {i : Instr} {tile th : Nat} {w : BitVec 128} {sp : OpSpec} {s v : State}
    (h : s.goes i tile th w sp = true) (hc : s.calm tile = true) (hj : sp.jumps = false)
    (he : sp.effect (sp.before s tile th w) (s.opOf tile th w) = .done v)
    (hv : (v.tile tile).rerun = ((s.issueState tile th).tile tile).rerun) :
    runOp i tile th w sp s = .next (v.advance (s.opOf tile th w) 1) ∧
      RegsOnly v (v.advance (s.opOf tile th w) 1) (s.opOf tile th w) ∧
      (v.advance (s.opOf tile th w) 1).regs (s.opOf tile th w) =
        (v.regs (s.opOf tile th w)).goTo ((s.opOf tile th w).idx + 1) := by
  refine ⟨?_, advance_spec (n := 1) (s := v) (o := s.opOf tile th w) (by
    intro hf
    rw [show (s.opOf tile th w).tile = tile from rfl, hv]
    exact calm_fill hc hf)⟩
  rw [runOp_goes h]
  unfold runEffect
  unfold OpSpec.before at he
  rw [he, hj]
  rfl

/-- An operation whose effect sets the position itself. -/
theorem op_done_jumps {i : Instr} {tile th : Nat} {w : BitVec 128} {sp : OpSpec} {s v : State}
    (h : s.goes i tile th w sp = true) (hj : sp.jumps = true)
    (he : sp.effect (sp.before s tile th w) (s.opOf tile th w) = .done v) : runOp i tile th w sp s = .next v := by
  rw [runOp_goes h]
  unfold runEffect
  unfold OpSpec.before at he
  rw [he, hj]
  rfl

theorem issueState_mem (s : State) (tile th j : Nat) : ((s.issueState tile th).tile j).mem = (s.tile j).mem := by
  unfold State.issueState
  split
  · rfl
  · rw [State.tile_modTile]
    split
    · rename_i e
      subst e
      unfold Tile.startFill Tile.fillView
      split <;> split <;> (try split) <;> rfl
    · rfl

theorem getA_goTo (r : RegSet) (n i : Nat) : (r.goTo n).getA i = r.getA i := (goTo_frame r n).a i (by simp)
theorem getP_goTo (r : RegSet) (n i : Nat) : (r.goTo n).getP i = r.getP i := (goTo_frame r n).p i (by simp)

theorem goes_own {s : State} {i : Instr} {tile th : Nat} {w : BitVec 128} {sp : OpSpec} (h : s.goes i tile th w sp = true) :
    sp.own (s.issueState tile th) (s.opOf tile th w) = none := by
  simp only [State.goes, OpSpec.passes, Bool.and_eq_true, Option.isNone_iff_eq_none] at h
  exact h.2.1.1.1.1.2

theorem goes_enc {s : State} {i : Instr} {tile th : Nat} {w : BitVec 128} {sp : OpSpec} (h : s.goes i tile th w sp = true) :
    encReason (sp.enc (s.issueState tile th) (s.opOf tile th w)) w.toNat = none := by
  simp only [State.goes, OpSpec.passes, Bool.and_eq_true, Option.isNone_iff_eq_none] at h
  exact h.2.1.1.1.1.1.1.1.2

/-- An operation to which LEN 0 is forbidden has another LEN (R72). -/
theorem encReason_len {e : Enc} {w : Nat} (h : encReason e w = none) (hn : e.needLen = true) : wLen w ≠ 0 := by
  unfold encReason at h
  intro h0
  simp only [hn, h0, decide_true, Bool.and_self, if_true] at h
  split at h
  · rename_i hs
    rw [h] at hs
    cases hs
  · repeat (split at h; · cases h)
    cases h

theorem StoresOnly.refl (s : State) (o : Op) (a n : Nat) : StoresOnly s s o a n :=
  ⟨.refl s o, rfl, fun _ _ => rfl, fun _ _ => rfl, fun _ _ => rfl⟩

theorem StoresOnly.trans {s t u : State} {o : Op} {a n : Nat} (h : StoresOnly s t o a n) (k : StoresOnly t u o a n) : StoresOnly s u o a n :=
  ⟨h.1.trans k.1, k.2.1.trans (by rw [h.2.1]), fun x hx => (k.2.2.1 x hx).trans (h.2.2.1 x hx),
    fun l hl => (k.2.2.2.1 l hl).trans (h.2.2.2.1 l hl), fun j hj => (k.2.2.2.2 j hj).trans (h.2.2.2.2 j hj)⟩

theorem RegsOnly.stores {s t : State} {o : Op} (h : RegsOnly s t o) (a n : Nat) : StoresOnly s t o a n :=
  ⟨h.1, by rw [h.2], fun x _ => by rw [h.2], fun l _ => by rw [Tile.poisoned, h.2]; rfl, fun j _ => by rw [h.2]⟩

theorem digestBytes_eq (t : Tile) (th v n : Nat) : t.digestBytes th v n = { t with digest := (t.digestBytes th v n).digest } := by
  unfold Tile.digestBytes; split <;> rfl

theorem StoresOnly.mono {s t : State} {o : Op} {a n b m : Nat} (h : StoresOnly s t o a n) (h1 : b ≤ a) (h2 : a + n ≤ b + m) :
    StoresOnly s t o b m :=
  ⟨h.1, h.2.1, fun x hx => h.2.2.1 x (by omega), fun l hl => h.2.2.2.1 l (by omega), fun j hj => h.2.2.2.2 j (by omega)⟩

theorem opNarrow_tile (s : State) (o : Op) (a n v : Nat) : ∃ dg, (s.opNarrow o a n v).tile o.tile =
    { (s.tile o.tile).putNarrow a n v with digest := dg } := by
  unfold State.opNarrow
  rw [State.tile_modTile_self]
  exact ⟨_, digestBytes_eq _ _ _ _⟩

theorem modTile_frame (s : State) (o : Op) (f : Tile → Tile) (h : ∀ t, (f t).threads = t.threads) : OpFrame s (s.modTile o.tile f) o := by
  refine ⟨rfl, fun j hj => by rw [State.tile_modTile, if_neg hj], fun n _ => ?_, ?_, ?_⟩ <;>
    simp only [State.thread, State.tile_modTile_self, Tile.thread, h]

theorem opNarrow_only (s : State) (o : Op) (a n v : Nat) : StoresOnly s (s.opNarrow o a n v) o a n := by
  obtain ⟨dg, e⟩ := opNarrow_tile s o a n v
  refine ⟨modTile_frame s o _ fun t => ?_, ?_, fun x hx => ?_, fun l hl => ?_, fun j hj => ?_⟩
  · rw [digestBytes_eq]; rfl
  · rw [e]; rfl
  · rw [e]; exact memByte_write_of_outside hx
  · rw [e]; rfl
  · rw [e]
    dsimp only [Tile.putNarrow]
    rw [mget_mdrop, if_neg]
    simp only [Bool.and_eq_true, decide_eq_true_eq]
    omega

theorem opNarrow_regs (s : State) (o : Op) (a n v : Nat) : (s.opNarrow o a n v).regs o = s.regs o := by
  obtain ⟨dg, e⟩ := opNarrow_tile s o a n v
  simp only [State.regs, State.thread, e]; rfl

theorem opNarrow_mem (s : State) (o : Op) (a n v : Nat) : ((s.opNarrow o a n v).tile o.tile).mem = memWrite (s.tile o.tile).mem a n v := by
  obtain ⟨dg, e⟩ := opNarrow_tile s o a n v
  rw [e]; rfl

theorem before_mem (sp : OpSpec) (s : State) (tile th : Nat) (w : BitVec 128) :
    ((sp.before s tile th w).tile tile).mem = (s.tile tile).mem := by
  have := (before_only sp s tile th w).2
  rw [opOf_tile] at this
  rw [this]
  exact issueState_mem s tile th tile

/-- POSTINC of one field (R71). -/
theorem before_one {sp : OpSpec} {s : State} {tile th : Nat} {w : BitVec 128} {x : OpAcc}
    (hx : sp.accs (s.issueState tile th) (s.opOf tile th w) = [x]) :
    (sp.before s tile th w).regs (s.opOf tile th w) =
      (if fPost (opField w.toNat x.fld) then
        { (s.issueState tile th).regs (s.opOf tile th w) with
          fetched := ((s.issueState tile th).fetchLineOf (s.opOf tile th w)).1 + 1 }.setA (fReg (opField w.toNat x.fld))
            (((s.issueState tile th).regs (s.opOf tile th w)).getA (fReg (opField w.toNat x.fld)) + x.foot)
      else { (s.issueState tile th).regs (s.opOf tile th w) with
          fetched := ((s.issueState tile th).fetchLineOf (s.opOf tile th w)).1 + 1 }) := by
  unfold OpSpec.before State.postInc
  rw [hx]
  rw [List.foldl_cons, List.foldl_nil]
  dsimp only
  by_cases hp : fPost (opField (s.opOf tile th w).w x.fld) = true
  · rw [if_pos hp, if_pos (c := fPost (opField w.toNat x.fld) = true) hp, State.regs_modRegs, regs_begun]
    rfl
  · rw [if_neg hp, if_neg (c := fPost (opField w.toNat x.fld) = true) hp, regs_begun]

/-! ### Whole lines -/

theorem opLine_tile (s : State) (o : Op) (l v : Nat) (p : Bool) : ∃ dg, (s.opLine o l v p).tile o.tile =
    { (s.tile o.tile).putLine l v p with digest := dg } := by
  unfold State.opLine
  rw [State.tile_modTile_self]
  exact ⟨_, digestBytes_eq _ _ _ _⟩

theorem opLine_only (s : State) (o : Op) (l v : Nat) (p : Bool) : StoresOnly s (s.opLine o l v p) o (64 * l) 64 := by
  obtain ⟨dg, e⟩ := opLine_tile s o l v p
  refine ⟨modTile_frame s o _ fun t => ?_, ?_, fun x hx => ?_, fun k hk => ?_, fun j hj => ?_⟩
  · rw [digestBytes_eq]; rfl
  · rw [e]; rfl
  · rw [e]; exact memByte_write_of_outside hx
  · rw [e]
    show mget false (mset false _ l p) k = _
    rw [mget_mset_ne _ _ (by omega)]; rfl
  · rw [e]
    dsimp only [Tile.putLine]
    rw [mget_mdrop, if_neg]
    simp only [decide_eq_true_eq]
    omega

theorem opLine_regs (s : State) (o : Op) (l v : Nat) (p : Bool) : (s.opLine o l v p).regs o = s.regs o := by
  obtain ⟨dg, e⟩ := opLine_tile s o l v p
  simp only [State.regs, State.thread, e]; rfl

theorem opLine_line (s : State) (o : Op) (l v k : Nat) (p : Bool) :
    ((s.opLine o l v p).tile o.tile).line k = if k = l then v % 2 ^ 512 else (s.tile o.tile).line k := by
  obtain ⟨dg, e⟩ := opLine_tile s o l v p
  rw [e]
  unfold Tile.line
  show memRead (memWrite _ _ _ _) _ _ = _
  split
  · rename_i h; rw [h, memRead_write_same, show (256 : Nat) ^ 64 = 2 ^ 512 by rw [show (256 : Nat) = 2 ^ 8 from rfl, ← Nat.pow_mul]]
  · exact memRead_write_of_disjoint (by omega)

theorem opLine_poisoned (s : State) (o : Op) (l v k : Nat) (p : Bool) :
    ((s.opLine o l v p).tile o.tile).poisoned k = if k = l then p else (s.tile o.tile).poisoned k := by
  obtain ⟨dg, e⟩ := opLine_tile s o l v p
  rw [e]
  exact mget_mset _ _ _ _

/-- Lines from `l` on: nothing else is written, and line `l + j` holds value `j` with its mark. -/
theorem opLines_spec (o : Op) : ∀ (xs : List (Nat × Bool)) (s : State) (l : Nat),
    StoresOnly s (s.opLines o l xs) o (64 * l) (64 * xs.length) ∧ (s.opLines o l xs).regs o = s.regs o ∧
    ∀ k, ((s.opLines o l xs).tile o.tile).line k =
        (if h : l ≤ k ∧ k - l < xs.length then xs[k - l].1 % 2 ^ 512 else (s.tile o.tile).line k) ∧
      ((s.opLines o l xs).tile o.tile).poisoned k =
        (if h : l ≤ k ∧ k - l < xs.length then xs[k - l].2 else (s.tile o.tile).poisoned k) := by
  intro xs
  induction xs with
  | nil => intro s l; exact ⟨.refl _ _ _ _, rfl, fun k => by simp [State.opLines]⟩
  | cons x xs ih =>
    intro s l
    obtain ⟨v, p⟩ := x
    obtain ⟨h1, h2, h3⟩ := ih (s.opLine o l v p) (l + 1)
    have g := opLine_only s o l v p
    refine ⟨?_, h2.trans (opLine_regs s o l v p), fun k => ?_⟩
    · rw [List.length_cons]
      exact (g.mono (b := 64 * l) (m := 64 * (xs.length + 1)) (by omega) (by omega)).trans (h1.mono (by omega) (by omega))
    · have := h3 k
      rw [opLine_line, opLine_poisoned] at this
      show ((((s.opLine o l v p).opLines o (l + 1) xs).tile o.tile).line k = _) ∧ ((((s.opLine o l v p).opLines o (l + 1) xs).tile o.tile).poisoned k = _)
      rw [this.1, this.2]
      have hlen : ((v, p) :: xs).length = xs.length + 1 := List.length_cons
      by_cases hk : k = l
      · subst hk
        have n1 : ¬ (k + 1 ≤ k ∧ k - (k + 1) < xs.length) := by omega
        have p1 : k ≤ k ∧ k - k < ((v, p) :: xs).length := by omega
        rw [dif_neg n1, dif_neg n1, if_pos rfl, if_pos rfl, dif_pos p1, dif_pos p1]
        simp
      · by_cases hr : l + 1 ≤ k ∧ k - (l + 1) < xs.length
        · have p1 : l ≤ k ∧ k - l < ((v, p) :: xs).length := by omega
          rw [dif_pos hr, dif_pos hr, dif_pos p1, dif_pos p1]
          have e : k - l = k - (l + 1) + 1 := by omega
          simp [e]
        · have n1 : ¬ (l ≤ k ∧ k - l < ((v, p) :: xs).length) := by omega
          rw [dif_neg hr, dif_neg hr, if_neg hk, if_neg hk, dif_neg n1, dif_neg n1]
          exact ⟨rfl, rfl⟩

/-- A check passed by a run of lines: its alignment (R97). -/
theorem checkLines_align {t : Tile} {n th ea lines align : Nat} {rd wr fetch : Bool}
    (h : t.checkLines n th ea lines align rd wr fetch = none) : ea % align = 0 := by
  unfold Tile.checkLines at h
  dsimp only at h
  split at h
  · cases h
  · split at h
    · cases h
    · rename_i h1; omega

theorem checkAccs_mem {u : State} {o : Op} : ∀ {xs : List OpAcc}, u.checkAccs o xs = none → ∀ x ∈ xs, u.checkAcc o x = none := by
  intro xs
  induction xs with
  | nil => intro _ x hx; cases hx
  | cons y ys ih =>
    intro h x hx
    unfold State.checkAccs at h
    split at h
    · cases h
    · rename_i hy
      cases hx with
      | head => exact hy
      | tail _ hx => exact ih h x hx

theorem goes_accs {s : State} {i : Instr} {tile th : Nat} {w : BitVec 128} {sp : OpSpec} (h : s.goes i tile th w sp = true) :
    (s.issueState tile th).checkAccs (s.opOf tile th w) (sp.accs (s.issueState tile th) (s.opOf tile th w)) = none := by
  simp only [State.goes, OpSpec.passes, Bool.and_eq_true, Option.isNone_iff_eq_none] at h
  exact h.2.1.1.1.1.1.2

theorem goes_ready {s : State} {i : Instr} {tile th : Nat} {w : BitVec 128} {sp : OpSpec} (h : s.goes i tile th w sp = true) :
    ((s.issueState tile th).regs (s.opOf tile th w)).ready w.toNat = true := by
  simp only [State.goes, Bool.and_eq_true] at h
  exact h.1.2

/-- The address of a tile operand of a checked operation is aligned. -/
theorem goes_align {s : State} {i : Instr} {tile th : Nat} {w : BitVec 128} {sp : OpSpec} (h : s.goes i tile th w sp = true)
    {fld foot cons lines align : Nat} {rd wr : Bool}
    (hx : (⟨fld, foot, .tile lines align rd wr, cons⟩ : OpAcc) ∈ sp.accs (s.issueState tile th) (s.opOf tile th w)) :
    (s.opOf tile th w).ea fld % align = 0 := by
  have := checkAccs_mem (goes_accs h) _ hx
  exact checkLines_align this

/-! ### Tickets and effects outside the tile -/

theorem takeTicket_only (s : State) (o : Op) : RegsOnly s (s.takeTicket o) o := by
  unfold State.takeTicket; split
  · exact RegsOnly.modRegs s o _
  · exact .refl s o

theorem takeTicket_regs {s : State} {o : Op} (h : wTkten o.w = true) : (s.takeTicket o).regs o = (s.regs o).setBusy (wTkt o.w) true := by
  unfold State.takeTicket; rw [if_pos h, State.regs_modRegs]

/-- A change of the counts of R103 alone. -/
theorem RegsOnly.counts (s : State) (o : Op) (f : Thread → Thread) (h1 : ∀ x b, (f x).regs b = x.regs b) (h2 : ∀ x, (f x).st = x.st) :
    RegsOnly s (s.modThread o.tile o.thread f) o := by
  unfold State.modThread
  refine RegsOnly.modTile (fun t n hn => ?_) (fun t => ?_) (fun t => ?_) fun t => rfl
  · rw [Tile.thread_modThread, if_neg hn]
  · rw [Tile.thread_modThread_self, h1]
  · rw [Tile.thread_modThread_self, h2]

theorem regs_counts (s : State) (o : Op) (f : Thread → Thread) (h1 : ∀ x b, (f x).regs b = x.regs b) :
    (s.modThread o.tile o.thread f).regs o = s.regs o := by
  simp [State.regs, State.modThread, State.thread, h1]

/-- What counts an operation with an effect outside the tile (R103). -/
theorem outside_spec (s : State) (o : Op) (tg ct n : Nat) (hs : (s.tile o.tile).shadow = none) :
    RegsOnly s (s.outside o tg ct n).2 o ∧ (s.outside o tg ct n).2.regs o = s.regs o ∧
      (s.outside o tg ct n).1 = (!o.fill && decide (0 < (s.thread o.tile o.thread).suppressOut)) ∧
      ((s.outside o tg ct n).1 = true → ((s.outside o tg ct n).2.thread o.tile o.thread).suppressOut =
        (s.thread o.tile o.thread).suppressOut - 1) := by
  have hd : RegsOnly s (s.modTile o.tile fun t => (t.digestBytes o.thread tg 8).digestBytes o.thread ct n) o := by
    refine RegsOnly.modTile (fun t k _ => ?_) (fun t => ?_) (fun t => ?_) fun t => ?_
    · rw [digestBytes_thread, digestBytes_thread]
    · rw [digestBytes_thread, digestBytes_thread]
    · rw [digestBytes_thread, digestBytes_thread]
    · rw [digestBytes_eq, digestBytes_eq]
  have hth : ∀ k, (s.modTile o.tile fun t => (t.digestBytes o.thread tg 8).digestBytes o.thread ct n).thread o.tile k = s.thread o.tile k := by
    intro k
    simp only [State.thread, State.tile_modTile_self, digestBytes_thread]
  have hr : (s.modTile o.tile fun t => (t.digestBytes o.thread tg 8).digestBytes o.thread ct n).regs o = s.regs o := by
    simp only [State.regs, hth]
  unfold State.outside
  dsimp only
  rw [hs]
  simp only [Option.isSome_none, Bool.false_eq_true, if_false]
  cases hf : o.fill
  · simp only [Bool.false_eq_true, if_false]
    by_cases h0 : 0 < (s.thread o.tile o.thread).suppressOut
    · rw [if_pos h0]
      refine ⟨hd.trans (RegsOnly.counts _ o _ (fun x b => by cases b <;> rfl) fun x => rfl),
        (regs_counts _ o _ fun x b => by cases b <;> rfl).trans hr, by simp [h0], fun _ => ?_⟩
      simp [State.modThread, State.thread, digestBytes_thread]
    · rw [if_neg h0]
      exact ⟨hd.trans (RegsOnly.counts _ o _ (fun x b => by cases b <;> rfl) fun x => rfl),
        (regs_counts _ o _ fun x b => by cases b <;> rfl).trans hr, by simp [h0], fun h => by cases h⟩
  · simp only [if_true]
    exact ⟨hd, hr, rfl, fun h => by cases h⟩

/-- Registers after a ticket turned busy: all but the ticket stand. -/
theorem RegFrame.ticket {r r1 : RegSet} {a k p : List Nat} {n i : Nat} (h : RegFrame r r1 a k p) (hl : r1.loops = r.loops)
    (hi : r.busy i = false) : RegFrame r (((r1.setBusy i true).goTo n).setBusy i false) a k p ∧
      ((r1.setBusy i true).goTo n).busy i = true := by
  have g := goTo_frame (r1.setBusy i true) n
  have gg := h.trans_goTo (n := n) hl
  refine ⟨⟨fun j hj => (g.a j (by simp)).trans (h.a j hj), fun j hj hn => (g.k j (by simp) ?_).trans (h.k j hj hn),
    fun j hj => (g.p j (by simp)).trans (h.p j hj), g.flags.trans h.flags, fun j => ?_⟩, ?_⟩
  · show ∀ l ∈ r1.loops, _
    rw [hl]; exact hn
  · rw [RegSet.busy_setBusy]
    split
    · rename_i e; rw [e, hi]
    · rename_i e
      rw [g.busy, RegSet.busy_setBusy, if_neg e, h.busy]
  · rw [g.busy, RegSet.busy_setBusy, if_pos rfl]

/-- A required ticket that is idle (R82, R74). -/
theorem encReason_tkt {e : Enc} {w : Nat} (h : encReason e w = none) (hn : e.tkt = .required) : wTkten w = true := by
  unfold encReason at h
  split at h
  · rename_i hs; rw [h] at hs; cases hs
  · split at h
    · cases h
    · split at h
      · cases h
      · rename_i hx
        rw [hn] at hx
        simpa using hx

theorem ready_tkt {r : RegSet} {w : Nat} (h : r.ready w = true) (ht : wTkten w = true) : r.busy (wTkt w) = false := by
  unfold RegSet.ready at h
  rw [ht, Bool.and_eq_true] at h
  simpa using h.2

/-- A tile operation is one run of the pipeline. -/
theorem opSpec_exec {c : Instr} {tile th : Nat} {w : BitVec 128} {sp : OpSpec} (h : opSpecOf c = some (tile, th, w, sp)) (s : State) :
    exec c s = runOp c tile th w sp s := by
  cases c <;> simp only [opSpecOf, Option.some.injEq, Prod.mk.injEq, reduceCtorEq] at h <;> obtain ⟨rfl, rfl, rfl, rfl⟩ := h <;> rfl

/-- The pipeline of an operation that issues. -/
theorem runOp_ready {c : Instr} {tile th : Nat} {w : BitVec 128} {sp : OpSpec} {s : State} (hw : c.wf = true) (hi : s.issues tile th = true)
    (hr : ((s.issueState tile th).regs (s.opOf tile th w)).ready (s.opOf tile th w).w = true) :
    runOp c tile th w sp s =
      match runFetched sp (s.opOf tile th w) (s.issueState tile th) with
      | .done s1 => .next s1
      | .refuse c => .next ((s.issueState tile th).opFault (s.opOf tile th w) c)
      | .wait => s.waitOrReplay tile th
      | .detect d => .next ((s.issueState tile th).detect tile d) := by
  unfold runOp guardWf
  rw [if_pos hw, if_pos hi]
  dsimp only
  rw [show (s.issueState tile th).opAt tile th w.toNat = s.opOf tile th w from rfl, if_pos hr]
  rfl

theorem runFetched_ok {sp : OpSpec} {o : Op} {u : State} (h : u.fetchOk o = true) :
    runFetched sp o u = runChecked sp o (u.fetchLineOf o).1 u := by
  unfold runFetched
  unfold State.fetchOk at h
  split
  · rename_i e; rw [e]
  · rename_i e
    rw [e] at h ⊢
    simp only [Bool.and_eq_true, Option.isNone_iff_eq_none, Bool.not_eq_true'] at h
    rw [h.1.1]
    simp only [h.1.2, h.2, Bool.false_eq_true, if_false]

/-! ### Effects beside the tiles -/

/-- The position moves on the tiles alone. -/
theorem advance_tiles {x v : State} {o : Op} {n : Nat} (hc : o.fill = true → (x.tile o.tile).rerun.current = none)
    (hv : v.tiles = x.tiles) : v.advance o n = { v with tiles := (x.advance o n).tiles } := by
  have hm : ∀ f, v.modRegs o f = { v with tiles := (x.modRegs o f).tiles } := by
    intro f
    unfold State.modRegs State.modThread State.modTile State.setTile State.tile
    rw [hv]
  have he : ∀ f g, (v.modRegs o f).modTile o.tile g = { v with tiles := ((x.modRegs o f).modTile o.tile g).tiles } := by
    intro f g
    rw [hm]
    rfl
  unfold State.advance
  dsimp only
  split
  · rename_i hf
    have h1 : (((x.modRegs o fun r => r.goTo (o.idx + n)).modTile o.tile fun t => t.endFill o.thread).tile o.tile).rerun.current = none := by
      rw [current_endFill, current_modRegs, hc hf]
    have h2 : (((v.modRegs o fun r => r.goTo (o.idx + n)).modTile o.tile fun t => t.endFill o.thread).tile o.tile).rerun.current = none := by
      rw [he]; exact h1
    unfold State.fillRerunOk
    rw [h1, h2, he]
  · rw [hm]

/-- An operation whose effect leaves the tiles as in `x` and changes other parts of the state. -/
theorem op_done_beside {i : Instr} {tile th : Nat} {w : BitVec 128} {sp : OpSpec} {s v x : State}
    (h : s.goes i tile th w sp = true) (hc : s.calm tile = true) (hj : sp.jumps = false)
    (he : sp.effect (sp.before s tile th w) (s.opOf tile th w) = .done v) (hv : v.tiles = x.tiles)
    (hx : RegsOnly (s.issueState tile th) x (s.opOf tile th w)) :
    ∃ y, runOp i tile th w sp s = .next { v with tiles := y.tiles } ∧ RegsOnly (s.issueState tile th) y (s.opOf tile th w) ∧
      y.regs (s.opOf tile th w) = (x.regs (s.opOf tile th w)).goTo ((s.opOf tile th w).idx + 1) := by
  have hcx : (s.opOf tile th w).fill = true → (x.tile (s.opOf tile th w).tile).rerun.current = none := by
    intro hf
    rw [regs_state hx]
    exact calm_fill hc hf
  have ha := advance_spec (n := 1) hcx
  refine ⟨x.advance (s.opOf tile th w) 1, ?_, hx.trans ha.1, ha.2⟩
  rw [runOp_goes h]
  unfold runEffect
  unfold OpSpec.before at he
  rw [he, hj]
  show Host.Outcome.next (v.advance _ 1) = _
  rw [advance_tiles hcx hv]

theorem issueState_shadow (s : State) (tile th : Nat) : ((s.issueState tile th).tile tile).shadow = (s.tile tile).shadow := by
  unfold State.issueState
  split
  · rfl
  · rw [State.tile_modTile_self]
    unfold Tile.startFill Tile.fillView
    split <;> split <;> (try split) <;> rfl

theorem issueState_poison (s : State) (tile th : Nat) : ((s.issueState tile th).tile tile).poison = (s.tile tile).poison := by
  unfold State.issueState
  split
  · rfl
  · rw [State.tile_modTile_self]
    unfold Tile.startFill Tile.fillView
    split <;> split <;> (try split) <;> rfl

theorem issueState_state (s : State) (tile th : Nat) : s.issueState tile th = { s with tiles := (s.issueState tile th).tiles } := by
  unfold State.issueState
  split <;> rfl

theorem modRegs_thread (s : State) (o : Op) (f : RegSet → RegSet) :
    (s.modRegs o f).thread o.tile o.thread =
      (s.thread o.tile o.thread).setRegs o.fill (f ((s.thread o.tile o.thread).regs o.fill)) := by
  simp only [State.modRegs, State.modThread, State.thread, State.tile_modTile_self, Tile.thread_modThread_self]

theorem suppress_modRegs (s : State) (o : Op) (f : RegSet → RegSet) :
    ((s.modRegs o f).thread o.tile o.thread).suppressOut = (s.thread o.tile o.thread).suppressOut := by
  rw [modRegs_thread]; cases o.fill <;> rfl

theorem suppress_postInc (o : Op) : ∀ (xs : List OpAcc) (s : State),
    ((s.postInc o xs).thread o.tile o.thread).suppressOut = (s.thread o.tile o.thread).suppressOut := by
  intro xs
  induction xs with
  | nil => intro s; rfl
  | cons x xs ih =>
    intro s
    unfold State.postInc
    rw [List.foldl_cons]
    refine (ih _).trans ?_
    dsimp only
    split
    · exact suppress_modRegs s o _
    · rfl

theorem before_suppress (sp : OpSpec) (s : State) (tile th : Nat) (w : BitVec 128) :
    ((sp.before s tile th w).thread tile th).suppressOut = ((s.issueState tile th).thread tile th).suppressOut := by
  unfold OpSpec.before
  refine (suppress_postInc (s.opOf tile th w) _ _).trans ?_
  unfold State.begun
  simp only [State.thread, State.tile_modTile_self, digestBytes_thread, opOf_tile, opOf_thread]
  exact suppress_modRegs (s.issueState tile th) (s.opOf tile th w) _

/-- What counts a checked operation with an effect outside the tile (R103). -/
theorem before_outside (sp : OpSpec) {s : State} {tile th : Nat} (w : BitVec 128) (tg ct n : Nat) (hs : (s.tile tile).shadow = none) :
    RegsOnly (s.issueState tile th) ((sp.before s tile th w).outside (s.opOf tile th w) tg ct n).2 (s.opOf tile th w) ∧
      ((sp.before s tile th w).outside (s.opOf tile th w) tg ct n).2.regs (s.opOf tile th w) =
        (sp.before s tile th w).regs (s.opOf tile th w) ∧
      ((sp.before s tile th w).outside (s.opOf tile th w) tg ct n).1 =
        (!(s.opOf tile th w).fill && decide (0 < ((s.issueState tile th).thread tile th).suppressOut)) ∧
      (((sp.before s tile th w).outside (s.opOf tile th w) tg ct n).1 = true →
        (((sp.before s tile th w).outside (s.opOf tile th w) tg ct n).2.thread tile th).suppressOut =
          ((s.issueState tile th).thread tile th).suppressOut - 1) := by
  have hb := before_only sp s tile th w
  have hsb : ((sp.before s tile th w).tile (s.opOf tile th w).tile).shadow = none := by
    rw [hb.2]; exact (issueState_shadow s tile th).trans hs
  have h := outside_spec (sp.before s tile th w) (s.opOf tile th w) tg ct n hsb
  have hsup := before_suppress sp s tile th w
  refine ⟨hb.trans h.1, h.2.1, ?_, ?_⟩
  · rw [h.2.2.1, opOf_tile, opOf_thread, hsup]
  · intro e
    have := h.2.2.2 e
    rw [opOf_tile, opOf_thread, hsup] at this
    exact this

theorem line_mem {t t' : Tile} (h : t'.mem = t.mem) (l : Nat) : t'.line l = t.line l := by unfold Tile.line; rw [h]

theorem lines_mem {t t' : Tile} (h : t'.mem = t.mem) (hp : t'.poison = t.poison) (l n : Nat) : t'.lines l n = t.lines l n := by
  unfold Tile.lines
  refine List.map_congr_left fun j _ => ?_
  rw [line_mem h, Tile.poisoned, Tile.poisoned, hp]

theorem before_poison (sp : OpSpec) (s : State) (tile th : Nat) (w : BitVec 128) :
    ((sp.before s tile th w).tile tile).poison = (s.tile tile).poison := by
  have := (before_only sp s tile th w).2
  rw [opOf_tile] at this
  rw [this]
  exact issueState_poison s tile th

end Sys2Proof.Machine
end

