-- ==== Sys2Proof/Laws/Engine.lean ====
section
/-! SUPPORT. What the parts of an operation of the matrix or the vector engine leave alone, and the operation as a whole. -/

namespace Sys2Proof.Machine

theorem EngineFrame.refl (s : State) (o : Op) : EngineFrame s s o [] [] [] [] :=
  ⟨rfl, rfl, fun _ _ => rfl, fun _ _ => rfl, rfl, rfl, rfl, fun _ _ => rfl, fun _ _ => rfl, fun _ _ => rfl, fun _ _ => rfl, fun _ _ => rfl⟩

theorem EngineFrame.mono {s t : State} {o : Op} {rs rs' : List (Nat × Nat)} {bs cs ns bs' cs' ns' : List Nat}
    (h : EngineFrame s t o rs bs cs ns) (hr : ∀ x ∈ rs, x ∈ rs') (hb : ∀ x ∈ bs, x ∈ bs') (hc : ∀ x ∈ cs, x ∈ cs')
    (hn : ∀ x ∈ ns, x ∈ ns') : EngineFrame s t o rs' bs' cs' ns' :=
  { h with
    bytes := fun x hx => h.bytes x fun r m => hx r (hr r m)
    poison := fun l hl => h.poison l fun r m => hl r (hr r m)
    blocks := fun n m => h.blocks n fun k => m (hb n k)
    cache := fun n m => h.cache n fun k => m (hc n k)
    norms := fun n m => h.norms n fun k => m (hn n k) }

/-- Two parts with the same frame. -/
theorem EngineFrame.trans {s t u : State} {o : Op} {rs : List (Nat × Nat)} {bs cs ns : List Nat}
    (h : EngineFrame s t o rs bs cs ns) (k : EngineFrame t u o rs bs cs ns) : EngineFrame s u o rs bs cs ns :=
  ⟨k.state.trans (by rw [h.state]), k.syu.trans (by rw [h.syu]), fun j hj => (k.tiles j hj).trans (h.tiles j hj),
    fun n hn => (k.threads n hn).trans (h.threads n hn), k.other.trans h.other, k.st.trans h.st, k.tile.trans (by rw [h.tile]),
    fun x hx => (k.bytes x hx).trans (h.bytes x hx), fun l hl => (k.poison l hl).trans (h.poison l hl),
    fun n hn => (k.blocks n hn).trans (h.blocks n hn), fun n hn => (k.cache n hn).trans (h.cache n hn),
    fun n hn => (k.norms n hn).trans (h.norms n hn)⟩

theorem StoresOnly.engine {s t : State} {o : Op} {a n : Nat} (h : StoresOnly s t o a n) : EngineFrame s t o [(a, n)] [] [] [] := by
  obtain ⟨⟨h1, h2, h3, h4, h5⟩, h6, h7, h8, h9⟩ := h
  refine ⟨by rw [h1], by rw [h1], h2, h3, h4, h5, by rw [h6], fun x hx => h7 x (hx (a, n) List.mem_cons_self),
    fun l hl => h8 l (hl (a, n) List.mem_cons_self), fun k _ => ?_, fun k _ => ?_, fun k _ => ?_⟩
  · rw [Tile.block, h6]; rfl
  · rw [Tile.entry, h6]; rfl
  · rw [h6]

theorem RegsOnly.engine {s t : State} {o : Op} (h : RegsOnly s t o) : EngineFrame s t o [] [] [] [] := by
  obtain ⟨⟨h1, h2, h3, h4, h5⟩, h6⟩ := h
  refine ⟨by rw [h1], by rw [h1], h2, h3, h4, h5, by rw [h6], fun x _ => by rw [h6], fun l _ => by rw [Tile.poisoned, h6]; rfl,
    fun k _ => ?_, fun k _ => ?_, fun k _ => ?_⟩
  · rw [Tile.block, h6]; rfl
  · rw [Tile.entry, h6]; rfl
  · rw [h6]

/-- A change of blocks, entries or norm accumulators of the tile. -/
theorem EngineFrame.modTile {s : State} {o : Op} {f : Tile → Tile} {bs cs ns : List Nat}
    (hf : ∀ t, f t = { t with blocks := (f t).blocks, cache := (f t).cache, norms := (f t).norms, err := { t.err with badCache := (f t).err.badCache } })
    (hb : ∀ t n, n ∉ bs → (f t).block n = t.block n) (hc : ∀ t n, n ∉ cs → (f t).entry n = t.entry n)
    (hn : ∀ t n, n ∉ ns → mget {} (f t).norms n = mget {} t.norms n) : EngineFrame s (s.modTile o.tile f) o [] bs cs ns := by
  have e : (s.modTile o.tile f).tile o.tile = f (s.tile o.tile) := State.tile_modTile_self _ _ _
  have hth : ∀ n, (s.modTile o.tile f).thread o.tile n = s.thread o.tile n := by
    intro n
    unfold State.thread Tile.thread
    rw [e, hf]
  refine ⟨rfl, rfl, fun j hj => by rw [State.tile_modTile, if_neg hj], fun n _ => hth n, by rw [hth], by rw [hth], ?_,
    fun x _ => ?_, fun l _ => ?_, fun n hh => ?_, fun n hh => ?_, fun n hh => ?_⟩
  · rw [e, hf]
  · rw [e, hf]
  · rw [e, hf]; rfl
  · rw [e]; exact hb _ n hh
  · rw [e]; exact hc _ n hh
  · rw [e]; exact hn _ n hh

theorem EngineFrame.setBlock (s : State) (o : Op) (n : Nat) (b : Block) :
    EngineFrame s (s.modTile o.tile fun t => t.setBlock n b) o [] [n] [] [] :=
  EngineFrame.modTile (fun _ => rfl) (fun _ _ hk => mget_mset_ne _ _ (by simpa using hk)) (fun _ _ _ => rfl) fun _ _ _ => rfl

theorem EngineFrame.setFlags (s : State) (o : Op) (u : FlagSet) : EngineFrame s (s.setFlags o u) o [] [] [] [] :=
  (RegsOnly.modRegs s o _).engine

theorem regs_modTile_threads {s : State} {o : Op} {f : Tile → Tile} (h : (f (s.tile o.tile)).threads = (s.tile o.tile).threads) :
    (s.modTile o.tile f).regs o = s.regs o := by
  simp only [State.regs, State.thread, State.tile_modTile_self, Tile.thread, h]

/-! ### Statistics -/

theorem EngineFrame.counts (s : State) (o : Op) (f : Tile → Tile)
    (h : ∀ t, f t = { t with digest := (f t).digest, patina := (f t).patina }) :
    EngineFrame s (s.modTile o.tile f) o [] [] [] [] ∧ (s.modTile o.tile f).regs o = s.regs o := by
  have e : (s.modTile o.tile f).tile o.tile = f (s.tile o.tile) := State.tile_modTile_self _ _ _
  have hth : ∀ n, (s.modTile o.tile f).thread o.tile n = s.thread o.tile n := by
    intro n
    unfold State.thread Tile.thread
    rw [e, h]
  refine ⟨⟨rfl, rfl, fun j hj => by rw [State.tile_modTile, if_neg hj], fun n _ => hth n, by rw [hth], by rw [hth], ?_,
    fun x _ => ?_, fun l _ => ?_, fun n _ => ?_, fun n _ => ?_, fun n _ => ?_⟩, by simp only [State.regs, hth]⟩
  · rw [e, h]
  · rw [e, h]
  · rw [e, h]; rfl
  · rw [e, h]; rfl
  · rw [e, h]; rfl
  · rw [e, h]

theorem countLines_eq : ∀ (es : List (List Elem)) (t : Tile) (l : Nat), t.countLines l es = { t with patina := (t.countLines l es).patina } := by
  intro es
  induction es with
  | nil => intro t l; rfl
  | cons x xs ih =>
    intro t l
    unfold Tile.countLines
    dsimp only
    rw [ih]
    split
    · split <;> rfl
    · rfl

theorem digestCounts_eq : ∀ (es : List (List Elem)) (t : Tile) (th l : Nat),
    t.digestCounts th l es = { t with digest := (t.digestCounts th l es).digest } := by
  intro es
  induction es with
  | nil => intro t th l; rfl
  | cons x xs ih =>
    intro t th l
    unfold Tile.digestCounts
    dsimp only
    rw [ih]
    split
    · split
      · rw [digestBytes_eq, digestBytes_eq t]
      · rfl
    · rfl

theorem sendSyu_frame (s : State) (o : Op) (src : Src) (c : Nat) (w : Option Who) (hc : Option (Nat × Nat)) (tag : Nat) (b : SyuBody) :
    EngineFrame s (s.sendSyu src c w hc tag b) o [] [] [] [] ∧ (s.sendSyu src c w hc tag b).regs o = s.regs o :=
  ⟨⟨rfl, rfl, fun _ _ => rfl, fun _ _ => rfl, rfl, rfl, rfl, fun _ _ => rfl, fun _ _ => rfl, fun _ _ => rfl, fun _ _ => rfl, fun _ _ => rfl⟩, rfl⟩

theorem castVote_frame (s : State) (o : Op) : EngineFrame s (s.castVote o) o [] [] [] [] ∧ (s.castVote o).regs o = s.regs o := by
  unfold State.castVote
  split
  · exact ⟨.refl s o, rfl⟩
  · exact sendSyu_frame s o _ _ _ _ _ _

theorem counted_frame (s : State) (o : Op) : RegsOnly s (s.counted o).2 o ∧ (s.counted o).2.regs o = s.regs o := by
  unfold State.counted
  dsimp only
  split
  · exact ⟨.refl s o, rfl⟩
  · split
    · exact ⟨RegsOnly.counts s o _ (fun x b => by cases b <;> rfl) fun x => rfl, regs_counts s o _ fun x b => by cases b <;> rfl⟩
    · exact ⟨RegsOnly.counts s o _ (fun x b => by cases b <;> rfl) fun x => rfl, regs_counts s o _ fun x b => by cases b <;> rfl⟩

/-- The digest takes bytes. -/
theorem digest_frame (s : State) (o : Op) (th v n v' n' : Nat) :
    EngineFrame s (s.modTile o.tile fun t => (t.digestBytes th v n).digestBytes th v' n') o [] [] [] [] ∧
      (s.modTile o.tile fun t => (t.digestBytes th v n).digestBytes th v' n').regs o = s.regs o :=
  EngineFrame.counts s o (fun t => (t.digestBytes th v n).digestBytes th v' n') fun t => by rw [digestBytes_eq, digestBytes_eq t]

theorem digestVote_frame (s : State) (o : Op) : EngineFrame s (s.digestVote o) o [] [] [] [] ∧ (s.digestVote o).regs o = s.regs o := by
  unfold State.digestVote
  split
  · rename_i vid _
    have h := digest_frame s o o.thread (counterAddr vid) 8 1 1
    generalize (s.modTile o.tile fun t => (t.digestBytes o.thread (counterAddr vid) 8).digestBytes o.thread 1 1) = u at h ⊢
    have hc := RegsOnly.counts u o (fun t => { t with votes := mset none t.votes t.countOps (some vid) })
      (fun x b => by cases b <;> rfl) fun x => rfl
    exact ⟨h.1.trans hc.engine,
      (regs_counts u o _ fun x b => by cases b <;> rfl).trans h.2⟩
  · exact ⟨.refl s o, rfl⟩

/-- A part that runs only on a condition. -/
theorem EngineFrame.cond {s u : State} {o : Op} (v : Bool) (h : EngineFrame s u o [] [] [] [] ∧ u.regs o = s.regs o) :
    EngineFrame s (if v then u else s) o [] [] [] [] ∧ (if v then u else s).regs o = s.regs o := by
  cases v
  · exact ⟨.refl s o, rfl⟩
  · exact h

/-- The statistics of written elements change no register and no byte. -/
theorem stats_frame (s : State) (o : Op) (l : Nat) (es : List (List Elem)) :
    EngineFrame s (s.stats o l es) o [] [] [] [] ∧ (s.stats o l es).regs o = s.regs o := by
  have h0 := EngineFrame.cond (s.tile o.tile).voteStep.isSome (EngineFrame.counts s o (fun t => t.digestCounts o.thread l es)
    fun t => by rw [digestCounts_eq])
  have h1 := EngineFrame.cond ((s.tile o.tile).votes l es)
    (digestVote_frame (if (s.tile o.tile).voteStep.isSome then s.modTile o.tile fun t => t.digestCounts o.thread l es else s) o)
  have h01 := And.intro (h0.1.trans h1.1) (h1.2.trans h0.2)
  unfold State.stats
  dsimp only at h01 ⊢
  generalize (if (s.tile o.tile).votes l es = true then _ else _ : State) = s1 at h01 ⊢
  have hc := counted_frame s1 o
  split
  · rename_i s2 e
    rw [e] at hc
    exact ⟨h01.1.trans hc.1.engine, hc.2.trans h01.2⟩
  · rename_i s2 e
    rw [e] at hc
    have h3 := EngineFrame.cond (s.tile o.tile).voteStep.isSome (EngineFrame.counts s2 o (fun t => t.countLines l es)
      fun t => by rw [countLines_eq])
    have h4 := EngineFrame.cond ((s.tile o.tile).votes l es && (s.tile o.tile).shadow.isNone)
      (castVote_frame (if (s.tile o.tile).voteStep.isSome then s2.modTile o.tile fun t => t.countLines l es else s2) o)
    exact ⟨((h01.1.trans hc.1.engine).trans h3.1).trans h4.1, h4.2.trans (h3.2.trans (hc.2.trans h01.2))⟩

theorem reportCaliper_frame (s : State) (o : Op) (l x n : Nat) (b : Bool) :
    EngineFrame s (s.reportCaliper o l x n b) o [] [] [] [] ∧ (s.reportCaliper o l x n b).regs o = s.regs o := by
  unfold State.reportCaliper
  split
  · exact ⟨.refl s o, rfl⟩
  · rename_i layer q _
    have h0 := digest_frame s o o.thread (layer + q * 2 ^ 32) 8 (x + n * 2 ^ 64 + b2n b * 2 ^ 128) 17
    dsimp only
    have hc := counted_frame (s.modTile o.tile fun t =>
      (t.digestBytes o.thread (layer + q * 2 ^ 32) 8).digestBytes o.thread (x + n * 2 ^ 64 + b2n b * 2 ^ 128) 17) o
    split
    · rename_i s1 e
      rw [e] at hc
      exact ⟨h0.1.trans hc.1.engine, hc.2.trans h0.2⟩
    · rename_i s1 e
      rw [e] at hc
      have h1 := And.intro (h0.1.trans hc.1.engine) (hc.2.trans h0.2)
      split
      · exact h1
      · refine ⟨h1.1.trans ?_, h1.2⟩
        exact ⟨rfl, rfl, fun _ _ => rfl, fun _ _ => rfl, rfl, rfl, rfl, fun _ _ => rfl, fun _ _ => rfl, fun _ _ => rfl, fun _ _ => rfl,
          fun _ _ => rfl⟩

/-! ### The operation as a whole -/

theorem EngineFrame.rerun {s t : State} {o : Op} {rs : List (Nat × Nat)} {bs cs ns : List Nat} (h : EngineFrame s t o rs bs cs ns) :
    (t.tile o.tile).rerun = (s.tile o.tile).rerun := by rw [h.tile]

/-- A checked engine operation whose effect is done. -/
theorem engine_done {i : Instr} {tile th : Nat} {w : BitVec 128} {sp : OpSpec} {s v : State} {rs : List (Nat × Nat)} {bs cs ns : List Nat}
    (h : s.goes i tile th w sp = true) (hc : s.calm tile = true) (hj : sp.jumps = false)
    (he : sp.effect (sp.before s tile th w) (s.opOf tile th w) = .done v)
    (hv : EngineFrame (sp.before s tile th w) v (s.opOf tile th w) rs bs cs ns) :
    ∃ t, runOp i tile th w sp s = .next t ∧ EngineFrame (s.issueState tile th) t (s.opOf tile th w) rs bs cs ns ∧
      t.regs (s.opOf tile th w) = (v.regs (s.opOf tile th w)).goTo ((s.opOf tile th w).idx + 1) ∧
      EngineFrame v t (s.opOf tile th w) [] [] [] [] := by
  have hb := (before_only sp s tile th w).engine.mono (rs' := rs) (bs' := bs) (cs' := cs) (ns' := ns) (by simp) (by simp) (by simp) (by simp)
  have hd := op_done h hc hj he (EngineFrame.rerun (hb.trans hv))
  exact ⟨_, hd.1, (hb.trans hv).trans (hd.2.1.engine.mono (by simp) (by simp) (by simp) (by simp)), hd.2.2, hd.2.1.engine⟩

theorem opLines_holds (s : State) (o : Op) (l : Nat) (xs : List (Nat × Bool)) : ((s.opLines o l xs).tile o.tile).holds l xs := by
  intro j hj
  have := (opLines_spec o xs s l).2.2 (l + j)
  have p : l ≤ l + j ∧ l + j - l < xs.length := by omega
  rw [dif_pos p, dif_pos p] at this
  simpa using this

/-- Lines stand while no byte and no mark of them changes. -/
theorem EngineFrame.holds {s t : State} {o : Op} {bs cs ns : List Nat} (h : EngineFrame s t o [] bs cs ns) {l : Nat} {xs : List (Nat × Bool)}
    (hx : (s.tile o.tile).holds l xs) : (t.tile o.tile).holds l xs := by
  intro j hj
  have h1 : (t.tile o.tile).line (l + j) = (s.tile o.tile).line (l + j) := memRead_congr fun i _ => h.bytes _ (by simp)
  rw [h1, h.poison _ (by simp)]
  exact hx j hj

theorem holds_of_eq {t t' : Tile} {l : Nat} {xs : List (Nat × Bool)} (h : t.holds l xs) (hm : t'.mem = t.mem) (hp : t'.poison = t.poison) :
    t'.holds l xs := by
  intro j hj
  rw [line_mem hm, Tile.poisoned, hp]
  exact h j hj

theorem opLines_engine (s : State) (o : Op) (l n : Nat) {xs : List (Nat × Bool)} (h : xs.length = n) :
    EngineFrame s (s.opLines o l xs) o [(64 * l, 64 * n)] [] [] [] := by
  have := (opLines_spec o xs s l).1.engine
  rwa [h] at this

/-- Flags after an operation that sets them. -/
theorem RegFrame.setFlags {r r1 : RegSet} {a k p : List Nat} {n : Nat} {u : FlagSet} (h : RegFrame r r1 a k p) (hl : r1.loops = r.loops) :
    RegFrame { r with flags := (({ r1 with flags := r1.flags.apply u } : RegSet).goTo n).flags }
      (({ r1 with flags := r1.flags.apply u } : RegSet).goTo n) a k p ∧
    (({ r1 with flags := r1.flags.apply u } : RegSet).goTo n).flags = r.flags.apply u := by
  have g := goTo_frame ({ r1 with flags := r1.flags.apply u } : RegSet) n
  refine ⟨⟨fun i hi => (g.a i (by simp)).trans (h.a i hi), fun i hi hn => (g.k i (by simp) ?_).trans (h.k i hi hn),
    fun i hi => (g.p i (by simp)).trans (h.p i hi), rfl, fun i => (g.busy i).trans (h.busy i)⟩, g.flags.trans ?_⟩
  · show ∀ l ∈ r1.loops, _
    rw [hl]; exact hn
  · show r1.flags.apply u = _
    rw [h.flags]

theorem issueState_tile (s : State) (tile th : Nat) : ∃ x : Tile, (s.issueState tile th).tile tile = { s.tile tile with
    threads := x.threads, fillList := x.fillList, fillNext := x.fillNext, fillSwap := x.fillSwap } := by
  unfold State.issueState
  split
  · exact ⟨s.tile tile, rfl⟩
  · rw [State.tile_modTile_self]
    refine ⟨((s.tile tile).fillView.startFill th), ?_⟩
    unfold Tile.startFill Tile.fillView
    split <;> split <;> (try split) <;> rfl

/-- The tile in which the effect runs: threads, digests and the fill cursors apart it is the tile before. -/
theorem before_tile (sp : OpSpec) (s : State) (tile th : Nat) (w : BitVec 128) : ∃ x : Tile,
    (sp.before s tile th w).tile (s.opOf tile th w).tile = { s.tile tile with
      threads := x.threads, fillList := x.fillList, fillNext := x.fillNext, fillSwap := x.fillSwap, digest := x.digest } := by
  have h := (before_only sp s tile th w).2
  rw [opOf_tile] at h ⊢
  obtain ⟨x, e⟩ := issueState_tile s tile th
  rw [h]
  exact ⟨{ x with threads := ((sp.before s tile th w).tile tile).threads, digest := ((sp.before s tile th w).tile tile).digest }, by rw [e]⟩

theorem setBlock_get (u : State) (o : Op) (n : Nat) (b : Block) : ((u.modTile o.tile fun t => t.setBlock n b).tile o.tile).block n = b := by
  rw [State.tile_modTile_self]; exact mget_mset_self _ _ _

theorem setFlags_regs (u : State) (o : Op) (f : FlagSet) : (u.setFlags o f).regs o = { u.regs o with flags := (u.regs o).flags.apply f } :=
  State.regs_modRegs _ _ _

/-- An operation that writes one accumulator block and sets the flags of R145 from it. -/
theorem engine_acc {i : Instr} {tile th : Nat} {w : BitVec 128} {sp : OpSpec} {s : State} {n : Nat} {b : Block}
    (h : s.goes i tile th w sp = true) (hc : s.calm tile = true) (hj : sp.jumps = false)
    (he : sp.effect (sp.before s tile th w) (s.opOf tile th w) =
      .done (((sp.before s tile th w).modTile (s.opOf tile th w).tile fun t => t.setBlock n b).setFlags (s.opOf tile th w) (accFlags b))) :
    ∃ t, runOp i tile th w sp s = .next t ∧ EngineFrame (s.issueState tile th) t (s.opOf tile th w) [] [n] [] [] ∧
      (t.tile tile).block n = b ∧
      RegFrame { (s.issueState tile th).regs (s.opOf tile th w) with flags := (t.regs (s.opOf tile th w)).flags } (t.regs (s.opOf tile th w))
        ((s.opOf tile th w).posted (sp.accs (s.issueState tile th) (s.opOf tile th w))) [] [] ∧
      (t.regs (s.opOf tile th w)).flags = ((s.issueState tile th).regs (s.opOf tile th w)).flags.apply (accFlags b) := by
  have hv := (EngineFrame.setBlock (sp.before s tile th w) (s.opOf tile th w) n b).trans
    ((EngineFrame.setFlags ((sp.before s tile th w).modTile (s.opOf tile th w).tile fun t => t.setBlock n b) (s.opOf tile th w) (accFlags b)).mono
      (by simp) (by simp) (by simp) (by simp))
  obtain ⟨t, t1, t2, t3, t4⟩ := engine_done h hc hj he hv
  have hf := before_frame sp s tile th w
  rw [setFlags_regs, regs_modTile_threads rfl] at t3
  have hfl := RegFrame.setFlags (u := accFlags b) (n := (s.opOf tile th w).idx + 1) hf.1 hf.2
  refine ⟨t, t1, t2, ?_, by rw [t3]; exact hfl.1, by rw [t3]; exact hfl.2⟩
  have e1 := t4.blocks n (by simp)
  have e2 := (EngineFrame.setFlags ((sp.before s tile th w).modTile (s.opOf tile th w).tile fun t => t.setBlock n b) (s.opOf tile th w)
    (accFlags b)).blocks n (by simp)
  rw [opOf_tile] at e1 e2
  rw [e1, e2]
  exact setBlock_get _ (s.opOf tile th w) n b

theorem chunks_length {α : Type} (per : Nat) : ∀ (n : Nat) (xs : List α), (chunks per n xs).length = n := by
  intro n
  induction n with
  | zero => intro xs; rfl
  | succ n ih => intro xs; unfold chunks; rw [List.length_cons, ih]

/-- No stored entry that the operation reads and no stage mismatches (R147). -/
theorem mxeCheck_none {u : State} {o : Op} {r : Option Nat} {ss : List Nat} {e : Eff}
    (hr : ∀ n ∈ r, ((u.tile o.tile).block n).sound = true) (h : (u.tile o.tile).err.mxeUpset = none) : mxeCheck u o r ss e = e := by
  unfold mxeCheck
  rw [h]
  have : (r.all fun n => ((u.tile o.tile).block n).sound) = true := by
    cases r with
    | none => rfl
    | some n => exact hr n rfl
  rw [this]
  rfl

/-- No cache entry that the operation reads, no partial of a norm accumulator that it updates or reads and no stage that it runs
mismatches (R160, R196). -/
theorem vxeCheck_none {u : State} {o : Op} {es ns ss : List Nat} {e : Eff} (h : ∀ k ∈ ss, (u.tile o.tile).err.vxeUpset ≠ some k)
    (hb : ∀ n ∈ es, mget false (u.tile o.tile).err.badCache n = false)
    (hn : ∀ n ∈ ns, (mget {} (u.tile o.tile).norms n).sound = true) : vxeCheck u o es ns ss e = e := by
  unfold vxeCheck
  have : (es.find? fun n => mget false (u.tile o.tile).err.badCache n) = none := by
    rw [List.find?_eq_none]
    intro n hn
    simp [hb n hn]
  have hs : (ns.all fun n => (mget {} (u.tile o.tile).norms n).sound) = true := List.all_eq_true.2 hn
  rw [this, hs]
  simp only [Bool.not_true, Bool.false_eq_true, if_false]
  split
  · next k hk => rw [if_neg fun hm => h k hm hk]
  · rfl

/-- An operation that writes lines, sets flags, then changes other registers of its engine (`g`) and goes on with a part `z` that
changes none of them. -/
theorem engine_write {i : Instr} {tile th : Nat} {w : BitVec 128} {sp : OpSpec} {s : State} {l : Nat} {xs : List (Nat × Bool)}
    {fl : FlagSet} {g z : State → State} {bs cs ns : List Nat}
    (h : s.goes i tile th w sp = true) (hc : s.calm tile = true) (hj : sp.jumps = false)
    (hg : ∀ u, EngineFrame u (g u) (s.opOf tile th w) [] bs cs ns ∧ (g u).regs (s.opOf tile th w) = u.regs (s.opOf tile th w))
    (hz : ∀ u, EngineFrame u (z u) (s.opOf tile th w) [] [] [] [] ∧ (z u).regs (s.opOf tile th w) = u.regs (s.opOf tile th w))
    (he : sp.effect (sp.before s tile th w) (s.opOf tile th w) =
      .done (z (g (((sp.before s tile th w).opLines (s.opOf tile th w) l xs).setFlags (s.opOf tile th w) fl)))) :
    ∃ t, runOp i tile th w sp s = .next t ∧ EngineFrame (s.issueState tile th) t (s.opOf tile th w) [(64 * l, 64 * xs.length)] bs cs ns ∧
      (t.tile tile).holds l xs ∧
      RegFrame { (s.issueState tile th).regs (s.opOf tile th w) with flags := (t.regs (s.opOf tile th w)).flags } (t.regs (s.opOf tile th w))
        ((s.opOf tile th w).posted (sp.accs (s.issueState tile th) (s.opOf tile th w))) [] [] ∧
      (t.regs (s.opOf tile th w)).flags = ((s.issueState tile th).regs (s.opOf tile th w)).flags.apply fl ∧
      EngineFrame (g (((sp.before s tile th w).opLines (s.opOf tile th w) l xs).setFlags (s.opOf tile th w) fl)) t (s.opOf tile th w) [] [] [] [] := by
  generalize ho : s.opOf tile th w = o at *
  have ht : o.tile = tile := by rw [← ho]; rfl
  generalize hX : sp.before s tile th w = x at *
  have f1 := opLines_engine x o l xs.length rfl
  have f2 := EngineFrame.setFlags (x.opLines o l xs) o fl
  have f3 := hg ((x.opLines o l xs).setFlags o fl)
  have f4 := hz (g ((x.opLines o l xs).setFlags o fl))
  have hv : EngineFrame x (z (g ((x.opLines o l xs).setFlags o fl))) o [(64 * l, 64 * xs.length)] bs cs ns :=
    (((f1.mono (by simp) (by simp) (by simp) (by simp)).trans (f2.mono (by simp) (by simp) (by simp) (by simp))).trans
      (f3.1.mono (by simp) (by simp) (by simp) (by simp))).trans (f4.1.mono (by simp) (by simp) (by simp) (by simp))
  subst hX
  subst ho
  obtain ⟨t, t1, t2, t3, t4⟩ := engine_done h hc hj he hv
  have hf := before_frame sp s tile th w
  rw [f4.2, f3.2, setFlags_regs, (opLines_spec _ _ _ _).2.1] at t3
  have hfl := RegFrame.setFlags (u := fl) (n := (s.opOf tile th w).idx + 1) hf.1 hf.2
  refine ⟨t, t1, t2, ?_, by rw [t3]; exact hfl.1, by rw [t3]; exact hfl.2, f4.1.trans t4⟩
  have h1 := opLines_holds (sp.before s tile th w) (s.opOf tile th w) l xs
  exact t4.holds (f4.1.holds (EngineFrame.holds f3.1 (f2.holds h1)))

/-- An operation that writes lines and then changes other registers of its engine (`g`), and no flag. -/
theorem engine_lines {i : Instr} {tile th : Nat} {w : BitVec 128} {sp : OpSpec} {s : State} {l : Nat} {xs : List (Nat × Bool)}
    {g : State → State} {bs cs ns : List Nat}
    (h : s.goes i tile th w sp = true) (hc : s.calm tile = true) (hj : sp.jumps = false)
    (hg : ∀ u, EngineFrame u (g u) (s.opOf tile th w) [] bs cs ns ∧ (g u).regs (s.opOf tile th w) = u.regs (s.opOf tile th w))
    (he : sp.effect (sp.before s tile th w) (s.opOf tile th w) =
      .done (g ((sp.before s tile th w).opLines (s.opOf tile th w) l xs))) :
    ∃ t, runOp i tile th w sp s = .next t ∧ EngineFrame (s.issueState tile th) t (s.opOf tile th w) [(64 * l, 64 * xs.length)] bs cs ns ∧
      (t.tile tile).holds l xs ∧
      RegFrame ((s.issueState tile th).regs (s.opOf tile th w)) (t.regs (s.opOf tile th w))
        ((s.opOf tile th w).posted (sp.accs (s.issueState tile th) (s.opOf tile th w))) [] [] ∧
      EngineFrame (g ((sp.before s tile th w).opLines (s.opOf tile th w) l xs)) t (s.opOf tile th w) [] [] [] [] := by
  generalize ho : s.opOf tile th w = o at *
  have ht : o.tile = tile := by rw [← ho]; rfl
  generalize hX : sp.before s tile th w = x at *
  have f1 := opLines_engine x o l xs.length rfl
  have f3 := hg (x.opLines o l xs)
  have hv : EngineFrame x (g (x.opLines o l xs)) o [(64 * l, 64 * xs.length)] bs cs ns :=
    (f1.mono (by simp) (by simp) (by simp) (by simp)).trans (f3.1.mono (by simp) (by simp) (by simp) (by simp))
  subst hX
  subst ho
  obtain ⟨t, t1, t2, t3, t4⟩ := engine_done h hc hj he hv
  have hf := before_frame sp s tile th w
  rw [f3.2, (opLines_spec _ _ _ _).2.1] at t3
  refine ⟨t, t1, t2, ?_, by rw [t3]; exact hf.1.trans_goTo hf.2, t4⟩
  exact t4.holds (EngineFrame.holds f3.1 (opLines_holds (sp.before s tile th w) (s.opOf tile th w) l xs))

theorem advanceBase_cache (t : Tile) (e n : Nat) : (t.advanceBase e n).cache =
    mset 0 t.cache e (setBits (t.entry e) 96 32 ((gdBase (t.entry e) + n) % 2 ^ 32)) := by
  unfold Tile.advanceBase
  dsimp only

theorem advanceBase_eq (t : Tile) (e n : Nat) : ∃ c, t.advanceBase e n = { t with cache := c } := by
  unfold Tile.advanceBase
  exact ⟨_, rfl⟩

/-- The element base of a Grain descriptor moves on (R189). -/
theorem EngineFrame.advanceBase (s : State) (o : Op) (e n : Nat) :
    EngineFrame s (s.modTile o.tile fun t => t.advanceBase e n) o [] [] [e] [] ∧
      (s.modTile o.tile fun t => t.advanceBase e n).regs o = s.regs o := by
  refine ⟨EngineFrame.modTile (fun t => ?_) (fun t k _ => ?_) (fun t k hk => ?_) fun t k _ => ?_, regs_modTile_threads ?_⟩
  · obtain ⟨c, h⟩ := advanceBase_eq t e n
    rw [h]
  · obtain ⟨c, h⟩ := advanceBase_eq t e n
    unfold Tile.block
    rw [h]
  · unfold Tile.entry
    rw [advanceBase_cache]
    exact mget_mset_ne _ _ (by simpa using hk)
  · obtain ⟨c, h⟩ := advanceBase_eq t e n
    rw [h]
  · obtain ⟨c, h⟩ := advanceBase_eq (s.tile o.tile) e n
    rw [h]

theorem advanceBase_get (u : State) (o : Op) (e n : Nat) : ((u.modTile o.tile fun t => t.advanceBase e n).tile o.tile).entry e =
    setBits ((u.tile o.tile).entry e) 96 32 ((gdBase ((u.tile o.tile).entry e) + n) % 2 ^ 32) := by
  rw [State.tile_modTile_self]
  unfold Tile.entry
  rw [advanceBase_cache, mget_mset_self]
  rfl

end Sys2Proof.Machine
end

