-- ==== Sys2Proof/Laws/Keeps.lean ====
section
/-! SUPPORT. What every command keeps: the queue, the fuses but for burning, and canonical memories. Here the relation and its
congruences; the files KeepsX hold one lemma per operation of Machine/X.lean, each saying the same of that operation. -/

namespace Sys2Proof.Machine

theorem mcopy_wf {m : Memory} {src dst n : Nat} (h : Memory.wf m = true) : Memory.wf (mcopy 0 m src dst n) = true :=
  foldl_wf (fun _ _ w => memSetByte_wf w) (mdrop_wf h)

theorem relocate_wf {v : RelEnv} {m : Memory} {i : Nat} {t : Memory} (h : Memory.wf t = true) : Memory.wf (v.relocate m i t) = true := by
  refine foldl_wf (fun t r w => ?_) (foldl_wf (fun t r w => ?_) h)
  · unfold RelEnv.reloc
    dsimp only
    split
    · exact memWrite_wf w
    · exact w
  · unfold RelEnv.list
    split
    · exact foldl_wf (fun _ _ w => memWrite_wf w) w
    · exact w

/-! ### The relation -/

/-- Every memory of a tile is canonical. -/
abbrev tilesWf (m : SMap Tile) : Bool := m.all fun kv => Memory.wf kv.2.mem

/-- Every image of the trace buffer has a canonical memory. -/
abbrev imagesWf (l : List Sample) : Bool := l.all fun x => Memory.wf x.image.mem

/-- From `f` to `g` fuses were only burnt: the identity stands, no counter of R557 falls, and the committed generations stand. -/
structure FusesLe (f g : Fuses) : Prop where
  ordering : g.ordering = f.ordering
  stepping : g.stepping = f.stepping
  moduleId : g.moduleId = f.moduleId
  reductions : f.reductions ≤ g.reductions
  cbtGens : f.cbtGens ≤ g.cbtGens
  floorSteps : f.floorSteps ≤ g.floorSteps
  gens : f.gens <+: g.gens

@[simp] theorem FusesLe.refl (f : Fuses) : FusesLe f f := ⟨rfl, rfl, rfl, Nat.le_refl _, Nat.le_refl _, Nat.le_refl _, List.prefix_refl _⟩

theorem FusesLe.trans {f g h : Fuses} (a : FusesLe f g) (b : FusesLe g h) : FusesLe f h :=
  ⟨b.ordering.trans a.ordering, b.stepping.trans a.stepping, b.moduleId.trans a.moduleId, Nat.le_trans a.reductions b.reductions,
    Nat.le_trans a.cbtGens b.cbtGens, Nat.le_trans a.floorSteps b.floorSteps, a.gens.trans b.gens⟩

theorem FusesLe.of_eq {f g : Fuses} (h : g = f) : FusesLe f g := h ▸ FusesLe.refl f

/-- What no command changes, and what every command keeps: the queue, the fuses but for burning, and canonical memories. -/
structure Keeps (s t : State) : Prop where
  pending : t.pending = s.pending
  fuses : FusesLe s.pln.fuses t.pln.fuses
  mem : s.memWf = true → t.memWf = true

theorem State.memWf_iff {s : State} :
    s.memWf = true ↔ Memory.wf s.hbm.mem = true ∧ tilesWf s.tiles = true ∧ imagesWf s.ras.samples = true := by
  simp [State.memWf, and_assoc]

@[simp] theorem Keeps.refl (s : State) : Keeps s s := ⟨rfl, .refl _, id⟩

theorem Keeps.trans {a b c : State} (h : Keeps a b) (k : Keeps b c) : Keeps a c :=
  ⟨k.pending.trans h.pending, h.fuses.trans k.fuses, fun m => k.mem (h.mem m)⟩

/-- A record update that leaves the queue alone. -/
theorem Keeps.update {s0 s : State} (h : Keeps s0 s) {t : State} (hp : t.pending = s.pending)
    (hf : FusesLe s.pln.fuses t.pln.fuses)
    (hm : Memory.wf s.hbm.mem = true → Memory.wf t.hbm.mem = true)
    (ht : tilesWf s.tiles = true → tilesWf t.tiles = true) (hs : imagesWf s.ras.samples = true → imagesWf t.ras.samples = true) :
    Keeps s0 t :=
  h.trans ⟨hp, hf, fun w => State.memWf_iff.2
    ⟨hm (State.memWf_iff.1 w).1, ht (State.memWf_iff.1 w).2.1, hs (State.memWf_iff.1 w).2.2⟩⟩

/-- A literal over a state's queue, tiles, HBM bytes and fuses. -/
theorem Keeps.mk' {s0 s : State} (h : Keeps s0 s) {now nextId freeCtr : Nat} {outbox : List OutMsg} {tsets groups ctxs ctxPwr tels telItems xsends syu rmn}
    {hbm : Hbm} {lnk hif mbx} {ras : Ras} {crt pwr} {pln : Pln}
    (hm : hbm.mem = s.hbm.mem) (hs : ras.samples = s.ras.samples) (hf : pln.fuses = s.pln.fuses) :
    Keeps s0 ⟨s.pending, now, nextId, freeCtr, outbox, s.tiles, tsets, groups, ctxs, ctxPwr, tels, telItems, xsends, syu, rmn, hbm, lnk, hif, mbx, ras, crt, pwr, pln⟩ :=
  h.update rfl (.of_eq hf) (by simp [hm]) (by simp) (by simp [hs])

/-- A literal over a state's queue, with its own tiles, HBM bytes, samples and fuses. -/
theorem Keeps.mkAll {s0 s : State} (h : Keeps s0 s) {now nextId freeCtr : Nat} {outbox : List OutMsg} {tiles : SMap Tile}
    {tsets groups ctxs ctxPwr tels telItems xsends syu rmn}
    {hbm : Hbm} {lnk hif mbx} {ras : Ras} {crt pwr} {pln : Pln}
    (hm : s0.memWf = true → Memory.wf hbm.mem = true) (ht : s0.memWf = true → tilesWf tiles = true)
    (hs : s0.memWf = true → imagesWf ras.samples = true)
    (hf : FusesLe s0.pln.fuses pln.fuses) :
    Keeps s0 ⟨s.pending, now, nextId, freeCtr, outbox, tiles, tsets, groups, ctxs, ctxPwr, tels, telItems, xsends, syu, rmn, hbm, lnk, hif, mbx, ras, crt, pwr, pln⟩ :=
  ⟨h.pending, hf, fun w => State.memWf_iff.2 ⟨hm w, ht w, hs w⟩⟩

theorem Keeps.hbm_wf {s0 s : State} (h : Keeps s0 s) (w : s0.memWf = true) : Memory.wf s.hbm.mem = true :=
  (State.memWf_iff.1 (h.mem w)).1

theorem Keeps.tiles_wf {s0 s : State} (h : Keeps s0 s) (w : s0.memWf = true) : tilesWf s.tiles = true :=
  (State.memWf_iff.1 (h.mem w)).2.1

theorem Keeps.images_wf {s0 s : State} (h : Keeps s0 s) (w : s0.memWf = true) : imagesWf s.ras.samples = true :=
  (State.memWf_iff.1 (h.mem w)).2.2

theorem tilesWf_mvals {f : Nat → Tile → Tile} (hf : ∀ k v, Memory.wf v.mem = true → Memory.wf (f k v).mem = true) {m : SMap Tile}
    (h : tilesWf m = true) : tilesWf (mvals {} f m) = true :=
  all_mvals (q := fun t : Tile => Memory.wf t.mem) hf h

theorem imagesWf_filter {p : Sample → Bool} {l : List Sample} (h : imagesWf l = true) : imagesWf (l.filter p) = true := by
  simp only [imagesWf, List.all_eq_true, List.mem_filter] at h ⊢
  exact fun x hx => h x hx.1

theorem imagesWf_map {f : Sample → Sample} {l : List Sample} (hf : ∀ x, Memory.wf x.image.mem = true → Memory.wf (f x).image.mem = true)
    (h : imagesWf l = true) : imagesWf (l.map f) = true := by
  simp only [imagesWf, List.all_eq_true, List.mem_map] at h ⊢
  rintro _ ⟨x, hx, rfl⟩
  exact hf x (h x hx)

theorem imagesWf_append {l k : List Sample} (h : imagesWf l = true) (hk : imagesWf k = true) : imagesWf (l ++ k) = true := by
  simp_all [imagesWf, List.all_append]

theorem Keeps.ite {s0 a b : State} {c : Prop} [Decidable c] (ha : c → Keeps s0 a) (hb : ¬c → Keeps s0 b) : Keeps s0 (if c then a else b) := by
  split
  · exact ha ‹_›
  · exact hb ‹_›

theorem Keeps.cond {s0 a b : State} {c : Bool} (ha : Keeps s0 a) (hb : Keeps s0 b) : Keeps s0 (bif c then a else b) := by
  cases c <;> assumption

theorem Keeps.foldl {α : Type} {s0 : State} {f : State → α → State} (hf : ∀ s a, Keeps s0 s → Keeps s0 (f s a)) :
    ∀ {l : List α} {s : State}, Keeps s0 s → Keeps s0 (l.foldl f s)
  | [], _, h => h
  | _ :: l, _, h => Keeps.foldl hf (l := l) (hf _ _ h)

theorem Keeps.let_ {s0 v : State} {b : State → State} (hv : Keeps s0 v) (hb : ∀ x, Keeps s0 x → Keeps s0 (b x)) : Keeps s0 (let x := v; b x) :=
  hb v hv

theorem Keeps.lets {α : Type} {s0 : State} {v : α} {b : α → State} (hb : ∀ x, Keeps s0 (b x)) : Keeps s0 (let x := v; b x) :=
  hb v

@[simp] theorem tile_wf {s : State} {n : Nat} (h : tilesWf s.tiles = true) : Memory.wf (s.tile n).mem = true :=
  mget_of_all (q := fun t : Tile => Memory.wf t.mem) rfl n h

theorem Keeps.setTile {s0 s : State} {n : Nat} {v : Tile} (h : Keeps s0 s) (hv : s0.memWf = true → Memory.wf v.mem = true) :
    Keeps s0 (s.setTile n v) :=
  h.mkAll h.hbm_wf (fun w => all_mset n v (hv w) (h.tiles_wf w)) h.images_wf h.fuses

theorem Keeps.modTile {s0 s : State} {n : Nat} {f : Tile → Tile} (h : Keeps s0 s)
    (hf : s0.memWf = true → ∀ x, Memory.wf x.mem = true → Memory.wf (f x).mem = true) : Keeps s0 (s.modTile n f) :=
  h.setTile fun w => hf w _ (tile_wf (h.tiles_wf w))

theorem sample_wf {s : State} {i : Nat} {x : Sample} (h : imagesWf s.ras.samples = true) (e : s.sample i = some x) :
    Memory.wf x.image.mem = true :=
  List.all_eq_true.1 h x (List.mem_of_find?_eq_some e)

/-- What an effect leaves, when it completes. -/
def Eff.Keeps (s0 : State) : Eff → Prop
  | .done s => Machine.Keeps s0 s
  | _ => True

/-- What the read of a DMA source leaves. -/
def DmaSrc.Keeps (s0 : State) : DmaSrc → Prop
  | .lines s _ => Machine.Keeps s0 s
  | .refused _ => True
  | .later s => Machine.Keeps s0 s

/-- What an outcome leaves, when it is a next state. -/
def OutKeeps (s0 : State) : Host.Outcome State Fault Refusal → Prop
  | .next s => Keeps s0 s
  | _ => True

@[simp] theorem Eff.keeps_done {s0 s : State} : (Eff.done s).Keeps s0 ↔ Machine.Keeps s0 s := Iff.rfl
@[simp] theorem Eff.keeps_refuse {s0 : State} {c : Chk} : (Eff.refuse c).Keeps s0 := trivial
@[simp] theorem Eff.keeps_wait {s0 : State} : Eff.wait.Keeps s0 := trivial
@[simp] theorem Eff.keeps_detect {s0 : State} {d : Detection} : (Eff.detect d).Keeps s0 := trivial
@[simp] theorem OutKeeps.next {s0 s : State} : OutKeeps s0 (.next s) ↔ Keeps s0 s := Iff.rfl
@[simp] theorem OutKeeps.fault {s0 : State} {f : Fault} : OutKeeps s0 (.fault f) := trivial
@[simp] theorem OutKeeps.refused {s0 : State} {r : Refusal} : OutKeeps s0 (.refused r) := trivial

theorem OutKeeps.turnedAway {s0 s : State} (h : Keeps s0 s) : OutKeeps s0 (turnedAway s) := h

theorem OutKeeps.guardWf {s0 : State} {i : Instr} {o : Host.Outcome State Fault Refusal} (h : OutKeeps s0 o) : OutKeeps s0 (guardWf i o) := by
  unfold Machine.guardWf
  split
  · exact h
  · trivial

theorem OutKeeps.whenever {s0 s t : State} {i : Instr} {c : Bool} (h : Keeps s0 s) (ht : c = true → Keeps s0 t) : OutKeeps s0 (whenever i c s t) := by
  refine OutKeeps.guardWf ?_
  split
  · exact ht ‹_›
  · exact h

theorem Keeps.elim {α : Type} {s0 : State} {o : Option α} {d : State} {f : α → State} (hd : Keeps s0 d) (hf : ∀ a, Keeps s0 (f a)) :
    Keeps s0 (o.elim d f) := by
  cases o
  · exact hd
  · exact hf _

theorem Eff.keeps_of_eq {s0 s : State} {e : Eff} (h : e.Keeps s0) (he : e = .done s) : Machine.Keeps s0 s := by
  subst he
  exact h

theorem Keeps.of_fst {α : Type} {s0 s : State} {a : α} {p : State × α} (h : Keeps s0 p.1) (e : p = (s, a)) : Keeps s0 s := by
  subst e
  exact h

theorem Keeps.of_snd {α : Type} {s0 s : State} {a : α} {p : α × State} (h : Keeps s0 p.2) (e : p = (a, s)) : Keeps s0 s := by
  subst e
  exact h

theorem foldl_tile_wf {α : Type} {f : Tile → α → Tile} (hf : ∀ t a, Memory.wf t.mem = true → Memory.wf (f t a).mem = true) :
    ∀ {l : List α} {t : Tile}, Memory.wf t.mem = true → Memory.wf (l.foldl f t).mem = true
  | [], _, h => h
  | _ :: l, _, h => foldl_tile_wf hf (l := l) (hf _ _ h)

end Sys2Proof.Machine
end

