-- ==== Sys2Proof/Laws/KeepsBase.lean ====
section
/-! SUPPORT. The operations of Machine/Base.lean keep what Keeps says. -/

namespace Sys2Proof.Machine

theorem Tile_setThread_keeps {t : Tile} {n : Nat} {v : Thread} (ht : Memory.wf t.mem = true) :
    Memory.wf (Tile.setThread t n v).mem = true := by
  unfold Tile.setThread
  dsimp only
  exact ht

theorem Tile_modThread_keeps {t : Tile} {n : Nat} {f : Thread → Thread} (ht : Memory.wf t.mem = true) :
    Memory.wf (Tile.modThread t n f).mem = true := by
  unfold Tile.modThread
  exact Tile_setThread_keeps ht

theorem State_setTset_keeps {s0 : State} {s : State} {n : Nat} {v : TSet} (hs : Keeps s0 s) : Keeps s0 (State.setTset s n v) := by
  unfold State.setTset
  exact Keeps.mk' hs rfl rfl rfl

theorem State_setGroup_keeps {s0 : State} {s : State} {g : Nat} {v : Group} (hs : Keeps s0 s) : Keeps s0 (State.setGroup s g v) := by
  unfold State.setGroup
  exact Keeps.mk' hs rfl rfl rfl

theorem State_setCtx_keeps {s0 : State} {s : State} {c : Nat} {v : Ctx} (hs : Keeps s0 s) : Keeps s0 (State.setCtx s c v) := by
  unfold State.setCtx
  exact Keeps.mk' hs rfl rfl rfl

theorem State_modCtx_keeps {s0 : State} {s : State} {c : Nat} {f : Ctx → Ctx} (hs : Keeps s0 s) : Keeps s0 (State.modCtx s c f) := by
  unfold State.modCtx
  exact State_setCtx_keeps hs

theorem State_setCp_keeps {s0 : State} {s : State} {c : Nat} {v : CtxPwr} (hs : Keeps s0 s) : Keeps s0 (State.setCp s c v) := by
  unfold State.setCp
  exact Keeps.mk' hs rfl rfl rfl

theorem State_setTel_keeps {s0 : State} {s : State} {c : Nat} {v : Tel} (hs : Keeps s0 s) : Keeps s0 (State.setTel s c v) := by
  unfold State.setTel
  exact Keeps.mk' hs rfl rfl rfl

theorem State_setQueue_keeps {s0 : State} {s : State} {q : Nat} {v : Queue} (hs : Keeps s0 s) : Keeps s0 (State.setQueue s q v) := by
  unfold State.setQueue
  exact Keeps.mk' hs rfl rfl rfl

theorem State_setFn_keeps {s0 : State} {s : State} {f : Nat} {v : Fn} (hs : Keeps s0 s) : Keeps s0 (State.setFn s f v) := by
  unfold State.setFn
  exact Keeps.mk' hs rfl rfl rfl

theorem State_setPort_keeps {s0 : State} {s : State} {k : Nat} {v : Port} (hs : Keeps s0 s) : Keeps s0 (State.setPort s k v) := by
  unfold State.setPort
  exact Keeps.mk' hs rfl rfl rfl

theorem State_modPort_keeps {s0 : State} {s : State} {k : Nat} {f : Port → Port} (hs : Keeps s0 s) : Keeps s0 (State.modPort s k f) := by
  unfold State.modPort
  exact State_setPort_keeps hs

theorem State_setBinding_keeps {s0 : State} {s : State} {k : Nat} {c : Nat} {v : Binding} (hs : Keeps s0 s) :
    Keeps s0 (State.setBinding s k c v) := by
  unfold State.setBinding
  exact Keeps.mk' hs rfl rfl rfl

theorem State_setDom_keeps {s0 : State} {s : State} {d : Nat} {v : Domain} (hs : Keeps s0 s) : Keeps s0 (State.setDom s d v) := by
  unfold State.setDom
  exact Keeps.mk' hs rfl rfl rfl

theorem State_setTdom_keeps {s0 : State} {s : State} {k : Nat} {v : TDom} (hs : Keeps s0 s) : Keeps s0 (State.setTdom s k v) := by
  unfold State.setTdom
  exact Keeps.mk' hs rfl rfl rfl

theorem State_setChan_keeps {s0 : State} {s : State} {n : Nat} {v : Channel} (hs : Keeps s0 s) : Keeps s0 (State.setChan s n v) := by
  unfold State.setChan
  exact Keeps.mk' hs rfl rfl rfl

theorem State_tick_keeps {s0 : State} {s : State} (hs : Keeps s0 s) : Keeps s0 (State.tick s) := by
  unfold State.tick
  exact Keeps.mk' hs rfl rfl rfl

theorem State_drawn_keeps {s0 : State} {s : State} {n : Nat} (hs : Keeps s0 s) : Keeps s0 (State.drawn s n) := by
  unfold State.drawn
  exact Keeps.mk' hs rfl rfl rfl

theorem State_out_keeps {s0 : State} {s : State} {m : OutMsg} (hs : Keeps s0 s) : Keeps s0 (State.out s m) := by
  unfold State.out
  exact Keeps.mk' hs rfl rfl rfl

theorem State_access_keeps {s0 : State} {s : State} {m : Nat} {off : Nat} (hs : Keeps s0 s) : Keeps s0 (State.access s m off) := by
  unfold State.access
  exact Keeps.mk' hs rfl rfl rfl

end Sys2Proof.Machine
end

