-- ==== Sys2Proof/Laws/KeepsWire.lean ====
section
/-! SUPPORT. The operations of Machine/Wire.lean keep what Keeps says. -/

namespace Sys2Proof.Machine

theorem State_sendLink_keeps {s0 : State} {s : State} {k : Nat} {c : Nat} {stamp : Nat} {p : LPkt} (hs : Keeps s0 s) :
    Keeps s0 (State.sendLink s k c stamp p) := by
  unfold State.sendLink
  exact State_modPort_keeps (State_out_keeps hs)

theorem State_sendPeer_keeps {s0 : State} {s : State} {k : Nat} {c : Nat} {src : Src} {kind : Nat} {info : Nat} {addr : Nat} {cls : Nat} {lines : Nat} {payload : List (Nat × Bool)} {use : TokenUse} (hs : Keeps s0 s) :
    Keeps s0 (State.sendPeer s k c src kind info addr cls lines payload use) := by
  unfold State.sendPeer
  extract_lets x2 x3 x4 x5
  refine Keeps.mk' ?_ rfl rfl rfl
  rename_i y6 _
  unfold y6
  exact State_sendLink_keeps hs

theorem State_reply_keeps {s0 : State} {s : State} {k : Nat} {stamp : Nat} {p : LPkt} {kind : Nat} {info : Nat} {lines : Nat} {payload : List (Nat × Bool)} (hs : Keeps s0 s) :
    Keeps s0 (State.reply s k stamp p kind info lines payload) := by
  unfold State.reply
  exact State_sendLink_keeps hs

theorem State_mgmt_keeps {s0 : State} {s : State} {k : Nat} {kind : Nat} {fields : List Nat} (hs : Keeps s0 s) :
    Keeps s0 (State.mgmt s k kind fields) := by
  unfold State.mgmt
  exact State_out_keeps hs

end Sys2Proof.Machine
end

