-- ==== Sys2Proof/Laws/KeepsRecords.lean ====
section
/-! SUPPORT. The operations of Machine/Records.lean keep what Keeps says. -/

namespace Sys2Proof.Machine

theorem State_auditGeneral_keeps {s0 : State} {s : State} {event : Nat} {agent : Nat} {counter : Nat} {data : Nat} (hs : Keeps s0 s) :
    Keeps s0 (State.auditGeneral s event agent counter data) := by
  unfold State.auditGeneral
  extract_lets x2 x3
  exact Keeps.mk' hs rfl rfl rfl

theorem State_setBank_keeps {s0 : State} {s : State} {b : Nat} {v : FrqBank} (hs : Keeps s0 s) : Keeps s0 (State.setBank s b v) := by
  unfold State.setBank
  exact Keeps.mk' hs rfl rfl rfl

theorem State_bmcAlert_keeps {s0 : State} {s : State} {old : FrqBank} (hs : Keeps s0 s) : Keeps s0 (State.bmcAlert s old) := by
  unfold State.bmcAlert
  split
  · exact State_out_keeps hs
  · exact hs

theorem State_enterFrq_keeps {s0 : State} {s : State} {r : FaultRec} (hs : Keeps s0 s) : Keeps s0 (State.enterFrq s r) := by
  unfold State.enterFrq
  extract_lets x2 x3 x4 x5 x6
  have h7 : Keeps s0 x4 := by
    unfold x4
    exact Keeps.mk' hs rfl rfl rfl
  clear_value x4
  have h10 : Keeps s0 x5 := by
    unfold x5
    exact State_setBank_keeps h7
  clear_value x5
  have h13 : Keeps s0 x6 := by
    unfold x6
    exact State_setBank_keeps h10
  clear_value x6
  exact State_bmcAlert_keeps (State_setBank_keeps h13)

theorem State_pushFrq_keeps {s0 : State} {s : State} {r : FaultRec} (hs : Keeps s0 s) : Keeps s0 (State.pushFrq s r) := by
  unfold State.pushFrq
  split
  · exact State_enterFrq_keeps hs
  · split
    · exact Keeps.mk' hs rfl rfl rfl
    · exact Keeps.mk' hs rfl rfl rfl

theorem State_msix_keeps {s0 : State} {s : State} {f : Nat} {vec : Nat} (hs : Keeps s0 s) : Keeps s0 (State.msix s f vec) := by
  unfold State.msix
  extract_lets x2
  split
  · exact State_setFn_keeps hs
  · split
    · exact State_out_keeps hs
    · exact State_setFn_keeps hs

theorem State_signal_keeps {s0 : State} {s : State} {f : Nat} {vec : Nat} (hs : Keeps s0 s) : Keeps s0 (State.signal s f vec) := by
  unfold State.signal
  extract_lets x2 x3 x4
  split
  · exact State_msix_keeps (State_setFn_keeps hs)
  · exact State_setFn_keeps hs

theorem State_putEntry_keeps {s0 : State} {s : State} {f : Nat} {r : Nat} {i : Nat} {entry : Nat} (hs : Keeps s0 s) :
    Keeps s0 (State.putEntry s f r i entry) := by
  unfold State.putEntry
  extract_lets x2 x3
  split
  · exact State_out_keeps hs
  · exact State_setFn_keeps hs

theorem State_putEvent_keeps {s0 : State} {s : State} {f : Nat} {body : Nat} (hs : Keeps s0 s) : Keeps s0 (State.putEvent s f body).1 := by
  unfold State.putEvent
  extract_lets x2 x3 x4 x5 x6 x7 x8
  have h9 : Keeps s0 x5 := by
    unfold x5
    exact State_putEntry_keeps hs
  clear_value x5
  split
  · split
    · dsimp only
      exact State_signal_keeps (State_setFn_keeps h9)
    · dsimp only
      exact State_setFn_keeps hs
  · dsimp only
    exact hs

theorem State_reportDrop_keeps {s0 : State} {s : State} {f : Nat} {n : Nat} (hs : Keeps s0 s) : Keeps s0 (State.reportDrop s f n) := by
  unfold State.reportDrop
  split
  · exact hs
  · extract_lets x6
    have h7 : Keeps s0 x6 := by
      unfold x6
      exact State_pushFrq_keeps hs
    clear_value x6
    split
    · rename_i y11 y12 y13
      exact Keeps.of_fst (State_putEvent_keeps h7) y13
    · rename_i y17 y18 y19 y20 y21
      exact State_putEvent_keeps (State_pushFrq_keeps (Keeps.of_fst (State_putEvent_keeps h7) y21))

theorem State_event_keeps {s0 : State} {s : State} {f : Nat} {body : Nat} (hs : Keeps s0 s) : Keeps s0 (State.event s f body) := by
  unfold State.event
  split
  rename_i y2 y3 y4 y5
  exact State_reportDrop_keeps (Keeps.of_fst (State_putEvent_keeps hs) y5)

theorem State_stateEvent_keeps {s0 : State} {s : State} {c : Nat} {st : CtxSt} (hs : Keeps s0 s) : Keeps s0 (State.stateEvent s c st) := by
  unfold State.stateEvent
  extract_lets x2
  exact State_event_keeps hs

theorem State_sendRead_keeps {s0 : State} {s : State} {x : HRead} (hs : Keeps s0 s) : Keeps s0 (State.sendRead s x) := by
  unfold State.sendRead
  extract_lets x2 x3
  have h4 : Keeps s0 x2 := by
    unfold x2
    exact State_out_keeps hs
  clear_value x2
  exact Keeps.mk' h4 rfl rfl rfl

theorem State_hostRead_keeps {s0 : State} {s : State} {f : Nat} {addr : Nat} {n : Nat} {use : HReadUse} (hs : Keeps s0 s) :
    Keeps s0 (State.hostRead s f addr n use) := by
  unfold State.hostRead
  extract_lets x2 x3 x4
  have h5 : Keeps s0 x3 := by
    unfold x3
    exact Keeps.mk' hs rfl rfl rfl
  clear_value x3
  split
  · exact State_sendRead_keeps h5
  · exact Keeps.mk' h5 rfl rfl rfl

theorem State_fetch_keeps {s0 : State} {s : State} {f : Nat} (hs : Keeps s0 s) : Keeps s0 (State.fetch s f) := by
  unfold State.fetch
  split
  · extract_lets x4 x5
    exact State_hostRead_keeps (State_setFn_keeps hs)
  · exact hs

theorem State_complete_keeps {s0 : State} {s : State} {k : Cmd} {status : Nat} {detail : Nat} {extra : Nat} (hs : Keeps s0 s) :
    Keeps s0 (State.complete s k status detail extra) := by
  unfold State.complete
  extract_lets x2 x3 x4 x5 x6 x7 x8
  have h9 : Keeps s0 x5 := by
    unfold x5
    exact Keeps.mk' hs rfl rfl rfl
  clear_value x5
  have h12 : Keeps s0 x7 := by
    unfold x7
    exact State_putEntry_keeps h9
  clear_value x7
  have h15 : Keeps s0 x8 := by
    unfold x8
    exact State_setFn_keeps h12
  clear_value x8
  split
  · apply State_fetch_keeps
    split
    · exact State_signal_keeps h15
    · exact h15
  · exact h9

theorem State_completeFaulted_keeps {s0 : State} {s : State} {k : Cmd} {moved : Nat} {r : FaultRec} (hs : Keeps s0 s) :
    Keeps s0 (State.completeFaulted s k moved r) := by
  unfold State.completeFaulted
  exact State_complete_keeps hs

theorem State_faultCmd_keeps {s0 : State} {s : State} {cmd : Option (Nat × Nat)} {r : FaultRec} (hs : Keeps s0 s) :
    Keeps s0 (State.faultCmd s cmd r) := by
  unfold State.faultCmd
  split
  · exact State_completeFaulted_keeps hs
  · exact hs

theorem State_writeRec_keeps {s0 : State} {s : State} {r0 : FaultRec} (hs : Keeps s0 s) : Keeps s0 (State.writeRec s r0) := by
  unfold State.writeRec
  extract_lets x2 x3 x4 x5 x6 x7
  have h8 : Keeps s0 x3 := by
    unfold x3
    exact State_pushFrq_keeps hs
  clear_value x3
  have h11 : Keeps s0 x4 := by
    unfold x4
    exact State_event_keeps h8
  clear_value x4
  have h14 : Keeps s0 x5 := by
    unfold x5
    split
    · exact State_event_keeps h11
    · exact h11
  clear_value x5
  have h21 : Keeps s0 x6 := by
    unfold x6
    exact State_auditGeneral_keeps h14
  clear_value x6
  split
  · exact Keeps.mk' h21 rfl rfl rfl
  · exact h14

theorem State_note_keeps {s0 : State} {s : State} {r : FaultRec} (hs : Keeps s0 s) : Keeps s0 (State.note s r) := by
  unfold State.note
  split
  · exact hs
  · exact State_writeRec_keeps hs

theorem State_poisonRecs_keeps {s0 : State} {s : State} {h : Hbm} {c : Nat} (hs : Keeps s0 s) : Keeps s0 (State.poisonRecs s h c) := by
  unfold State.poisonRecs
  refine Keeps.foldl (fun x2 a4 h3 => ?_) ?_
  · exact State_writeRec_keeps h3
  · exact hs

theorem State_endCmds_keeps {s0 : State} {s : State} {h : Hbm} {c : Nat} {r : Option FaultRec} {wasLoading : Bool} (hs : Keeps s0 s) :
    Keeps s0 (State.endCmds s h c r wasLoading) := by
  unfold State.endCmds
  refine Keeps.foldl (fun x2 a4 h3 => ?_) ?_
  · split
    · split
      · exact State_completeFaulted_keeps h3
      · exact State_complete_keeps h3
    · exact State_complete_keeps h3
  · exact hs

theorem State_answerPeer_keeps {s0 : State} {s : State} {i : Nat} {kind : Nat} {reason : Nat} (hs : Keeps s0 s) :
    Keeps s0 (State.answerPeer s i kind reason) := by
  unfold State.answerPeer
  split
  · exact hs
  · extract_lets x9 x10
    have h11 : Keeps s0 x9 := by
      unfold x9
      exact State_reply_keeps hs
    clear_value x9
    exact Keeps.mk' h11 rfl rfl rfl

theorem State_regResult_keeps {s0 : State} {s : State} {id : Nat} {r : WReg} {status : Nat} {slot : Nat} (hs : Keeps s0 s) :
    Keeps s0 (State.regResult s id r status slot) := by
  unfold State.regResult
  extract_lets x2 x3
  have h4 : Keeps s0 x3 := by
    unfold x3
    split
    · exact Keeps.mk' hs rfl rfl rfl
    · exact hs
  clear_value x3
  split
  · split
    · exact h4
    · split
      · exact State_complete_keeps h4
      · exact h4
  · exact h4

theorem State_refuseEnded_keeps {s0 : State} {s : State} {x : SyuItem} (hs : Keeps s0 s) : Keeps s0 (State.refuseEnded s x) := by
  unfold State.refuseEnded
  split
  · exact State_note_keeps (State_answerPeer_keeps hs)
  · exact State_regResult_keeps hs
  · exact hs

theorem State_endSyu_keeps {s0 : State} {s : State} {c : Nat} {tiles : List Nat} (hs : Keeps s0 s) : Keeps s0 (State.endSyu s c tiles) := by
  unfold State.endSyu
  refine Keeps.foldl (fun x2 a4 h3 => ?_) ?_
  · exact State_refuseEnded_keeps h3
  · exact Keeps.mk' hs rfl rfl rfl

theorem State_endBindings_keeps {s0 : State} {s : State} {c : Nat} {cause : Nat} (hs : Keeps s0 s) :
    Keeps s0 (State.endBindings s c cause) := by
  unfold State.endBindings
  extract_lets x2 x3
  have h4 : Keeps s0 x2 := by
    unfold x2
    refine Keeps.foldl (fun x6 x7 h8 => ?_) ?_
    · extract_lets x10 x11
      have h12 : Keeps s0 x11 := by
        unfold x11
        split
        · exact State_out_keeps h8
        · exact h8
      clear_value x11
      exact State_setBinding_keeps h12
    · exact hs
  clear_value x2
  exact Keeps.mk' h4 rfl rfl rfl

theorem State_endTiles_keeps {s0 : State} {s : State} {c : Nat} (hs : Keeps s0 s) : Keeps s0 (State.endTiles s c) := by
  unfold State.endTiles
  extract_lets x2 x3 x4
  have h5 : Keeps s0 x3 := by
    unfold x3
    refine Keeps.foldl (fun x7 x8 h9 => ?_) ?_
    · exact State_setTset_keeps h9
    · exact hs
  clear_value x3
  refine Keeps.mkAll ?_ (fun w14 => ?_) (fun w14 => ?_) (fun w14 => ?_) ?_
  · exact h5
  · exact h5.hbm_wf w14
  · refine tilesWf_mvals (fun _ _ h18 => ?_) ?_
    · split
      · dsimp only
        exact h18
      · exact h18
    · exact h5.tiles_wf w14
  · exact h5.images_wf w14
  · exact h5.fuses

theorem State_endSamples_keeps {s0 : State} {s : State} {c : Nat} (hs : Keeps s0 s) : Keeps s0 (State.endSamples s c) := by
  unfold State.endSamples
  extract_lets x2 x3 x4
  refine Keeps.mkAll ?_ (fun w6 => ?_) (fun w6 => ?_) (fun w6 => ?_) ?_
  · exact hs
  · exact hs.hbm_wf w6
  · refine tilesWf_mvals (fun _ _ h10 => ?_) ?_
    · split
      · split
        · dsimp only
          rfl
        · exact h10
      · dsimp only
        exact h10
    · exact hs.tiles_wf w6
  · dsimp only
    refine imagesWf_filter ?_
    exact hs.images_wf w6
  · exact hs.fuses

theorem State_crtEnd_keeps {s0 : State} {s : State} {status : Nat} {reason : Nat} {done : Nat} (hs : Keeps s0 s) :
    Keeps s0 (State.crtEnd s status reason done) := by
  unfold State.crtEnd
  exact Keeps.mk' hs rfl rfl rfl

theorem State_endCrt_keeps {s0 : State} {s : State} {c : Nat} (hs : Keeps s0 s) : Keeps s0 (State.endCrt s c) := by
  unfold State.endCrt
  split
  · split
    · exact hs
    · split
      · exact State_crtEnd_keeps hs
      · exact Keeps.mk' hs rfl rfl rfl
  · exact hs

theorem State_startTeardown_keeps {s0 : State} {s : State} {c : Nat} {r : Option FaultRec} (hs : Keeps s0 s) :
    Keeps s0 (State.startTeardown s c r) := by
  unfold State.startTeardown
  split
  · extract_lets x3 x4 x5 x6 x7 x8 x9 x10 x11
    have h12 : Keeps s0 x5 := by
      unfold x5
      exact State_setCtx_keeps hs
    clear_value x5
    have h13 : Keeps s0 x6 := by
      unfold x6
      exact State_endTiles_keeps (State_endSyu_keeps h12)
    clear_value x6
    have h14 : Keeps s0 x7 := by
      unfold x7
      exact Keeps.mk' h13 rfl rfl rfl
    clear_value x7
    have h15 : Keeps s0 x8 := by
      unfold x8
      exact State_endBindings_keeps h14
    clear_value x8
    have h16 : Keeps s0 x9 := by
      unfold x9
      exact State_endCrt_keeps (State_endSamples_keeps h15)
    clear_value x9
    have h17 : Keeps s0 x11 := by
      unfold x11
      exact State_setTel_keeps h16
    clear_value x11
    exact State_stateEvent_keeps (State_endCmds_keeps (State_poisonRecs_keeps h17))
  · exact hs

theorem State_consequence_keeps {s0 : State} {s : State} {r : FaultRec} (hs : Keeps s0 s) : Keeps s0 (State.consequence s r) := by
  unfold State.consequence
  split
  · exact State_startTeardown_keeps hs
  · exact hs

theorem State_raise_keeps {s0 : State} {s : State} {r : FaultRec} (hs : Keeps s0 s) : Keeps s0 (State.raise s r) := by
  unfold State.raise
  split
  · exact hs
  · exact State_consequence_keeps (State_writeRec_keeps hs)

theorem State_raiseAll_keeps {s0 : State} {s : State} {rs : List FaultRec} (hs : Keeps s0 s) : Keeps s0 (State.raiseAll s rs) := by
  unfold State.raiseAll
  extract_lets x2
  refine Keeps.foldl (fun x4 x5 h6 => ?_) ?_
  · exact State_consequence_keeps h6
  · refine Keeps.foldl (fun x10 x11 h12 => ?_) ?_
    · exact State_writeRec_keeps h12
    · exact hs

theorem State_afterOrder7_keeps {s0 : State} {s : State} (hs : Keeps s0 s) : Keeps s0 (State.afterOrder7 s) := by
  unfold State.afterOrder7
  refine Keeps.foldl (fun x2 a4 h3 => ?_) ?_
  · split
    · split
      · exact State_consequence_keeps h3
      · exact h3
    · exact h3
  · exact hs

theorem State_markTile_keeps {s0 : State} {s : State} {t : Nat} {cause : Nat} (hs : Keeps s0 s) : Keeps s0 (State.markTile s t cause) := by
  unfold State.markTile
  extract_lets x2 x3 x4 x5
  split
  · exact hs
  · split
    · exact Keeps.mk' hs rfl rfl rfl
    · exact Keeps.mk' hs rfl rfl rfl

theorem State_retirePending_keeps {s0 : State} {s : State} {t : Nat} {cause : Nat} (hs : Keeps s0 s) :
    Keeps s0 (State.retirePending s t cause) := by
  unfold State.retirePending
  exact State_raise_keeps (State_markTile_keeps hs)

end Sys2Proof.Machine
end

