-- ==== Sys2Proof/Laws/KeepsOps.lean ====
section
/-! SUPPORT. The operations of Machine/Ops.lean keep what Keeps says. -/

namespace Sys2Proof.Machine

theorem Tile_putLine_keeps {t : Tile} {l : Nat} {v : Nat} {poison : Bool} (ht : Memory.wf t.mem = true) :
    Memory.wf (Tile.putLine t l v poison).mem = true := by
  unfold Tile.putLine
  dsimp only
  refine memWrite_wf ?_
  exact ht

theorem Tile_putNarrow_keeps {t : Tile} {a : Nat} {n : Nat} {v : Nat} (ht : Memory.wf t.mem = true) :
    Memory.wf (Tile.putNarrow t a n v).mem = true := by
  unfold Tile.putNarrow
  dsimp only
  refine memWrite_wf ?_
  exact ht

theorem State_modThread_keeps {s0 : State} {s : State} {t : Nat} {n : Nat} {f : Thread → Thread} (hs : Keeps s0 s) :
    Keeps s0 (State.modThread s t n f) := by
  unfold State.modThread
  refine Keeps.modTile ?_ (fun w4 x2 h3 => ?_)
  · exact hs
  · exact Tile_modThread_keeps h3

theorem State_noteThread_keeps {s0 : State} {s : State} {t n : Nat} {fill : Bool} (hs : Keeps s0 s) : Keeps s0 (State.noteThread s t n fill) := by
  unfold State.noteThread
  exact State_modThread_keeps hs

theorem State_modRegs_keeps {s0 : State} {s : State} {o : Op} {f : RegSet → RegSet} (hs : Keeps s0 s) : Keeps s0 (State.modRegs s o f) := by
  unfold State.modRegs
  exact State_modThread_keeps hs

theorem Tile_digestBytes_keeps {t : Tile} {th : Nat} {v : Nat} {n : Nat} (ht : Memory.wf t.mem = true) :
    Memory.wf (Tile.digestBytes t th v n).mem = true := by
  unfold Tile.digestBytes
  split
  · dsimp only
    exact ht
  · exact ht

theorem State_missSample_keeps {s0 : State} {s : State} {t : Nat} {i : Nat} (hs : Keeps s0 s) : Keeps s0 (State.missSample s t i) := by
  unfold State.missSample
  split
  · exact hs
  · split
    · refine Keeps.update (s := s.modTile t fun x => { cfg := {}, err := x.err }) (Keeps.modTile hs fun _ _ _ => rfl) rfl (.refl _) id id
        fun w => imagesWf_map (fun x hx => ?_) w
      split <;> exact hx
    · refine hs.update rfl (.refl _) id (fun w => ?_) imagesWf_filter
      dsimp only
      refine tilesWf_mvals (fun _ v h => ?_) w
      split
      · rfl
      · split <;> exact h

theorem State_logInput_keeps {s0 : State} {s : State} {t : Nat} {e : LogEnt} (hs : Keeps s0 s) : Keeps s0 (State.logInput s t e) := by
  unfold State.logInput
  split
  · exact hs
  · extract_lets x9 x10
    split
    · exact State_missSample_keeps hs
    · refine Keeps.mkAll ?_ (fun w17 => ?_) (fun w17 => ?_) (fun w17 => ?_) ?_
      · exact hs
      · exact hs.hbm_wf w17
      · exact hs.tiles_wf w17
      · dsimp only
        refine imagesWf_map (fun _ _ => ?_) ?_
        · unfold x9
          split
          · assumption
          · rename_i y29 y30 y31
            exact y30
        · exact hs.images_wf w17
      · exact hs.fuses

theorem State_landLine_keeps {s0 : State} {s : State} {t : Nat} {l : Nat} {v : Nat} {poison : Bool} {again : Bool} (hs : Keeps s0 s) :
    Keeps s0 (State.landLine s t l v poison again) := by
  unfold State.landLine
  extract_lets x2
  have h3 : Keeps s0 x2 := by
    unfold x2
    refine Keeps.modTile ?_ (fun w7 x5 h6 => ?_)
    · exact hs
    · exact Tile_putLine_keeps h6
  clear_value x2
  split
  · exact State_logInput_keeps h3
  · exact h3

theorem State_opLine_keeps {s0 : State} {s : State} {o : Op} {l : Nat} {v : Nat} {poison : Bool} (hs : Keeps s0 s) :
    Keeps s0 (State.opLine s o l v poison) := by
  unfold State.opLine
  refine Keeps.modTile ?_ (fun w4 x2 h3 => ?_)
  · exact hs
  · exact Tile_digestBytes_keeps (Tile_putLine_keeps h3)

theorem State_opNarrow_keeps {s0 : State} {s : State} {o : Op} {a : Nat} {n : Nat} {v : Nat} (hs : Keeps s0 s) :
    Keeps s0 (State.opNarrow s o a n v) := by
  unfold State.opNarrow
  refine Keeps.modTile ?_ (fun w4 x2 h3 => ?_)
  · exact hs
  · extract_lets x7
    have h8 : Memory.wf x7.mem = true := by
      unfold x7
      exact Tile_putNarrow_keeps h3
    clear_value x7
    exact Tile_digestBytes_keeps h8

theorem State_opLines_keeps {s0 : State} {s : State} {o : Op} {l : Nat} {x3 : List (Nat × Bool)} (hs : Keeps s0 s) :
    Keeps s0 (State.opLines s o l x3) := by
  induction x3 generalizing s l with
  | nil => exact hs
  | cons v vs ih => exact ih (State_opLine_keeps hs)

theorem State_detRecord_keeps {s0 : State} {s : State} {t : Nat} {d : Detection} {stopped : Bool} (hs : Keeps s0 s) :
    Keeps s0 (State.detRecord s t d stopped) := by
  unfold State.detRecord
  extract_lets x2
  split
  · exact State_raise_keeps hs
  · exact State_raise_keeps hs
  · exact State_raise_keeps hs

theorem State_transient_keeps {s0 : State} {s : State} {t : Nat} (hs : Keeps s0 s) : Keeps s0 (State.transient s t) := by
  unfold State.transient
  extract_lets x2 x3 x4 x5
  have h6 : Keeps s0 x3 := by
    unfold x3
    refine Keeps.modTile ?_ (fun w10 x8 h9 => ?_)
    · exact hs
    · dsimp only
      exact h9
  clear_value x3
  have h14 : Keeps s0 x5 := by
    unfold x5
    exact Keeps.mk' h6 rfl rfl rfl
  clear_value x5
  split
  · exact State_retirePending_keeps h14
  · exact h14

theorem State_stopCurrent_keeps {s0 : State} {s : State} {t : Nat} {d : Detection} (hs : Keeps s0 s) :
    Keeps s0 (State.stopCurrent s t d) := by
  unfold State.stopCurrent
  split
  · exact hs
  · extract_lets x9
    have h10 : Keeps s0 x9 := by
      unfold x9
      exact State_detRecord_keeps hs
    clear_value x9
    split
    · split
      · exact h10
      · exact State_transient_keeps h10
    · exact State_transient_keeps h10
    · exact h10

theorem State_detect_keeps {s0 : State} {s : State} {t : Nat} {d : Detection} (hs : Keeps s0 s) : Keeps s0 (State.detect s t d) := by
  unfold State.detect
  extract_lets x2 x3 x4 x5 x6 x7
  have h8 : Keeps s0 x2 := by
    unfold x2
    refine Keeps.modTile ?_ (fun w9 x10 h11 => ?_)
    · exact hs
    · assumption
  clear_value x2
  have h12 : Keeps s0 x4 := by
    unfold x4
    exact State_stopCurrent_keeps h8
  clear_value x4
  have h13 : Keeps s0 x6 := by
    unfold x6
    exact Keeps.mk' h12 rfl rfl rfl
  clear_value x6
  have h14 : Keeps s0 x7 := by
    unfold x7
    split
    · exact State_markTile_keeps h13
    · exact h13
  clear_value x7
  split
  · split
    · exact State_transient_keeps (State_missSample_keeps h8)
    · exact State_missSample_keeps h8
  · split
    · apply State_raise_keeps
      refine Keeps.modTile ?_ (fun w33 x34 h35 => ?_)
      · exact h14
      · exact h35
    · refine Keeps.modTile ?_ (fun w37 x38 h39 => ?_)
      · exact h12
      · exact h39

theorem Tile_startLate_keeps {t : Tile} (ht : Memory.wf t.mem = true) : Memory.wf (Tile.startLate t).mem = true := by
  unfold Tile.startLate
  dsimp only
  exact foldl_tile_wf (fun _ _ h => Tile_modThread_keeps h) ht

theorem State_startLate_keeps {s0 : State} {s : State} {t : Nat} (hs : Keeps s0 s) : Keeps s0 (State.startLate s t) := by
  have hy (w : s0.memWf = true) : Memory.wf (s.tile t).startLate.mem = true := Tile_startLate_keeps (tile_wf (hs.tiles_wf w))
  unfold State.startLate
  extract_lets y s1
  have h1 : Keeps s0 s1 := Keeps.setTile hs hy
  clear_value s1
  refine h1.mkAll h1.hbm_wf h1.tiles_wf (fun w => imagesWf_map (fun x hx => ?_) (h1.images_wf w)) h1.fuses
  split
  · exact hy w
  · exact hx

theorem State_rerunOk_keeps {s0 : State} {s : State} {t : Nat} (hs : Keeps s0 s) : Keeps s0 (State.rerunOk s t) := by
  unfold State.rerunOk
  split
  · exact hs
  · extract_lets x9 x10
    have h11 : Keeps s0 x9 := by
      unfold x9
      exact State_detRecord_keeps hs
    clear_value x9
    have h14 : Keeps s0 x10 := by
      unfold x10
      split
      · exact State_transient_keeps h11
      · exact h11
    clear_value x10
    split
    · exact State_startLate_keeps h14
    refine Keeps.modTile ?_ (fun w28 x26 h27 => ?_)
    · exact h14
    · dsimp only
      exact h27

theorem State_postInc_keeps {s0 : State} {s : State} {o : Op} {xs : List OpAcc} (hs : Keeps s0 s) : Keeps s0 (State.postInc s o xs) := by
  unfold State.postInc
  refine Keeps.foldl (fun x2 x3 h4 => ?_) ?_
  · extract_lets x6
    split
    · exact State_modRegs_keeps h4
    · exact h4
  · exact hs

theorem Tile_startFill_keeps {t : Tile} {th : Nat} (ht : Memory.wf t.mem = true) : Memory.wf (Tile.startFill t th).mem = true := by
  unfold Tile.startFill
  split
  · exact ht
  · split
    · exact ht
    · exact Tile_modThread_keeps ht

theorem Tile_endFill_keeps {t : Tile} {th : Nat} (ht : Memory.wf t.mem = true) : Memory.wf (Tile.endFill t th).mem = true := by
  unfold Tile.endFill
  split
  · exact ht
  · split
    · exact Tile_modThread_keeps ht
    · exact ht

theorem Tile_fillView_keeps {t : Tile} (ht : Memory.wf t.mem = true) : Memory.wf (Tile.fillView t).mem = true := by
  unfold Tile.fillView
  split
  · dsimp only
    exact ht
  · exact ht

theorem State_fillRerunOk_keeps {s0 : State} {s : State} {o : Op} (hs : Keeps s0 s) : Keeps s0 (State.fillRerunOk s o) := by
  unfold State.fillRerunOk
  split
  · split
    · exact State_rerunOk_keeps hs
    · exact hs
  · exact hs

theorem State_advance_keeps {s0 : State} {s : State} {o : Op} {n : Nat} (hs : Keeps s0 s) : Keeps s0 (State.advance s o n) := by
  unfold State.advance
  extract_lets x2
  have h3 : Keeps s0 x2 := by
    unfold x2
    exact State_modRegs_keeps hs
  clear_value x2
  split
  · apply State_fillRerunOk_keeps
    refine Keeps.modTile ?_ (fun w12 x10 h11 => ?_)
    · exact h3
    · exact Tile_endFill_keeps h11
  · exact h3

theorem State_opFault_keeps {s0 : State} {s : State} {o : Op} {c : Chk} (hs : Keeps s0 s) : Keeps s0 (State.opFault s o c) := by
  unfold State.opFault
  split
  · exact State_missSample_keeps hs
  · exact State_raise_keeps (State_modThread_keeps hs)

theorem State_begun_keeps {s0 : State} {s : State} {o : Op} {l : Nat} {executes : Bool} (hs : Keeps s0 s) :
    Keeps s0 (State.begun s o l executes) := by
  unfold State.begun
  refine Keeps.modTile ?_ (fun w4 x2 h3 => ?_)
  · exact State_modRegs_keeps hs
  · exact Tile_digestBytes_keeps h3

theorem runEffect_keeps {s0 : State} {sp : OpSpec} {o : Op} {l : Nat} {s : State} (hsp : ∀ y z, Keeps s0 y → (sp.effect y z).Keeps s0) (hs : Keeps s0 s) :
    (runEffect sp o l s).Keeps s0 := by
  unfold runEffect
  split
  · rename_i y2 y3 y4
    refine Eff.keeps_done.2 ?_
    split
    · refine Eff.keeps_of_eq ?_ y4
      apply hsp
      exact State_postInc_keeps (State_begun_keeps hs)
    · apply State_advance_keeps
      refine Eff.keeps_of_eq ?_ y4
      apply hsp
      exact State_postInc_keeps (State_begun_keeps hs)
  · apply hsp
    exact State_postInc_keeps (State_begun_keeps hs)

theorem runChecked_keeps {s0 : State} {sp : OpSpec} {o : Op} {l : Nat} {s : State} (hsp : ∀ y z, Keeps s0 y → (sp.effect y z).Keeps s0) (hs : Keeps s0 s) :
    (runChecked sp o l s).Keeps s0 := by
  unfold runChecked
  extract_lets x2 x3
  split
  · trivial
  · split
    · trivial
    · split
      · trivial
      · split
        · split
          · exact State_advance_keeps (State_modRegs_keeps (State_begun_keeps hs))
          · exact State_advance_keeps (State_begun_keeps hs)
        · split
          · trivial
          · split
            · trivial
            · split
              · trivial
              · split
                · trivial
                · split
                  · trivial
                  · exact runEffect_keeps hsp hs

theorem runFetched_keeps {s0 : State} {sp : OpSpec} {o : Op} {s : State} (hsp : ∀ y z, Keeps s0 y → (sp.effect y z).Keeps s0) (hs : Keeps s0 s) :
    (runFetched sp o s).Keeps s0 := by
  unfold runFetched
  split
  · apply runChecked_keeps
    · intro x7
      intro x9
      intro x11
      apply hsp
      exact x11
    · exact hs
  · split
    · trivial
    · split
      · trivial
      · split
        · trivial
        · apply runChecked_keeps
          · intro x35
            intro x37
            intro x39
            apply hsp
            exact x39
          · exact hs

theorem State_issueState_keeps {s0 : State} {s : State} {tile : Nat} {th : Nat} (hs : Keeps s0 s) :
    Keeps s0 (State.issueState s tile th) := by
  unfold State.issueState
  split
  · exact hs
  · refine Keeps.modTile ?_ (fun w8 x6 h7 => ?_)
    · exact hs
    · exact Tile_startFill_keeps (Tile_fillView_keeps h7)

theorem Tile_decided_keeps {t : Tile} {n : Nat} {commit : Bool} (ht : Memory.wf t.mem = true) :
    Memory.wf (Tile.decided t n commit).mem = true := by
  unfold Tile.decided
  split
  · dsimp only
    exact ht
  · exact ht

theorem Tile_replay_keeps {t y : Tile} {e : LogEnt} (ht : Memory.wf t.mem = true) (h : t.replay e = some y) :
    Memory.wf y.mem = true := by
  unfold Tile.replay at h
  split at h
  · cases h; exact Tile_putLine_keeps ht
  · split at h
    · cases h; exact Tile_modThread_keeps ht
    · cases h
  · split at h
    · cases h; exact Tile_putLine_keeps (poison := false) ht
    · cases h
  · cases h; exact Tile_decided_keeps ht
  · cases h; exact ht

theorem State_waitOrReplay_keeps {s0 : State} {s : State} {tile th : Nat} (hs : Keeps s0 s) : OutKeeps s0 (State.waitOrReplay s tile th) := by
  unfold State.waitOrReplay
  split
  · exact OutKeeps.turnedAway hs
  · extract_lets t
    have ht : tilesWf s.tiles = true → Memory.wf t.mem = true := fun w => tile_wf w
    split
    · split
      · rename_i y hy
        refine OutKeeps.next.2 (Keeps.setTile hs fun h => ?_)
        obtain ⟨e, _, he⟩ := Option.bind_eq_some_iff.1 hy
        show Memory.wf y.mem = true
        exact Tile_replay_keeps (ht (hs.tiles_wf h)) he
      · exact OutKeeps.next.2 (Keeps.setTile hs fun h => ht (hs.tiles_wf h))
    · exact OutKeeps.next.2 (Keeps.setTile hs fun h => ht (hs.tiles_wf h))

theorem runOp_keeps {s0 : State} {i : Sys2Proof.Instr} {tile : Nat} {th : Nat} {w : BitVec 128} {sp : OpSpec} {s : State} (hsp : ∀ y z, Keeps s0 y → (sp.effect y z).Keeps s0) (hs : Keeps s0 s) :
    OutKeeps s0 (runOp i tile th w sp s) := by
  unfold runOp
  refine OutKeeps.guardWf ?_
  split
  · extract_lets x5 x6
    have h7 : Keeps s0 x5 := by
      unfold x5
      exact State_issueState_keeps hs
    clear_value x5
    split
    · split
      · rename_i y13 y14 y15
        refine OutKeeps.next.2 ?_
        refine Eff.keeps_of_eq ?_ y15
        apply runFetched_keeps
        · intro x20
          intro x22
          intro x24
          apply hsp
          exact x24
        · exact h7
      · exact OutKeeps.next.2 (State_opFault_keeps h7)
      · exact State_waitOrReplay_keeps hs
      · exact OutKeeps.next.2 (State_detect_keeps h7)
    · exact State_waitOrReplay_keeps hs
  · exact OutKeeps.turnedAway hs

theorem State_outside_keeps {s0 : State} {s : State} {o : Op} {target : Nat} {content : Nat} {n : Nat} (hs : Keeps s0 s) :
    Keeps s0 (State.outside s o target content n).2 := by
  unfold State.outside
  extract_lets x2 x3
  have h4 : Keeps s0 x2 := by
    unfold x2
    refine Keeps.modTile ?_ (fun w8 x6 h7 => ?_)
    · exact hs
    · exact Tile_digestBytes_keeps (Tile_digestBytes_keeps h7)
  clear_value x2
  split
  · dsimp only
    exact h4
  · split
    · dsimp only
      exact h4
    · split
      · dsimp only
        exact State_modThread_keeps h4
      · dsimp only
        exact State_modThread_keeps h4

theorem State_takeTicket_keeps {s0 : State} {s : State} {o : Op} (hs : Keeps s0 s) : Keeps s0 (State.takeTicket s o) := by
  unfold State.takeTicket
  split
  · exact State_modRegs_keeps hs
  · exact hs

theorem State_asyncTicket_keeps {s0 : State} {s : State} {o : Op} {suppressed : Bool} (hs : Keeps s0 s) :
    Keeps s0 (State.asyncTicket s o suppressed) := by
  unfold State.asyncTicket
  split
  · exact hs
  · exact State_takeTicket_keeps hs

theorem State_freeTicket_keeps {s0 : State} {s : State} {w : Who} {again : Bool} (hs : Keeps s0 s) :
    Keeps s0 (State.freeTicket s w again) := by
  unfold State.freeTicket
  split
  · exact hs
  · exact State_logInput_keeps (State_modThread_keeps hs)

theorem State_fresh_keeps {s0 : State} {s : State} (hs : Keeps s0 s) : Keeps s0 (State.fresh s) := by
  unfold State.fresh
  exact Keeps.mk' hs rfl rfl rfl

theorem State_issueMemAt_keeps {s0 : State} {s : State} {stamp : Nat} {kind : MemOpKind} {src : Src} {ctx : Nat} {va : Nat} {write : Bool} {snap : Bool} {lines : List (Nat × Bool)} (hs : Keeps s0 s) :
    Keeps s0 (State.issueMemAt s stamp kind src ctx va write snap lines) := by
  unfold State.issueMemAt
  extract_lets x2 x3
  exact Keeps.mk' hs rfl rfl rfl

theorem State_issueMem_keeps {s0 : State} {s : State} {kind : MemOpKind} {src : Src} {ctx : Nat} {va : Nat} {write : Bool} {snap : Bool} {lines : List (Nat × Bool)} (hs : Keeps s0 s) :
    Keeps s0 (State.issueMem s kind src ctx va write snap lines) := by
  unfold State.issueMem
  exact State_issueMemAt_keeps hs

end Sys2Proof.Machine
end

