-- ==== Sys2Proof/Laws/KeepsHbmLines.lean ====
section
/-! SUPPORT. The operations of Machine/HbmLines.lean keep what Keeps says. -/

namespace Sys2Proof.Machine

theorem State_storeLine_keeps {s0 : State} {s : State} {line : Nat} {v : Nat} {poison : Bool} (hs : Keeps s0 s) :
    Keeps s0 (State.storeLine s line v poison) := by
  unfold State.storeLine
  refine Keeps.mkAll ?_ (fun w2 => ?_) (fun w2 => ?_) (fun w2 => ?_) ?_
  · exact hs
  · extract_lets x5
    dsimp only
    refine memWrite_wf ?_
    exact hs.hbm_wf w2
  · exact hs.tiles_wf w2
  · exact hs.images_wf w2
  · exact hs.fuses

theorem State_modEntry_keeps {s0 : State} {s : State} {i : Nat} {f : FEntry → FEntry} (hs : Keeps s0 s) :
    Keeps s0 (State.modEntry s i f) := by
  unfold State.modEntry
  exact Keeps.mk' hs rfl rfl rfl

theorem State_putStaged_keeps {s0 : State} {s : State} {c : Nat} {m : Memory} {lo : Nat} {hi : Nat} (hs : Keeps s0 s) :
    Keeps s0 (State.putStaged s c m lo hi) := by
  unfold State.putStaged
  exact State_issueMem_keeps hs

theorem State_putTrace_keeps {s0 : State} {s : State} {t n l : Nat} {vs : List (Nat × Bool)} (hs : Keeps s0 s) :
    Keeps s0 (State.putTrace s t n l vs) := by
  unfold State.putTrace
  exact State_issueMem_keeps hs

end Sys2Proof.Machine
end

