-- ==== Sys2Proof/Laws/KeepsStats.lean ====
section
/-! SUPPORT. The operations of Machine/Stats.lean keep what Keeps says. -/

namespace Sys2Proof.Machine

theorem State_sendSyuAt_keeps {s0 : State} {s : State} {stamp : Nat} {src : Src} {ctx : Nat} {who : Option Who} {hostCmd : Option (Nat × Nat)} {tag : Nat} {b : SyuBody} (hs : Keeps s0 s) :
    Keeps s0 (State.sendSyuAt s stamp src ctx who hostCmd tag b) := by
  unfold State.sendSyuAt
  exact Keeps.mk' hs rfl rfl rfl

theorem State_sendSyu_keeps {s0 : State} {s : State} {src : Src} {ctx : Nat} {who : Option Who} {hostCmd : Option (Nat × Nat)} {tag : Nat} {b : SyuBody} (hs : Keeps s0 s) :
    Keeps s0 (State.sendSyu s src ctx who hostCmd tag b) := by
  unfold State.sendSyu
  exact Keeps.mk' hs rfl rfl rfl

theorem Tile_countLines_keeps {t : Tile} {l : Nat} {x2 : List (List Elem)} (ht : Memory.wf t.mem = true) :
    Memory.wf (Tile.countLines t l x2).mem = true := by
  induction x2 generalizing t l with
  | nil => exact ht
  | cons v vs ih =>
    unfold Tile.countLines
    refine ih ?_
    split
    · split <;> exact ht
    · exact ht

theorem State_castVote_keeps {s0 : State} {s : State} {o : Op} (hs : Keeps s0 s) : Keeps s0 (State.castVote s o) := by
  unfold State.castVote
  split
  · exact hs
  · exact State_sendSyu_keeps hs

theorem Tile_digestCounts_keeps {t : Tile} {th : Nat} {l : Nat} {x2 : List (List Elem)} (ht : Memory.wf t.mem = true) :
    Memory.wf (Tile.digestCounts t th l x2).mem = true := by
  induction x2 generalizing t th l with
  | nil =>
    unfold Tile.digestCounts
    exact ht
  | cons y0 ys ih =>
    unfold Tile.digestCounts
    extract_lets x3 x4
    have h5 : Memory.wf x4.mem = true := by
      unfold x4
      split
      · split
        · apply Tile_digestBytes_keeps
          exact Tile_digestBytes_keeps ht
        · exact ht
      · exact ht
    clear_value x4
    exact ih h5

theorem State_digestVote_keeps {s0 : State} {s : State} {o : Op} (hs : Keeps s0 s) : Keeps s0 (State.digestVote s o) := by
  unfold State.digestVote
  split
  · refine State_modThread_keeps (Keeps.modTile ?_ (fun w5 x6 h7 => ?_))
    · exact hs
    · exact Tile_digestBytes_keeps (Tile_digestBytes_keeps h7)
  · exact hs

theorem State_counted_keeps {s0 : State} {s : State} {o : Op} (hs : Keeps s0 s) : Keeps s0 (State.counted s o).2 := by
  unfold State.counted
  extract_lets x2
  split
  · dsimp only
    exact hs
  · split
    · dsimp only
      exact State_modThread_keeps hs
    · dsimp only
      exact State_modThread_keeps hs

theorem State_stats_keeps {s0 : State} {s : State} {o : Op} {l : Nat} {es : List (List Elem)} (hs : Keeps s0 s) :
    Keeps s0 (State.stats s o l es) := by
  unfold State.stats
  extract_lets x2 x3 x4 x5
  have h6 : Keeps s0 x4 := by
    unfold x4
    split
    · refine Keeps.modTile ?_ (fun w8 x9 h10 => ?_)
      · exact hs
      · exact Tile_digestCounts_keeps h10
    · exact hs
  clear_value x4
  have h12 : Keeps s0 x5 := by
    unfold x5
    split
    · exact State_digestVote_keeps h6
    · exact h6
  clear_value x5
  split
  · rename_i y16 y17
    have h18 : Keeps s0 y16 := Keeps.of_snd (State_counted_keeps h12) y17
    exact h18
  · rename_i y20 y21
    have h22 : Keeps s0 y20 := Keeps.of_snd (State_counted_keeps h12) y21
    extract_lets x23
    have h24 : Keeps s0 x23 := by
      unfold x23
      split
      · refine Keeps.modTile ?_ (fun w26 x27 h28 => ?_)
        · exact h22
        · exact Tile_countLines_keeps h28
      · exact h22
    clear_value x23
    split
    · exact State_castVote_keeps h24
    · exact h24

theorem State_sendPatina_keeps {s0 : State} {s : State} {t : Nat} {c : Nat} (hs : Keeps s0 s) : Keeps s0 (State.sendPatina s t c) := by
  unfold State.sendPatina
  extract_lets x2 x3
  have h7 : Keeps s0 x3 := by
    unfold x3
    refine Keeps.modTile ?_ (fun w11 x9 h10 => ?_)
    · exact hs
    · dsimp only
      exact h10
  clear_value x3
  split
  · exact hs
  · exact Keeps.mk' h7 rfl rfl rfl

end Sys2Proof.Machine
end

