-- ==== Sys2Proof/Laws/KeepsMxe.lean ====
section
/-! SUPPORT. The operations of Machine/Mxe.lean keep what Keeps says. -/

namespace Sys2Proof.Machine

theorem Tile_setBlock_keeps {t : Tile} {b : Nat} {v : Block} (ht : Memory.wf t.mem = true) :
    Memory.wf (Tile.setBlock t b v).mem = true := by
  unfold Tile.setBlock
  dsimp only
  exact ht

theorem State_setFlags_keeps {s0 : State} {s : State} {o : Op} {u : FlagSet} (hs : Keeps s0 s) : Keeps s0 (State.setFlags s o u) := by
  unfold State.setFlags
  exact State_modRegs_keeps hs

theorem mxeCheck_keeps {s0 : State} {s : State} {o : Op} {reads : Option Nat} {stages : List Nat} {e : Eff} (hs : Keeps s0 s) (he : e.Keeps s0) :
    (mxeCheck s o reads stages e).Keeps s0 := by
  unfold mxeCheck
  split
  · trivial
  · split
    · split
      · trivial
      · exact he
    · exact he

theorem execMzero_keeps {s0 : State} {tile : Nat} {thread : Nat} {w : BitVec 128} {s : State} (hs : Keeps s0 s) :
    OutKeeps s0 (execMzero tile thread w s) := by
  unfold execMzero
  apply runOp_keeps
  · intro x3
    intro x5
    intro x7
    dsimp only [mzeroSpec]
    apply mxeCheck_keeps
    · exact x7
    · refine Eff.keeps_done.2 ?_
      refine Keeps.modTile ?_ (fun w15 x13 h14 => ?_)
      · exact x7
      · exact Tile_setBlock_keeps h14
  · exact hs

theorem execMma_keeps {s0 : State} {tile : Nat} {thread : Nat} {w : BitVec 128} {s : State} (hs : Keeps s0 s) :
    OutKeeps s0 (execMma tile thread w s) := by
  unfold execMma
  apply runOp_keeps
  · intro x3
    intro x5
    intro x7
    dsimp only [mmaSpec]
    apply mxeCheck_keeps
    · exact x7
    · refine Eff.keeps_done.2 ?_
      apply State_setFlags_keeps
      refine Keeps.modTile ?_ (fun w16 x14 h15 => ?_)
      · exact x7
      · exact Tile_setBlock_keeps h15
  · exact hs

theorem execMsf64_keeps {s0 : State} {tile : Nat} {thread : Nat} {w : BitVec 128} {s : State} (hs : Keeps s0 s) :
    OutKeeps s0 (execMsf64 tile thread w s) := by
  unfold execMsf64
  apply runOp_keeps
  · intro x3
    intro x5
    intro x7
    dsimp only [msf64Spec]
    apply mxeCheck_keeps
    · exact x7
    · refine Eff.keeps_done.2 ?_
      apply State_setFlags_keeps
      refine Keeps.modTile ?_ (fun w16 x14 h15 => ?_)
      · exact x7
      · exact Tile_setBlock_keeps h15
  · exact hs

theorem mrdEffect_keeps {s0 : State} {s : State} {o : Op} (hs : Keeps s0 s) : (mrdEffect s o).Keeps s0 := by
  unfold mrdEffect
  extract_lets x2 x3 x4 x5 x6 x7 x8 x9 x10 x11 x12 x13 x14
  have h18 : Keeps s0 x12 := by
    unfold x12
    exact State_opLines_keeps hs
  clear_value x12
  have h21 : Keeps s0 x13 := by
    unfold x13
    exact State_setFlags_keeps h18
  clear_value x13
  have h24 : Keeps s0 x14 := by
    unfold x14
    split
    · refine Keeps.modTile ?_ (fun w30 x28 h29 => ?_)
      · exact h21
      · exact Tile_setBlock_keeps h29
    · exact h21
  clear_value x14
  apply mxeCheck_keeps
  · exact hs
  · exact Eff.keeps_done.2 (State_stats_keeps h24)

theorem execMrd_keeps {s0 : State} {tile : Nat} {thread : Nat} {w : BitVec 128} {s : State} (hs : Keeps s0 s) :
    OutKeeps s0 (execMrd tile thread w s) := by
  unfold execMrd
  apply runOp_keeps
  · intro x3
    intro x5
    intro x7
    dsimp only [mrdSpec]
    exact mrdEffect_keeps x7
  · exact hs

theorem execMsave_keeps {s0 : State} {tile : Nat} {thread : Nat} {w : BitVec 128} {s : State} (hs : Keeps s0 s) :
    OutKeeps s0 (execMsave tile thread w s) := by
  unfold execMsave
  apply runOp_keeps
  · intro x3
    intro x5
    intro x7
    dsimp only [msaveSpec]
    apply mxeCheck_keeps
    · exact x7
    · exact Eff.keeps_done.2 (State_opLines_keeps x7)
  · exact hs

theorem mrestoreEffect_keeps {s0 : State} {s : State} {o : Op} (hs : Keeps s0 s) : (mrestoreEffect s o).Keeps s0 := by
  unfold mrestoreEffect
  extract_lets x2 x3 x4 x5 x6
  split
  · apply mxeCheck_keeps
    · exact hs
    · refine Eff.keeps_done.2 ?_
      apply State_setFlags_keeps
      refine Keeps.modTile ?_ (fun w19 x17 h18 => ?_)
      · exact hs
      · exact Tile_setBlock_keeps h18
  · apply mxeCheck_keeps
    · exact hs
    · refine Eff.keeps_done.2 ?_
      refine Keeps.modTile ?_ (fun w30 x28 h29 => ?_)
      · exact hs
      · exact Tile_setBlock_keeps h29

theorem execMrestore_keeps {s0 : State} {tile : Nat} {thread : Nat} {w : BitVec 128} {s : State} (hs : Keeps s0 s) :
    OutKeeps s0 (execMrestore tile thread w s) := by
  unfold execMrestore
  apply runOp_keeps
  · intro x3
    intro x5
    intro x7
    dsimp only [mrestoreSpec]
    exact mrestoreEffect_keeps x7
  · exact hs

end Sys2Proof.Machine
end

