-- ==== Sys2Proof/Laws/KeepsVxe.lean ====
section
/-! SUPPORT. The operations of Machine/Vxe.lean keep what Keeps says. -/

namespace Sys2Proof.Machine

theorem Tile_setEntry_keeps {t : Tile} {n : Nat} {v : Nat} (ht : Memory.wf t.mem = true) : Memory.wf (Tile.setEntry t n v).mem = true := by
  unfold Tile.setEntry
  dsimp only
  exact ht

theorem vxeCheck_keeps {s0 : State} {s : State} {o : Op} {es ns stages : List Nat} {e : Eff} (hs : Keeps s0 s) (he : e.Keeps s0) :
    (vxeCheck s o es ns stages e).Keeps s0 := by
  unfold vxeCheck
  split
  · trivial
  · split
    · trivial
    · split
      · split
        · trivial
        · exact he
      · exact he

theorem Tile_setNorm_keeps {t : Tile} {o : Op} {i : Nat} {v : Norm} (ht : Memory.wf t.mem = true) :
    Memory.wf (Tile.setNorm t o i v).mem = true := by
  unfold Tile.setNorm
  dsimp only
  exact ht

theorem vewWrite_keeps {s0 : State} {s : State} {o : Op} {stages outs : List Nat} (hs : Keeps s0 s) : (vewWrite s o stages outs).Keeps s0 := by
  unfold vewWrite
  extract_lets x2 x3 x4 x5 x6 x7
  have h8 : Keeps s0 x4 := by
    unfold x4
    exact State_opLines_keeps hs
  clear_value x4
  have h11 : Keeps s0 x5 := by
    unfold x5
    exact State_setFlags_keeps h8
  clear_value x5
  have h14 : Keeps s0 x7 := by
    unfold x7
    split
    · refine Keeps.modTile ?_ (fun w20 x18 h19 => ?_)
      · exact h11
      · exact Tile_setNorm_keeps h19
    · exact h11
  clear_value x7
  apply vxeCheck_keeps
  · exact hs
  · exact Eff.keeps_done.2 (State_stats_keeps h14)

theorem vewEffect_keeps {s0 : State} {s : State} {o : Op} (hs : Keeps s0 s) : (vewEffect s o).Keeps s0 := by
  unfold vewEffect
  extract_lets x2 x3 x4 x5 x6 x7
  exact vewWrite_keeps hs

theorem execVew_keeps {s0 : State} {tile : Nat} {thread : Nat} {w : BitVec 128} {s : State} (hs : Keeps s0 s) :
    OutKeeps s0 (execVew tile thread w s) := by
  unfold execVew
  apply runOp_keeps
  · intro x3
    intro x5
    intro x7
    dsimp only [vewSpec]
    exact vewEffect_keeps x7
  · exact hs

theorem vfmaEffect_keeps {s0 : State} {s : State} {o : Op} (hs : Keeps s0 s) : (vfmaEffect s o).Keeps s0 := by
  unfold vfmaEffect
  extract_lets x2 x3 x4 x5 x6 x7
  exact vewWrite_keeps hs

theorem execVfma_keeps {s0 : State} {tile : Nat} {thread : Nat} {w : BitVec 128} {s : State} (hs : Keeps s0 s) :
    OutKeeps s0 (execVfma tile thread w s) := by
  unfold execVfma
  apply runOp_keeps
  · intro x3
    intro x5
    intro x7
    dsimp only [vfmaSpec]
    exact vfmaEffect_keeps x7
  · exact hs

theorem Tile_advanceBase_keeps {t : Tile} {e : Nat} {n : Nat} (ht : Memory.wf t.mem = true) :
    Memory.wf (Tile.advanceBase t e n).mem = true := by
  unfold Tile.advanceBase
  dsimp only
  exact ht

theorem vcvtEffect_keeps {s0 : State} {s : State} {o : Op} (hs : Keeps s0 s) : (vcvtEffect s o).Keeps s0 := by
  unfold vcvtEffect
  extract_lets x2 x3 x4 x5 x6 x7
  have h23 : Keeps s0 x6 := by
    unfold x6
    exact State_setFlags_keeps (State_opLines_keeps hs)
  clear_value x6
  have h26 : Keeps s0 x7 := by
    unfold x7
    split
    · refine Keeps.modTile ?_ (fun w32 x30 h31 => ?_)
      · exact h23
      · exact Tile_advanceBase_keeps h31
    · exact h23
  clear_value x7
  apply vxeCheck_keeps
  · exact hs
  · exact Eff.keeps_done.2 (State_stats_keeps h26)

theorem execVcvt_keeps {s0 : State} {tile : Nat} {thread : Nat} {w : BitVec 128} {s : State} (hs : Keeps s0 s) :
    OutKeeps s0 (execVcvt tile thread w s) := by
  unfold execVcvt
  apply runOp_keeps
  · intro x3
    intro x5
    intro x7
    dsimp only [vcvtSpec]
    exact vcvtEffect_keeps x7
  · exact hs

theorem vredEffect_keeps {s0 : State} {s : State} {o : Op} (hs : Keeps s0 s) : (vredEffect s o).Keeps s0 := by
  unfold vredEffect
  extract_lets x2 x3 x4 x5 x6 x7 x8 x9 x10
  split
  extract_lets x21 x22
  have h23 : Keeps s0 x22 := by
    unfold x22
    exact State_opLine_keeps hs
  clear_value x22
  apply vxeCheck_keeps
  · exact hs
  · exact Eff.keeps_done.2 (State_setFlags_keeps h23)

theorem execVred_keeps {s0 : State} {tile : Nat} {thread : Nat} {w : BitVec 128} {s : State} (hs : Keeps s0 s) :
    OutKeeps s0 (execVred tile thread w s) := by
  unfold execVred
  apply runOp_keeps
  · intro x3
    intro x5
    intro x7
    dsimp only [vredSpec]
    exact vredEffect_keeps x7
  · exact hs

theorem execVnormAcc_keeps {s0 : State} {tile : Nat} {thread : Nat} {w : BitVec 128} {s : State} (hs : Keeps s0 s) :
    OutKeeps s0 (execVnormAcc tile thread w s) := by
  unfold execVnormAcc
  apply runOp_keeps
  · intro x3
    intro x5
    intro x7
    dsimp only [vnormAccSpec]
    apply vxeCheck_keeps
    · exact x7
    · refine Eff.keeps_done.2 ?_
      refine Keeps.modTile ?_ (fun w15 x13 h14 => ?_)
      · exact x7
      · exact Tile_setNorm_keeps h14
  · exact hs

theorem State_reportCaliper_keeps {s0 : State} {s : State} {o : Op} {l : Nat} {x : Nat} {count : Nat} {nonfinite : Bool} (hs : Keeps s0 s) :
    Keeps s0 (State.reportCaliper s o l x count nonfinite) := by
  unfold State.reportCaliper
  split
  · exact hs
  · extract_lets x8
    split
    · rename_i y10 y11
      have h12 : Keeps s0 y10 := by
        refine Keeps.of_snd (?_ : Keeps s0 _) y11
        apply State_counted_keeps
        refine Keeps.modTile ?_ (fun w13 x14 h15 => ?_)
        · exact hs
        · unfold x8
          exact Tile_digestBytes_keeps (Tile_digestBytes_keeps h15)
      exact h12
    · rename_i y17 y18
      have h19 : Keeps s0 y17 := by
        refine Keeps.of_snd (?_ : Keeps s0 _) y18
        apply State_counted_keeps
        refine Keeps.modTile ?_ (fun w20 x21 h22 => ?_)
        · exact hs
        · unfold x8
          exact Tile_digestBytes_keeps (Tile_digestBytes_keeps h22)
      split
      · exact h19
      · exact Keeps.mk' h19 rfl rfl rfl

theorem vnormReadEffect_keeps {s0 : State} {s : State} {o : Op} (hs : Keeps s0 s) : (vnormReadEffect s o).Keeps s0 := by
  unfold vnormReadEffect
  extract_lets x2 x3 x4 x5 x6 x7
  have h8 : Keeps s0 x5 := by
    unfold x5
    exact State_opLine_keeps hs
  clear_value x5
  have h11 : Keeps s0 x6 := by
    unfold x6
    exact State_setFlags_keeps h8
  clear_value x6
  have h19 : Keeps s0 x7 := by
    unfold x7
    refine Keeps.modTile ?_ (fun w15 x13 h14 => ?_)
    · exact h11
    · exact Tile_setNorm_keeps h14
  clear_value x7
  apply vxeCheck_keeps
  · exact hs
  · exact Eff.keeps_done.2 (State_reportCaliper_keeps h19)

theorem execVnormRead_keeps {s0 : State} {tile : Nat} {thread : Nat} {w : BitVec 128} {s : State} (hs : Keeps s0 s) :
    OutKeeps s0 (execVnormRead tile thread w s) := by
  unfold execVnormRead
  apply runOp_keeps
  · intro x3
    intro x5
    intro x7
    dsimp only [vnormReadSpec]
    exact vnormReadEffect_keeps x7
  · exact hs

theorem execVnormClear_keeps {s0 : State} {tile : Nat} {thread : Nat} {w : BitVec 128} {s : State} (hs : Keeps s0 s) :
    OutKeeps s0 (execVnormClear tile thread w s) := by
  unfold execVnormClear
  apply runOp_keeps
  · intro x3
    intro x5
    intro x7
    dsimp only [vnormClearSpec]
    apply vxeCheck_keeps
    · exact x7
    · refine Eff.keeps_done.2 ?_
      refine Keeps.modTile ?_ (fun w15 x13 h14 => ?_)
      · exact x7
      · exact Tile_setNorm_keeps h14
  · exact hs

theorem State_nonfiniteAfterCommit_keeps {s0 : State} {s : State} {o : Op} {line : Nat} (hs : Keeps s0 s) :
    Keeps s0 (State.nonfiniteAfterCommit s o line) := by
  unfold State.nonfiniteAfterCommit
  split
  · exact hs
  · exact State_raise_keeps (State_noteThread_keeps hs)

theorem optUpdate_keeps {s0 : State} {s : State} {o : Op} {x2 : Hyper} {gs : List FVal} (hs : Keeps s0 s) :
    Keeps s0 (optUpdate s o x2 gs) := by
  unfold optUpdate
  extract_lets x2 x3 x4 x5 x6 x7 x8 x9 x10 x11 x12 x13 x14 x15 x16 x17
  have h21 : Keeps s0 x14 := by
    unfold x14
    exact State_opLines_keeps hs
  clear_value x14
  have h24 : Keeps s0 x15 := by
    unfold x15
    exact State_opLines_keeps h21
  clear_value x15
  have h27 : Keeps s0 x17 := by
    unfold x17
    exact State_setFlags_keeps h24
  clear_value x17
  split
  · refine Keeps.modTile ?_ (fun w35 x33 h34 => ?_)
    · exact h27
    · exact Tile_setNorm_keeps (Tile_setNorm_keeps (Tile_setNorm_keeps h34))
  · exact h27

theorem voptEffect_keeps {s0 : State} {s : State} {o : Op} (hs : Keeps s0 s) : (voptEffect s o).Keeps s0 := by
  unfold voptEffect
  extract_lets x2 x3 x4 x5 x6 x7
  have h11 : Keeps s0 x7 := by
    unfold x7
    exact State_setFlags_keeps hs
  clear_value x7
  apply vxeCheck_keeps
  · exact hs
  · refine Eff.keeps_done.2 ?_
    split
    · split
      · exact State_nonfiniteAfterCommit_keeps h11
      · exact h11
    · split
      · exact optUpdate_keeps hs
      · exact State_setFlags_keeps hs

theorem execVopt_keeps {s0 : State} {tile : Nat} {thread : Nat} {w : BitVec 128} {s : State} (hs : Keeps s0 s) :
    OutKeeps s0 (execVopt tile thread w s) := by
  unfold execVopt
  apply runOp_keeps
  · intro x3
    intro x5
    intro x7
    dsimp only [voptSpec]
    exact voptEffect_keeps x7
  · exact hs

theorem execVgrn_keeps {s0 : State} {tile : Nat} {thread : Nat} {w : BitVec 128} {s : State} (hs : Keeps s0 s) :
    OutKeeps s0 (execVgrn tile thread w s) := by
  unfold execVgrn
  apply runOp_keeps
  · intro x3
    intro x5
    intro x7
    dsimp only [vgrnSpec]
    apply vxeCheck_keeps
    · exact x7
    · refine Eff.keeps_done.2 ?_
      refine Keeps.modTile ?_ (fun w15 x13 h14 => ?_)
      · exact State_opLines_keeps x7
      · exact Tile_advanceBase_keeps h14
  · exact hs

theorem Tile_setEntries_keeps {t : Tile} {n : Nat} {x2 : List Nat} (ht : Memory.wf t.mem = true) :
    Memory.wf (Tile.setEntries t n x2).mem = true := by
  induction x2 generalizing t n with
  | nil => exact ht
  | cons v vs ih => exact ih (Tile_setEntry_keeps ht)

theorem execVocl_keeps {s0 : State} {tile : Nat} {thread : Nat} {w : BitVec 128} {s : State} (hs : Keeps s0 s) :
    OutKeeps s0 (execVocl tile thread w s) := by
  unfold execVocl
  apply runOp_keeps
  · intro x3
    intro x5
    intro x7
    dsimp only [voclSpec]
    apply vxeCheck_keeps
    · exact x7
    · refine Eff.keeps_done.2 ?_
      refine Keeps.modTile ?_ (fun w15 x13 h14 => ?_)
      · exact x7
      · exact Tile_setEntries_keeps h14
  · exact hs

theorem execVocs_keeps {s0 : State} {tile : Nat} {thread : Nat} {w : BitVec 128} {s : State} (hs : Keeps s0 s) :
    OutKeeps s0 (execVocs tile thread w s) := by
  unfold execVocs
  apply runOp_keeps
  · intro x3
    intro x5
    intro x7
    dsimp only [vocsSpec]
    apply vxeCheck_keeps
    · exact x7
    · exact Eff.keeps_done.2 (State_opLines_keeps x7)
  · exact hs

end Sys2Proof.Machine
end

