-- ==== Sys2Proof/Laws/KeepsExchange.lean ====
section
/-! SUPPORT. The operations of Machine/Exchange.lean keep what Keeps says. -/

namespace Sys2Proof.Machine

theorem Tile_nameFill_keeps {t : Tile} {n : Option FillList} (ht : Memory.wf t.mem = true) : Memory.wf (Tile.nameFill t n).mem = true := by
  unfold Tile.nameFill
  split
  · exact ht
  · apply Tile_fillView_keeps
    dsimp only
    exact ht

theorem Tile_setXEnt_keeps {t : Tile} {i : Nat} {st : XEntSt} (ht : Memory.wf t.mem = true) :
    Memory.wf (Tile.setXEnt t i st).mem = true := by
  unfold Tile.setXEnt
  dsimp only
  exact ht

theorem State_issueSends_keeps {s0 : State} {s : State} {t : Nat} (hs : Keeps s0 s) : Keeps s0 (State.issueSends s t) := by
  unfold State.issueSends
  split
  · exact hs
  · refine Keeps.foldl (fun x4 a6 h5 => ?_) ?_
    · split
      · extract_lets x8
        have h9 : Keeps s0 x8 := by
          unfold x8
          refine Keeps.modTile ?_ (fun w10 x11 h12 => ?_)
          · exact h5
          · exact Tile_setXEnt_keeps h12
        clear_value x8
        exact Keeps.mk' h9 rfl rfl rfl
      · exact h5
    · exact hs

theorem State_setXsend_keeps {s0 : State} {s : State} {x : XSend} (hs : Keeps s0 s) : Keeps s0 (State.setXsend s x) := by
  unfold State.setXsend
  exact Keeps.mk' hs rfl rfl rfl

theorem State_dropXsend_keeps {s0 : State} {s : State} {x : Nat} (hs : Keeps s0 s) : Keeps s0 (State.dropXsend s x) := by
  unfold State.dropXsend
  exact Keeps.mk' hs rfl rfl rfl

theorem State_moveXsend_keeps {s0 : State} {s : State} {x : XSend} (hs : Keeps s0 s) : Keeps s0 (State.moveXsend s x) := by
  unfold State.moveXsend
  exact Keeps.mk' (State_dropXsend_keeps hs) rfl rfl rfl

theorem State_xFault_keeps {s0 : State} {s : State} {t c a d : Nat} (hs : Keeps s0 s) : Keeps s0 (State.xFault s t c a d) := by
  unfold State.xFault
  exact State_raise_keeps (State_noteThread_keeps hs)

theorem State_matchReq_keeps {s0 : State} {s : State} {x : XSend} (hs : Keeps s0 s) : Keeps s0 (State.matchReq s x) := by
  unfold State.matchReq
  extract_lets x2 x3 x4
  split
  · exact State_xFault_keeps hs
  · extract_lets x18 x19
    split
    · exact State_xFault_keeps hs
    · apply State_moveXsend_keeps
      refine Keeps.modTile ?_ (fun w29 x27 h28 => ?_)
      · exact hs
      · exact Tile_setXEnt_keeps h28

theorem State_matchHeld_keeps {s0 : State} {s : State} {t : Nat} (hs : Keeps s0 s) : Keeps s0 (State.matchHeld s t) := by
  unfold State.matchHeld
  extract_lets x2
  refine Keeps.foldl (fun x4 x5 h6 => ?_) ?_
  · split
    · exact State_matchReq_keeps h6
    · exact h6
  · refine Keeps.modTile ?_ (fun w19 x17 h18 => ?_)
    · exact hs
    · dsimp only
      exact h18

theorem State_putCapture_keeps {s0 : State} {s : State} {x : Sample} (hs : Keeps s0 s) : Keeps s0 (State.putCapture s x) := by
  unfold State.putCapture
  generalize List.range 1024 = ps
  dsimp only
  refine State_putTrace_keeps (Keeps.foldl (fun _ th h => Keeps.foldl (fun _ z h => State_putTrace_keeps h) h)
    (State_putTrace_keeps (State_putTrace_keeps (Keeps.foldl (fun x2 l h => ?_) hs))))
  split
  · exact State_putTrace_keeps h
  · exact h

theorem State_putDigest_keeps {s0 : State} {s : State} {x : Sample} {t k : Nat} {d : Nat} (hs : Keeps s0 s) :
    Keeps s0 (State.putDigest s x t k d) := by
  unfold State.putDigest
  exact State_putTrace_keeps hs

theorem State_endCapture_keeps {s0 : State} {s : State} {t : Nat} (hs : Keeps s0 s) : Keeps s0 (State.endCapture s t) := by
  unfold State.endCapture
  split
  · exact hs
  · extract_lets x7 x8 x9 x10
    have h11 : Keeps s0 x8 := by
      unfold x8
      refine Keeps.modTile ?_ (fun w12 x13 h14 => ?_)
      · exact hs
      · exact h14
    clear_value x8
    have h15 : Keeps s0 x10 := by
      unfold x10
      refine Keeps.mkAll ?_ (fun w16 => ?_) (fun w16 => ?_) (fun w16 => ?_) ?_
      · exact h11
      · exact h11.hbm_wf w16
      · exact h11.tiles_wf w16
      · refine imagesWf_map (fun y hy => ?_) ?_
        · split
          · exact hy
          · exact hy
        · exact hs.images_wf w16
      · exact h11.fuses
    clear_value x10
    split
    · exact State_putDigest_keeps (State_putCapture_keeps h15)
    · exact h15

theorem State_endShadow_keeps {s0 : State} {s : State} {t : Nat} {i : Nat} (hs : Keeps s0 s) : Keeps s0 (State.endShadow s t i) := by
  unfold State.endShadow
  extract_lets x2 x3 x4 x5
  have h6 : Keeps s0 x3 := by
    unfold x3
    refine Keeps.setTile ?_ (fun w7 => ?_)
    · exact hs
    · rfl
  clear_value x3
  have h8 : Keeps s0 x5 := by
    unfold x5
    refine Keeps.mkAll ?_ (fun w9 => ?_) (fun w9 => ?_) (fun w9 => ?_) ?_
    · exact h6
    · exact h6.hbm_wf w9
    · exact h6.tiles_wf w9
    · refine imagesWf_map (fun y hy => ?_) ?_
      · split
        · split
          · exact hy
          · exact hy
        · exact hy
      · exact hs.images_wf w9
    · exact h6.fuses
  clear_value x5
  split
  · exact State_putDigest_keeps h8
  · exact h8

theorem State_xParity_keeps {s0 : State} {s : State} {t : Nat} {line : Nat} (hs : Keeps s0 s) : Keeps s0 (State.xParity s t line) := by
  unfold State.xParity
  exact State_detect_keeps hs

theorem State_loadLists_keeps {s0 : State} {s : State} {t : Nat} (hs : Keeps s0 s) : Keeps s0 (State.loadLists s t) := by
  unfold State.loadLists
  split
  · exact State_matchHeld_keeps (State_issueSends_keeps hs)
  · split
    · exact State_xParity_keeps hs
    · exact State_xFault_keeps hs
    · split
      · exact State_xParity_keeps hs
      · exact State_xFault_keeps hs
      · extract_lets x40
        have h41 : Keeps s0 x40 := by
          unfold x40
          refine Keeps.modTile ?_ (fun w45 x43 h44 => ?_)
          · exact hs
          · apply Tile_nameFill_keeps
            dsimp only
            exact h44
        clear_value x40
        exact State_matchHeld_keeps (State_issueSends_keeps h41)

theorem Tile_emptyIfHalted_keeps {t : Tile} (ht : Memory.wf t.mem = true) : Memory.wf (Tile.emptyIfHalted t).mem = true := by
  unfold Tile.emptyIfHalted
  split
  · dsimp only
    exact ht
  · exact ht

theorem State_enterExchange_keeps {s0 : State} {s : State} {t : Nat} (hs : Keeps s0 s) : Keeps s0 (State.enterExchange s t) := by
  unfold State.enterExchange
  split
  · exact State_endShadow_keeps hs
  · extract_lets x10 x11 x12
    have h13 : Keeps s0 x10 := by
      unfold x10
      refine Keeps.modTile ?_ (fun w17 x15 h16 => ?_)
      · exact State_endCapture_keeps hs
      · apply Tile_emptyIfHalted_keeps
        dsimp only
        exact h16
    clear_value x10
    exact State_loadLists_keeps (State_setGroup_keeps h13)

theorem State_arrive_keeps {s0 : State} {s : State} {t : Nat} (hs : Keeps s0 s) : Keeps s0 (State.arrive s t) := by
  unfold State.arrive
  extract_lets x2 x3 x4 x5
  split
  · exact hs
  · split
    · exact State_enterExchange_keeps hs
    · split
      · refine Keeps.modTile ?_ (fun w23 x21 h22 => ?_)
        · exact hs
        · dsimp only
          exact h22
      · split
        · exact State_missSample_keeps hs
        · exact State_raiseAll_keeps (Keeps.foldl (fun _ _ h => State_noteThread_keeps h) hs)

theorem State_park_keeps {s0 : State} {s : State} {o : Op} {st : ThreadSt} (hs : Keeps s0 s) : Keeps s0 (State.park s o st) := by
  unfold State.park
  exact State_arrive_keeps (State_modThread_keeps (State_advance_keeps hs))

theorem execTbar_keeps {s0 : State} {tile : Nat} {thread : Nat} {w : BitVec 128} {s : State} (hs : Keeps s0 s) :
    OutKeeps s0 (execTbar tile thread w s) := by
  unfold execTbar
  apply runOp_keeps
  · intro x3
    intro x5
    intro x7
    dsimp only [tbarSpec]
    exact Eff.keeps_done.2 (State_park_keeps x7)
  · exact hs

theorem execHalt_keeps {s0 : State} {tile : Nat} {thread : Nat} {w : BitVec 128} {s : State} (hs : Keeps s0 s) :
    OutKeeps s0 (execHalt tile thread w s) := by
  unfold execHalt
  apply runOp_keeps
  · intro x3
    intro x5
    intro x7
    dsimp only [haltSpec]
    exact Eff.keeps_done.2 (State_park_keeps x7)
  · exact hs

theorem Tile_nameLists_keeps {t : Tile} {o : Op} (ht : Memory.wf t.mem = true) : Memory.wf (Tile.nameLists t o).mem = true := by
  unfold Tile.nameLists
  split
  · dsimp only
    exact ht
  · exact ht

theorem execExpt_keeps {s0 : State} {tile : Nat} {thread : Nat} {w : BitVec 128} {s : State} (hs : Keeps s0 s) :
    OutKeeps s0 (execExpt tile thread w s) := by
  unfold execExpt
  apply runOp_keeps
  · intro x3
    intro x5
    intro x7
    dsimp only [exptSpec]
    refine Eff.keeps_done.2 ?_
    apply State_park_keeps
    refine Keeps.modTile ?_ (fun w14 x12 h13 => ?_)
    · exact x7
    · exact Tile_nameLists_keeps h13
  · exact hs

theorem State_request_keeps {s0 : State} {s : State} {x : Nat} (hs : Keeps s0 s) : Keeps s0 (State.request s x) := by
  unfold State.request
  split
  · exact hs
  · split
    · exact State_moveXsend_keeps hs
    · split
      · refine Keeps.modTile ?_ (fun w18 x16 h17 => ?_)
        · exact State_setXsend_keeps hs
        · dsimp only
          exact h17
      · exact State_matchReq_keeps hs

theorem execExchangeRequest_keeps {s0 : State} {x : Nat} {s : State} (hs : Keeps s0 s) : OutKeeps s0 (execExchangeRequest x s) := by
  unfold execExchangeRequest
  refine OutKeeps.whenever ?_ (fun h2 => ?_)
  · exact hs
  · exact State_request_keeps hs

theorem State_grant_keeps {s0 : State} {s : State} {x : Nat} (hs : Keeps s0 s) : Keeps s0 (State.grant s x) := by
  unfold State.grant
  split
  · exact hs
  · extract_lets x9
    split
    · exact hs
    · split
      · exact State_xParity_keeps hs
      · exact State_moveXsend_keeps hs

theorem execExchangeGrant_keeps {s0 : State} {x : Nat} {s : State} (hs : Keeps s0 s) : OutKeeps s0 (execExchangeGrant x s) := by
  unfold execExchangeGrant
  refine OutKeeps.whenever ?_ (fun h2 => ?_)
  · exact hs
  · exact State_grant_keeps hs

theorem State_meshParity_keeps {s0 : State} {s : State} {ctx : Nat} {tile : Nat} {line : Nat} {carrier : Nat} {addr : Nat} (hs : Keeps s0 s) :
    Keeps s0 (State.meshParity s ctx tile line carrier addr) := by
  unfold State.meshParity
  exact State_raise_keeps hs

theorem State_land_keeps {s0 : State} {s : State} {x : Nat} {parity : Bool} (hs : Keeps s0 s) : Keeps s0 (State.land s x parity) := by
  unfold State.land
  split
  · exact hs
  · split
    · exact hs
    · extract_lets x18 x19 x20 x21
      have h22 : Keeps s0 x19 := by
        unfold x19
        exact State_landLine_keeps hs
      clear_value x19
      have h25 : Keeps s0 x20 := by
        unfold x20
        split
        · exact State_meshParity_keeps h22
        · exact h22
      clear_value x20
      split
      · apply State_moveXsend_keeps
        refine Keeps.modTile ?_ (fun w38 x36 h37 => ?_)
        · exact h25
        · exact Tile_setXEnt_keeps h37
      · exact State_setXsend_keeps h25

theorem execExchangeDataArrival_keeps {s0 : State} {x : Nat} {parity : Bool} {s : State} (hs : Keeps s0 s) :
    OutKeeps s0 (execExchangeDataArrival x parity s) := by
  unfold execExchangeDataArrival
  refine OutKeeps.whenever ?_ (fun h2 => ?_)
  · exact hs
  · exact State_land_keeps hs

theorem State_receipt_keeps {s0 : State} {s : State} {x : Nat} (hs : Keeps s0 s) : Keeps s0 (State.receipt s x) := by
  unfold State.receipt
  split
  · exact hs
  · extract_lets x9
    have h10 : Keeps s0 x9 := by
      unfold x9
      exact State_dropXsend_keeps hs
    clear_value x9
    split
    · apply State_issueSends_keeps
      refine Keeps.modTile ?_ (fun w19 x17 h18 => ?_)
      · exact h10
      · exact Tile_setXEnt_keeps h18
    · exact State_xFault_keeps h10

theorem execExchangeReceipt_keeps {s0 : State} {x : Nat} {s : State} (hs : Keeps s0 s) : OutKeeps s0 (execExchangeReceipt x s) := by
  unfold execExchangeReceipt
  refine OutKeeps.whenever ?_ (fun h2 => ?_)
  · exact hs
  · exact State_receipt_keeps hs

theorem State_short_keeps {s0 : State} {s : State} {t : Nat} {i : Nat} (hs : Keeps s0 s) : Keeps s0 (State.short s t i) := by
  unfold State.short
  split
  · exact State_xFault_keeps hs
  · exact hs

theorem execExchangeShort_keeps {s0 : State} {tile : Nat} {entry : Nat} {s : State} (hs : Keeps s0 s) :
    OutKeeps s0 (execExchangeShort tile entry s) := by
  unfold execExchangeShort
  refine OutKeeps.whenever ?_ (fun h2 => ?_)
  · exact hs
  · exact State_short_keeps hs

end Sys2Proof.Machine
end

