-- ==== Sys2Proof/Laws/KeepsFabric.lean ====
section
/-! SUPPORT. The operations of Machine/Fabric.lean keep what Keeps says. -/

namespace Sys2Proof.Machine

theorem State_sendRemote_keeps {s0 : State} {s : State} {i : SyuItem} {a : Nat} {n : Nat} (hs : Keeps s0 s) :
    Keeps s0 (State.sendRemote s i a n) := by
  unfold State.sendRemote
  extract_lets x2 x3
  have h4 : Keeps s0 x3 := by
    unfold x3
    exact Keeps.mk' hs rfl rfl rfl
  clear_value x3
  exact State_sendPeer_keeps h4

theorem State_flushRemote_keeps {s0 : State} {s : State} (hs : Keeps s0 s) : Keeps s0 (State.flushRemote s) := by
  unfold State.flushRemote
  refine Keeps.foldl (fun x2 x3 h4 => ?_) ?_
  · split
    · split
      · exact h4
      · exact State_sendRemote_keeps h4
    · exact h4
  · exact hs

end Sys2Proof.Machine
end

