-- ==== Sys2Proof/Laws/KeepsRmn.lean ====
section
/-! SUPPORT. The operations of Machine/Rmn.lean keep what Keeps says. -/

namespace Sys2Proof.Machine

theorem State_modQueue_keeps {s0 : State} {s : State} {n : Nat} {f : Queue → Queue} (hs : Keeps s0 s) :
    Keeps s0 (State.modQueue s n f) := by
  unfold State.modQueue
  exact State_setQueue_keeps hs

theorem State_rmnFix_keeps {s0 : State} {s : State} {n : Nat} (hs : Keeps s0 s) : Keeps s0 (State.rmnFix s n) := by
  unfold State.rmnFix
  split
  · exact Keeps.mk' hs rfl rfl rfl
  · exact hs

theorem State_withQueue_keeps {s0 : State} {s : State} {n : Nat} {k : State → State} (hs : Keeps s0 s) (hk : ∀ y, Keeps s0 y → Keeps s0 (k y)) :
    Keeps s0 (State.withQueue s n k) := by
  unfold State.withQueue
  split
  · exact State_raise_keeps hs
  · exact hk _ (State_rmnFix_keeps hs)

theorem State_releaseRecord_keeps {s0 : State} {s : State} {n : Nat} (hs : Keeps s0 s) : Keeps s0 (State.releaseRecord s n) := by
  unfold State.releaseRecord
  exact State_withQueue_keeps hs fun _ h => State_modQueue_keeps h

theorem State_writeRing_keeps {s0 : State} {s : State} {n : Nat} {xs : List (Nat × Nat × Bool)} (hs : Keeps s0 s) :
    Keeps s0 (State.writeRing s n xs) := by
  unfold State.writeRing
  extract_lets x2
  split
  · refine Keeps.foldl (fun x6 x7 h8 => ?_) ?_
    · exact State_landLine_keeps h8
    · exact hs
  · exact State_raise_keeps hs

theorem State_issueWrites_keeps {s0 : State} {s : State} {kind : MemOpKind} {src : Src} {ctx : Nat} {xs : List (Nat × Nat × Bool)} (hs : Keeps s0 s) :
    Keeps s0 (State.issueWrites s kind src ctx xs) := by
  unfold State.issueWrites
  extract_lets x2 x3
  exact Keeps.mk' hs rfl rfl rfl

theorem State_hbmHeader_keeps {s0 : State} {s : State} {n : Nat} (hs : Keeps s0 s) : Keeps s0 (State.hbmHeader s n) := by
  unfold State.hbmHeader
  extract_lets x2
  exact State_issueWrites_keeps hs

theorem State_ringHeader_keeps {s0 : State} {s : State} {n : Nat} (hs : Keeps s0 s) : Keeps s0 (State.ringHeader s n) := by
  unfold State.ringHeader
  extract_lets x2
  have h3 : Keeps s0 x2 := by
    unfold x2
    exact State_modQueue_keeps hs
  clear_value x2
  exact State_writeRing_keeps h3

theorem State_ringRelease_keeps {s0 : State} {s : State} {t : Nat} (hs : Keeps s0 s) : Keeps s0 (State.ringRelease s t) := by
  unfold State.ringRelease
  refine Keeps.foldl (fun x2 a4 h3 => ?_) ?_
  · apply State_withQueue_keeps
    · exact h3
    · intro h5
      intro h6
      exact State_ringHeader_keeps h6
  · exact hs

theorem State_applyOwn_keeps {s0 : State} {s : State} {n : Nat} {chg : OwnChange} {who : Option Who} (hs : Keeps s0 s) :
    Keeps s0 (State.applyOwn s n chg who) := by
  unfold State.applyOwn
  apply State_withQueue_keeps
  · exact hs
  · intro h2
    intro h3
    extract_lets x4
    have h5 : Keeps s0 x4 := by
      unfold x4
      exact State_modQueue_keeps h3
    clear_value x4
    split
    · exact State_freeTicket_keeps h5
    · exact h5

theorem State_sendRmn_keeps {s0 : State} {s : State} {src : Src} {dest : Nat} {ctx : Nat} {who : Option Who} {kind : Nat} {hostCmd : Option (Nat × Nat)} {b : RmnBody} (hs : Keeps s0 s) :
    Keeps s0 (State.sendRmn s src dest ctx who kind hostCmd b) := by
  unfold State.sendRmn
  exact Keeps.mk' hs rfl rfl rfl

theorem State_sendOwn_keeps {s0 : State} {s : State} {t : Nat} {n : Nat} {chg : OwnChange} {who : Option Who} (hs : Keeps s0 s) :
    Keeps s0 (State.sendOwn s t n chg who) := by
  unfold State.sendOwn
  extract_lets x2
  split
  · exact State_sendRmn_keeps hs
  · exact State_applyOwn_keeps hs

theorem State_flushOwn_keeps {s0 : State} {s : State} {x2 : Nat} (hs : Keeps s0 s) : Keeps s0 (State.flushOwn s x2) := by
  induction x2 generalizing s with
  | zero =>
    unfold State.flushOwn
    exact hs
  | succ k ih =>
    unfold State.flushOwn
    extract_lets x3 x4
    split
    · exact hs
    · extract_lets x10
      have h11 : Keeps s0 x10 := by
        unfold x10
        exact Keeps.mk' hs rfl rfl rfl
      clear_value x10
      apply ih
      split
      · exact State_applyOwn_keeps h11
      · exact h11

theorem State_ringSignal_keeps {s0 : State} {s : State} {t : Nat} (hs : Keeps s0 s) : Keeps s0 (State.ringSignal s t) := by
  unfold State.ringSignal
  refine Keeps.foldl (fun x8 a10 h9 => ?_) ?_
  · split
    · exact h9
    · exact State_withQueue_keeps h9 fun _ h => State_modQueue_keeps h
  · exact hs

theorem mopenConnectEffect_keeps {s0 : State} {s : State} {o : Op} (hs : Keeps s0 s) : (mopenConnectEffect s o).Keeps s0 := by
  unfold mopenConnectEffect
  split
  rename_i y2 y3 y4 y5
  extract_lets x7
  have h8 : Keeps s0 x7 := by
    unfold x7
    exact State_asyncTicket_keeps (Keeps.of_snd (State_outside_keeps hs) y5)
  clear_value x7
  refine Eff.keeps_done.2 ?_
  split
  · exact h8
  · exact State_sendRmn_keeps h8

theorem execMopenConnect_keeps {s0 : State} {tile : Nat} {thread : Nat} {w : BitVec 128} {s : State} (hs : Keeps s0 s) :
    OutKeeps s0 (execMopenConnect tile thread w s) := by
  unfold execMopenConnect
  apply runOp_keeps
  · intro x3
    intro x5
    intro x7
    dsimp only [mopenConnectSpec]
    exact mopenConnectEffect_keeps x7
  · exact hs

theorem State_ownChange_keeps {s0 : State} {s : State} {o : Op} {chg : OwnChange} {who : Option Who} (hs : Keeps s0 s) :
    Keeps s0 (State.ownChange s o chg who) := by
  unfold State.ownChange
  split
  · exact State_sendOwn_keeps hs
  · exact hs

theorem State_ownPop_keeps {s0 : State} {s : State} {o : Op} {k : Nat} (hs : Keeps s0 s) : Keeps s0 (State.ownPop s o k) := by
  unfold State.ownPop
  split
  · apply State_withQueue_keeps
    · exact hs
    · intro h12
      intro h13
      exact State_modQueue_keeps h13
  · exact hs

theorem listenEffect_keeps {s0 : State} {s : State} {o : Op} (hs : Keeps s0 s) : (listenEffect s o).Keeps s0 := by
  unfold listenEffect
  split
  rename_i y4 y5
  have h6 : Keeps s0 y4 := Keeps.of_snd (State_outside_keeps hs) y5
  extract_lets x7
  have h8 : Keeps s0 x7 := by
    unfold x7
    exact State_asyncTicket_keeps h6
  clear_value x7
  show Keeps s0 _
  split
  · exact h8
  · exact State_ownChange_keeps h8

theorem execMopenListen_keeps {s0 : State} {tile : Nat} {thread : Nat} {w : BitVec 128} {s : State} (hs : Keeps s0 s) :
    OutKeeps s0 (execMopenListen tile thread w s) := by
  unfold execMopenListen
  apply runOp_keeps
  · intro x3
    intro x5
    intro x7
    dsimp only [mopenListenSpec]
    exact listenEffect_keeps x7
  · exact hs

theorem State_sendMessage_keeps {s0 : State} {s : State} {o : Op} (hs : Keeps s0 s) : Keeps s0 (State.sendMessage s o) := by
  unfold State.sendMessage
  extract_lets x2 x3 x4
  split
  · exact State_sendRmn_keeps hs
  · exact Keeps.mk' hs rfl rfl rfl

theorem msendEffect_keeps {s0 : State} {s : State} {o : Op} (hs : Keeps s0 s) : (msendEffect s o).Keeps s0 := by
  unfold msendEffect
  extract_lets x2 x3
  split
  rename_i y8 y9 y10 y11
  extract_lets x13
  have h14 : Keeps s0 x13 := by
    unfold x13
    exact State_asyncTicket_keeps (Keeps.of_snd (State_outside_keeps hs) y11)
  clear_value x13
  refine Eff.keeps_done.2 ?_
  split
  · exact h14
  · exact State_sendMessage_keeps h14

theorem execMsend_keeps {s0 : State} {tile : Nat} {thread : Nat} {w : BitVec 128} {s : State} (hs : Keeps s0 s) :
    OutKeeps s0 (execMsend tile thread w s) := by
  unfold execMsend
  apply runOp_keeps
  · intro x3
    intro x5
    intro x7
    dsimp only [msendSpec]
    exact msendEffect_keeps x7
  · exact hs

theorem mpopEffect_keeps {s0 : State} {s : State} {o : Op} (hs : Keeps s0 s) : (mpopEffect s o).Keeps s0 := by
  unfold mpopEffect
  extract_lets x2
  split
  rename_i y5 y6
  have h7 : Keeps s0 y5 := Keeps.of_snd (State_outside_keeps hs) y6
  show Keeps s0 _
  split
  · exact h7
  · exact State_ownPop_keeps h7

theorem execMpop_keeps {s0 : State} {tile : Nat} {thread : Nat} {w : BitVec 128} {s : State} (hs : Keeps s0 s) :
    OutKeeps s0 (execMpop tile thread w s) := by
  unfold execMpop
  apply runOp_keeps
  · intro x3
    intro x5
    intro x7
    dsimp only [mpopSpec]
    exact mpopEffect_keeps x7
  · exact hs

theorem releaseEffect_keeps {s0 : State} {s : State} {o : Op} (hs : Keeps s0 s) : (releaseEffect s o).Keeps s0 := by
  unfold releaseEffect
  extract_lets x2
  split
  rename_i y4 y5 y6 y7
  refine Eff.keeps_done.2 ?_
  split
  · exact Keeps.of_snd (State_outside_keeps hs) y7
  · exact State_sendRmn_keeps (Keeps.of_snd (State_outside_keeps hs) y7)

theorem execMcloseRelease_keeps {s0 : State} {tile : Nat} {thread : Nat} {w : BitVec 128} {s : State} (hs : Keeps s0 s) :
    OutKeeps s0 (execMcloseRelease tile thread w s) := by
  unfold execMcloseRelease
  apply runOp_keeps
  · intro x3
    intro x5
    intro x7
    dsimp only [mcloseReleaseSpec]
    exact releaseEffect_keeps x7
  · exact hs

theorem closeEffect_keeps {s0 : State} {s : State} {o : Op} (hs : Keeps s0 s) : (closeEffect s o).Keeps s0 := by
  unfold closeEffect
  split
  rename_i y2 y3 y4 y5
  refine Eff.keeps_done.2 ?_
  split
  · exact Keeps.of_snd (State_outside_keeps hs) y5
  · exact State_ownChange_keeps (Keeps.of_snd (State_outside_keeps hs) y5)

theorem execMcloseClose_keeps {s0 : State} {tile : Nat} {thread : Nat} {w : BitVec 128} {s : State} (hs : Keeps s0 s) :
    OutKeeps s0 (execMcloseClose tile thread w s) := by
  unfold execMcloseClose
  apply runOp_keeps
  · intro x3
    intro x5
    intro x7
    dsimp only [mcloseCloseSpec]
    exact closeEffect_keeps x7
  · exact hs

theorem State_dropReply_keeps {s0 : State} {s : State} {r : Nat} (hs : Keeps s0 s) : Keeps s0 (State.dropReply s r) := by
  unfold State.dropReply
  exact Keeps.mk' hs rfl rfl rfl

theorem State_mopenReply_keeps {s0 : State} {s : State} {r : Nat} (hs : Keeps s0 s) : Keeps s0 (State.mopenReply s r) := by
  unfold State.mopenReply
  split
  · exact hs
  · exact State_flushRemote_keeps (State_freeTicket_keeps (State_landLine_keeps (State_dropReply_keeps hs)))

theorem execMopenReply_keeps {s0 : State} {reply : Nat} {s : State} (hs : Keeps s0 s) : OutKeeps s0 (execMopenReply reply s) := by
  unfold execMopenReply
  refine OutKeeps.whenever ?_ (fun h2 => ?_)
  · exact hs
  · exact State_mopenReply_keeps hs

theorem State_msendReply_keeps {s0 : State} {s : State} {r : Nat} (hs : Keeps s0 s) : Keeps s0 (State.msendReply s r) := by
  unfold State.msendReply
  split
  · exact hs
  · extract_lets x7 x8 x9 x10
    have h11 : Keeps s0 x7 := by
      unfold x7
      refine Keeps.modTile ?_ (fun w12 x13 h14 => ?_)
      · exact State_dropReply_keeps hs
      · extract_lets x15
        have h16 : Memory.wf x15.mem = true := by
          unfold x15
          exact Tile_putNarrow_keeps h14
        clear_value x15
        exact h16
    clear_value x7
    have h18 : Keeps s0 x10 := by
      unfold x10
      split
      · exact State_logInput_keeps h11
      · exact h11
    clear_value x10
    exact State_flushRemote_keeps (State_freeTicket_keeps h18)

theorem execMsendReply_keeps {s0 : State} {reply : Nat} {s : State} (hs : Keeps s0 s) : OutKeeps s0 (execMsendReply reply s) := by
  unfold execMsendReply
  refine OutKeeps.whenever ?_ (fun h2 => ?_)
  · exact hs
  · exact State_msendReply_keeps hs

theorem State_dropItem_keeps {s0 : State} {s : State} {i : Nat} (hs : Keeps s0 s) : Keeps s0 (State.dropItem s i) := by
  unfold State.dropItem
  exact Keeps.mk' hs rfl rfl rfl

theorem State_arrived_keeps {s0 : State} {s : State} (hs : Keeps s0 s) : Keeps s0 (State.arrived s) := by
  unfold State.arrived
  exact State_flushOwn_keeps hs

theorem State_sendReply_keeps {s0 : State} {s : State} {item : Nat} {stamp : Nat} {source : Nat} {ctx : Nat} {who : Who} {mopen : Bool} {at_ : Nat} {value : Nat} {result : Nat} (hs : Keeps s0 s) :
    Keeps s0 (State.sendReply s item stamp source ctx who mopen at_ value result) := by
  unfold State.sendReply
  exact Keeps.mk' hs rfl rfl rfl

theorem State_connected_keeps {s0 : State} {s : State} {x : RmnItem} {w : Who} {line : Nat} {n : Nat} {q : Queue} {a : Nat} (hs : Keeps s0 s) :
    Keeps s0 (State.connected s x w line n q a) := by
  unfold State.connected
  extract_lets x5
  split
  · exact State_sendReply_keeps (State_modQueue_keeps hs)
  · exact State_sendReply_keeps hs

theorem State_connect_keeps {s0 : State} {s : State} {i : Nat} (hs : Keeps s0 s) : Keeps s0 (State.connect s i) := by
  unfold State.connect
  split
  · exact hs
  · extract_lets x7
    have h8 : Keeps s0 x7 := by
      unfold x7
      exact State_dropItem_keeps hs
    clear_value x7
    split
    · split
      · exact State_sendReply_keeps h8
      · apply State_withQueue_keeps
        · exact h8
        · intro h22
          intro h23
          exact State_connected_keeps h23
    · exact h8

theorem execConnectRequest_keeps {s0 : State} {item : Nat} {s : State} (hs : Keeps s0 s) : OutKeeps s0 (execConnectRequest item s) := by
  unfold execConnectRequest
  refine OutKeeps.whenever ?_ (fun h2 => ?_)
  · exact hs
  · exact State_arrived_keeps (State_connect_keeps hs)

theorem State_releaseArrives_keeps {s0 : State} {s : State} {i : Nat} (hs : Keeps s0 s) : Keeps s0 (State.releaseArrives s i) := by
  unfold State.releaseArrives
  split
  · exact hs
  · extract_lets x27
    have h28 : Keeps s0 x27 := by
      unfold x27
      exact State_dropItem_keeps hs
    clear_value x27
    split
    · extract_lets x33
      split
      · apply State_withQueue_keeps
        · exact h28
        · intro h35
          intro h36
          split
          · exact State_modQueue_keeps h36
          · exact h36
      · exact h28
    · exact h28

theorem execQueueReleaseArrival_keeps {s0 : State} {item : Nat} {s : State} (hs : Keeps s0 s) :
    OutKeeps s0 (execQueueReleaseArrival item s) := by
  unfold execQueueReleaseArrival
  refine OutKeeps.whenever ?_ (fun h2 => ?_)
  · exact hs
  · exact State_arrived_keeps (State_releaseArrives_keeps hs)

theorem State_answerHost_keeps {s0 : State} {s : State} {f : Nat} {num : Nat} {result : Nat} {again : RmnItem} (hs : Keeps s0 s) :
    Keeps s0 (State.answerHost s f num result again) := by
  unfold State.answerHost
  split
  · exact hs
  · split
    · exact hs
    · split
      · exact State_sendRmn_keeps hs
      · exact State_complete_keeps hs

theorem State_refuseMessage_keeps {s0 : State} {s : State} {x : RmnItem} {n : Nat} {status : Nat} {result : Nat} (hs : Keeps s0 s) :
    Keeps s0 (State.refuseMessage s x n status result) := by
  unfold State.refuseMessage
  extract_lets x2
  have h3 : Keeps s0 x2 := by
    unfold x2
    split
    · exact hs
    · exact State_modQueue_keeps hs
  clear_value x2
  split
  · exact State_sendReply_keeps h3
  · exact State_answerHost_keeps h3
  · exact h3

theorem State_placeMessage_keeps {s0 : State} {s : State} {x : RmnItem} {n : Nat} {pay : List (Nat × Bool)} {status : Nat} {pad : Nat} {pos : Nat} {wr : Nat} (hs : Keeps s0 s) :
    Keeps s0 (State.placeMessage s x n pay status pad pos wr) := by
  unfold State.placeMessage
  extract_lets x2 x3 x4 x5 x6 x7
  have h8 : Keeps s0 x4 := by
    unfold x4
    exact State_modQueue_keeps hs
  clear_value x4
  have h11 : Keeps s0 x5 := by
    unfold x5
    exact Keeps.mk' h8 rfl rfl rfl
  clear_value x5
  have h14 : Keeps s0 x7 := by
    unfold x7
    exact Keeps.mk' h11 rfl rfl rfl
  clear_value x7
  split
  · exact h14
  · exact State_issueWrites_keeps h14

theorem State_headPlaced_keeps {s0 : State} {s1 : State} {x : RmnItem} {n : Nat} {pay : List (Nat × Bool)} {status : Nat} {res : Option Nat} {p : Place} (hs1 : Keeps s0 s1) :
    Keeps s0 (State.headPlaced s1 x n pay status res p) := by
  unfold State.headPlaced
  split
  · exact State_refuseMessage_keeps hs1
  · exact State_refuseMessage_keeps hs1
  · exact State_placeMessage_keeps hs1

theorem State_headDecided_keeps {s0 : State} {s1 : State} {x : RmnItem} {n : Nat} {pay : List (Nat × Bool)} {status : Nat} {res : Option Nat} {bad : Option FaultRec} {p : Place} (hs1 : Keeps s0 s1) :
    Keeps s0 (State.headDecided s1 x n pay status res bad p) := by
  unfold State.headDecided
  split
  · split
    · exact State_refuseMessage_keeps hs1
    · exact State_raise_keeps hs1
  · exact State_headPlaced_keeps (State_rmnFix_keeps hs1)

theorem State_head_keeps {s0 : State} {s : State} {i : Nat} (hs : Keeps s0 s) : Keeps s0 (State.head s i) := by
  unfold State.head
  split
  · exact hs
  · extract_lets x9
    have h10 : Keeps s0 x9 := by
      unfold x9
      exact State_dropItem_keeps hs
    clear_value x9
    split
    · exact State_headDecided_keeps h10
    · exact h10

theorem execMessageHead_keeps {s0 : State} {item : Nat} {s : State} (hs : Keeps s0 s) : OutKeeps s0 (execMessageHead item s) := by
  unfold execMessageHead
  refine OutKeeps.whenever ?_ (fun h2 => ?_)
  · exact hs
  · exact State_arrived_keeps (State_head_keeps hs)

theorem State_deliver_keeps {s0 : State} {s : State} {p : Placing} (hs : Keeps s0 s) : Keeps s0 (State.deliver s p) := by
  unfold State.deliver
  split
  · exact State_sendReply_keeps hs
  · exact hs

theorem State_landMessage_keeps {s0 : State} {s : State} {p : Placing} {bad : Nat} (hs : Keeps s0 s) :
    Keeps s0 (State.landMessage s p bad) := by
  unfold State.landMessage
  extract_lets x2 x3
  have h4 : Keeps s0 x3 := by
    unfold x3
    exact State_writeRing_keeps hs
  clear_value x3
  split
  · extract_lets x12
    exact State_meshParity_keeps h4
  · exact h4

theorem State_finished_keeps {s0 : State} {s : State} {p : Placing} (hs : Keeps s0 s) : Keeps s0 (State.finished s p) := by
  unfold State.finished
  extract_lets x1
  have h1 : Keeps s0 x1 := by
    unfold x1
    exact State_modQueue_keeps hs
  clear_value x1
  apply State_deliver_keeps
  split
  · exact h1
  · exact State_hbmHeader_keeps h1

theorem State_placed_keeps {s0 : State} {s : State} {m : Nat} {bad : Nat} (hs : Keeps s0 s) : Keeps s0 (State.placed s m bad) := by
  unfold State.placed
  split
  · exact hs
  · extract_lets x9 x10 x11
    have h13 : Keeps s0 x10 := by
      unfold x10
      exact Keeps.mk' hs rfl rfl rfl
    have h16 : Keeps s0 x11 := by
      unfold x11
      split
      · exact State_landMessage_keeps h13
      · exact h13
    split
    · exact h16
    · exact State_withQueue_keeps h16 fun _ h => State_finished_keeps h

theorem execMessagePlaced_keeps {s0 : State} {msg : Nat} {bad : Nat} {s : State} (hs : Keeps s0 s) :
    OutKeeps s0 (execMessagePlaced msg bad s) := by
  unfold execMessagePlaced
  refine OutKeeps.whenever ?_ (fun h2 => ?_)
  · exact hs
  · exact State_placed_keeps hs

theorem State_queueReset_keeps {s0 : State} {s : State} {bank : Nat} (hs : Keeps s0 s) : Keeps s0 (State.queueReset s bank) := by
  unfold State.queueReset
  extract_lets x2
  apply State_withQueue_keeps
  · exact hs
  · intro h3
    intro h4
    extract_lets x5
    have h6 : Keeps s0 x5 := by
      unfold x5
      exact State_modQueue_keeps h4
    clear_value x5
    split
    · exact State_hbmHeader_keeps h6
    · exact h6

theorem execQueueReset_keeps {s0 : State} {bank : Nat} {s : State} (hs : Keeps s0 s) : OutKeeps s0 (execQueueReset bank s) := by
  unfold execQueueReset
  refine OutKeeps.whenever ?_ (fun h2 => ?_)
  · exact hs
  · exact State_queueReset_keeps (State_access_keeps hs)

theorem State_queueHold_keeps {s0 : State} {s : State} {bank : Nat} {on : Bool} (hs : Keeps s0 s) :
    Keeps s0 (State.queueHold s bank on) := by
  unfold State.queueHold
  apply State_withQueue_keeps
  · exact hs
  · intro h4
    intro h5
    exact State_modQueue_keeps h5

theorem execQueueHold_keeps {s0 : State} {bank : Nat} {on : Bool} {s : State} (hs : Keeps s0 s) :
    OutKeeps s0 (execQueueHold bank on s) := by
  unfold execQueueHold
  refine OutKeeps.whenever ?_ (fun h2 => ?_)
  · exact hs
  · exact State_queueHold_keeps (State_access_keeps hs)

theorem State_ringBytes_keeps {s0 : State} {s : State} {core : Nat} {value : Nat} (hs : Keeps s0 s) :
    Keeps s0 (State.ringBytes s core value) := by
  unfold State.ringBytes
  apply State_withQueue_keeps
  · exact hs
  · intro h2
    intro h3
    exact State_modQueue_keeps h3

theorem execRmnQRelease_keeps {s0 : State} {core : Nat} {value : Nat} {s : State} (hs : Keeps s0 s) :
    OutKeeps s0 (execRmnQRelease core value s) := by
  unfold execRmnQRelease
  refine OutKeeps.whenever ?_ (fun h2 => ?_)
  · exact hs
  · exact State_ringBytes_keeps (State_access_keeps hs)

end Sys2Proof.Machine
end

