-- ==== Sys2Proof/Laws/KeepsMem.lean ====
section
/-! SUPPORT. The operations of Machine/Mem.lean keep what Keeps says. -/

namespace Sys2Proof.Machine

theorem State_countUncorrectable_keeps {s0 : State} {s : State} (hs : Keeps s0 s) : Keeps s0 (State.countUncorrectable s) := by
  unfold State.countUncorrectable
  exact Keeps.mk' hs rfl rfl rfl

theorem State_eccRead_keeps {s0 : State} {s : State} {line : Nat} {scrub : Bool} (hs : Keeps s0 s) :
    Keeps s0 (State.eccRead s line scrub) := by
  unfold State.eccRead
  split
  · exact hs
  · exact Keeps.mk' hs rfl rfl rfl
  · split
    · exact State_raise_keeps (State_countUncorrectable_keeps hs)
    · extract_lets x10 x11 x12
      have h13 : Keeps s0 x10 := by
        unfold x10
        exact State_storeLine_keeps hs
      clear_value x10
      have h14 : Keeps s0 x11 := by
        unfold x11
        split
        · apply State_modEntry_keeps
          exact h13
        · exact h13
      clear_value x11
      apply State_raise_keeps
      apply State_countUncorrectable_keeps
      exact Keeps.mk' h14 rfl rfl rfl

theorem State_moveAcc_keeps {s0 : State} {s : State} {a : Access} (hs : Keeps s0 s) : Keeps s0 (State.moveAcc s a) := by
  unfold State.moveAcc
  exact Keeps.mk' hs rfl rfl rfl

theorem State_setAcc_keeps {s0 : State} {s : State} {a : Access} (hs : Keeps s0 s) : Keeps s0 (State.setAcc s a) := by
  unfold State.setAcc
  exact Keeps.mk' hs rfl rfl rfl

theorem State_dropAcc_keeps {s0 : State} {s : State} {i : Nat} (hs : Keeps s0 s) : Keeps s0 (State.dropAcc s i) := by
  unfold State.dropAcc
  exact Keeps.mk' hs rfl rfl rfl

theorem State_setMemOp_keeps {s0 : State} {s : State} {o : MemOp} (hs : Keeps s0 s) : Keeps s0 (State.setMemOp s o) := by
  unfold State.setMemOp
  exact Keeps.mk' hs rfl rfl rfl

theorem State_dropMemOp_keeps {s0 : State} {s : State} {i : Nat} (hs : Keeps s0 s) : Keeps s0 (State.dropMemOp s i) := by
  unfold State.dropMemOp
  exact Keeps.mk' hs rfl rfl rfl

theorem State_mapAccs_keeps {s0 : State} {s : State} {f : Access → Access} (hs : Keeps s0 s) : Keeps s0 (State.mapAccs s f) := by
  unfold State.mapAccs
  exact Keeps.mk' hs rfl rfl rfl

theorem State_modDesc_keeps {s0 : State} {s : State} {d : Nat} {f : Desc → Desc} (hs : Keeps s0 s) : Keeps s0 (State.modDesc s d f) := by
  unfold State.modDesc
  exact Keeps.mk' hs rfl rfl rfl

theorem State_modCDesc_keeps {s0 : State} {s : State} {d : Nat} {f : CDesc → CDesc} (hs : Keeps s0 s) :
    Keeps s0 (State.modCDesc s d f) := by
  unfold State.modCDesc
  exact Keeps.mk' hs rfl rfl rfl

theorem State_modPeerOp_keeps {s0 : State} {s : State} {i : Nat} {f : PeerOp → PeerOp} (hs : Keeps s0 s) :
    Keeps s0 (State.modPeerOp s i f) := by
  unfold State.modPeerOp
  exact Keeps.mk' hs rfl rfl rfl

theorem State_nakPeer_keeps {s0 : State} {s : State} {op : Nat} {reason : Nat} (hs : Keeps s0 s) :
    Keeps s0 (State.nakPeer s op reason) := by
  unfold State.nakPeer
  split
  · exact hs
  · extract_lets x9 x10
    have h11 : Keeps s0 x9 := by
      unfold x9
      exact State_reply_keeps hs
    clear_value x9
    exact Keeps.mk' h11 rfl rfl rfl

theorem State_descFault_keeps {s0 : State} {s : State} {d : Desc} {r : FaultRec} (hs : Keeps s0 s) : Keeps s0 (State.descFault s d r) := by
  unfold State.descFault
  dsimp only
  have h : Keeps s0 ({ s with hbm := { s.hbm with stopped := mset false s.hbm.stopped d.queue true } }.modDesc d.id
      fun x => { x with faulted := true, hostPoison := 0 }) := State_modDesc_keeps (Keeps.mk' hs rfl rfl rfl)
  refine State_raise_keeps (State_faultCmd_keeps ?_)
  split
  · exact h
  · exact State_writeRec_keeps h

theorem State_cdescFault_keeps {s0 : State} {s : State} {d : Nat} {r : FaultRec} (hs : Keeps s0 s) : Keeps s0 (State.cdescFault s d r) := by
  unfold State.cdescFault
  extract_lets x2 x3
  have h4 : Keeps s0 x3 := by
    unfold x3
    split
    · exact Keeps.mk' hs rfl rfl rfl
    · assumption
  clear_value x3
  exact State_raise_keeps (State_modCDesc_keeps h4)

theorem State_trap_keeps {s0 : State} {s : State} {core : Nat} (hs : Keeps s0 s) : Keeps s0 (State.trap s core) := by
  unfold State.trap
  exact State_out_keeps hs

theorem State_refused_keeps {s0 : State} {s : State} {k : MemOpKind} {r : FaultRec} (hs : Keeps s0 s) :
    Keeps s0 (State.refused s k r) := by
  unfold State.refused
  split
  · split
    · exact State_descFault_keeps hs
    · exact State_raise_keeps hs
  · exact State_cdescFault_keeps hs
  · exact State_raise_keeps (State_trap_keeps hs)
  · exact State_raise_keeps hs

theorem State_crtRefused_keeps {s0 : State} {s : State} {k : MemOpKind} {va : Nat} (hs : Keeps s0 s) :
    Keeps s0 (State.crtRefused s k va) := by
  unfold State.crtRefused
  split
  · split
    · exact State_crtEnd_keeps hs
    · exact hs
  · exact hs

theorem State_noteWho_keeps {s0 : State} {s : State} {w : Who} (hs : Keeps s0 s) : Keeps s0 (State.noteWho s w) := by
  unfold State.noteWho
  exact State_noteThread_keeps hs

theorem State_noteFill_keeps {s0 : State} {s : State} {k : MemOpKind} (hs : Keeps s0 s) : Keeps s0 (State.noteFill s k) := by
  unfold State.noteFill
  split
  · exact State_noteWho_keeps hs
  · exact State_noteWho_keeps hs
  · exact hs

theorem State_settle_keeps {s0 : State} {s : State} {op : Nat} (hs : Keeps s0 s) : Keeps s0 (State.settle s op) := by
  unfold State.settle
  split
  · exact hs
  · split
    · exact hs
    · split
      · exact hs
      · extract_lets x16
        exact State_refused_keeps (State_crtRefused_keeps (State_nakPeer_keeps (State_noteFill_keeps (State_dropMemOp_keeps hs))))

theorem State_refuseAcc_keeps {s0 : State} {s : State} {a : Access} {code : Nat} {detail : Nat} (hs : Keeps s0 s) :
    Keeps s0 (State.refuseAcc s a code detail) := by
  unfold State.refuseAcc
  extract_lets x2
  have h3 : Keeps s0 x2 := by
    unfold x2
    exact State_dropAcc_keeps hs
  clear_value x2
  apply State_settle_keeps
  split
  · exact State_setMemOp_keeps h3
  · exact h3

theorem State_forward_keeps {s0 : State} {s : State} {a : Access} (hs : Keeps s0 s) : Keeps s0 (State.forward s a) := by
  unfold State.forward
  extract_lets x2
  exact State_settle_keeps (State_moveAcc_keeps hs)

theorem State_startCopy_keeps {s0 : State} {s : State} {a : Access} (hs : Keeps s0 s) : Keeps s0 (State.startCopy s a) := by
  unfold State.startCopy
  extract_lets x2 x3 x4 x5 x6
  have h7 : Keeps s0 x5 := by
    unfold x5
    exact State_moveAcc_keeps (State_setCtx_keeps hs)
  clear_value x5
  split
  · exact hs
  · exact Keeps.mk' h7 rfl rfl rfl

theorem State_translate_keeps {s0 : State} {s : State} {a : Access} (hs : Keeps s0 s) : Keeps s0 (State.translate s a) := by
  unfold State.translate
  split
  · exact State_refuseAcc_keeps hs
  · split
    · exact State_startCopy_keeps hs
    · exact State_forward_keeps hs

theorem State_slice_keeps {s0 : State} {s : State} {i : Nat} {mapError : Bool} (hs : Keeps s0 s) : Keeps s0 (State.slice s i mapError) := by
  unfold State.slice
  split
  · exact hs
  · split
    · exact State_raise_keeps (State_countUncorrectable_keeps (State_dropAcc_keeps hs))
    · split
      · exact State_moveAcc_keeps hs
      · exact State_translate_keeps hs

theorem execSliceAccess_keeps {s0 : State} {acc : Nat} {mapError : Bool} {s : State} (hs : Keeps s0 s) :
    OutKeeps s0 (execSliceAccess acc mapError s) := by
  unfold execSliceAccess
  refine OutKeeps.whenever ?_ (fun h2 => ?_)
  · exact hs
  · exact State_slice_keeps hs

theorem State_copyFrame_keeps {s0 : State} {s : State} {src : Nat} {dst : Nat} (hs : Keeps s0 s) :
    Keeps s0 (State.copyFrame s src dst) := by
  unfold State.copyFrame
  extract_lets x2 x3
  have h4 : Keeps s0 x2 := by
    unfold x2
    refine Keeps.foldl (fun x6 x7 h8 => ?_) ?_
    · exact State_eccRead_keeps h8
    · exact hs
  clear_value x2
  refine Keeps.mkAll ?_ (fun w13 => ?_) (fun w13 => ?_) (fun w13 => ?_) ?_
  · exact h4
  · dsimp only
    refine mcopy_wf ?_
    exact h4.hbm_wf w13
  · exact h4.tiles_wf w13
  · exact h4.images_wf w13
  · exact h4.fuses

theorem State_releaseHeld_keeps {s0 : State} {s : State} {entry : Nat} (hs : Keeps s0 s) : Keeps s0 (State.releaseHeld s entry) := by
  unfold State.releaseHeld
  refine Keeps.foldl (fun x2 x3 h4 => ?_) ?_
  · split
    · exact State_translate_keeps h4
    · exact h4
  · exact hs

theorem State_copyDone_keeps {s0 : State} {s : State} {entry : Nat} (hs : Keeps s0 s) : Keeps s0 (State.copyDone s entry) := by
  unfold State.copyDone
  split
  · exact hs
  · extract_lets x9 x10 x11 x12
    have h13 : Keeps s0 x10 := by
      unfold x10
      exact State_copyFrame_keeps hs
    clear_value x10
    have h16 : Keeps s0 x11 := by
      unfold x11
      exact State_modEntry_keeps h13
    clear_value x11
    exact State_releaseHeld_keeps (Keeps.mk' h16 rfl rfl rfl)

theorem State_hbmMeshParity_keeps {s0 : State} {s : State} {a : Access} (hs : Keeps s0 s) : Keeps s0 (State.hbmMeshParity s a) := by
  unfold State.hbmMeshParity
  split
  · exact State_meshParity_keeps hs
  · split
    · exact hs
    · exact State_meshParity_keeps (State_setMemOp_keeps hs)

theorem State_accept_keeps {s0 : State} {s : State} {i : Nat} {parity : Bool} (hs : Keeps s0 s) : Keeps s0 (State.accept s i parity) := by
  unfold State.accept
  split
  · exact hs
  · extract_lets x9 x10 x11 x12 x13 x14 x15
    have h16 : Keeps s0 x11 := by
      unfold x11
      split
      · exact hs
      · exact State_eccRead_keeps hs
    clear_value x11
    have h23 : Keeps s0 x14 := by
      unfold x14
      exact State_moveAcc_keeps (State_storeLine_keeps h16)
    clear_value x14
    have h27 : Keeps s0 x15 := by
      unfold x15
      split
      · exact State_modEntry_keeps h23
      · exact h23
    clear_value x15
    split
    · exact State_hbmMeshParity_keeps h27
    · exact h27

theorem execHbmWriteAccept_keeps {s0 : State} {acc : Nat} {parity : Bool} {s : State} (hs : Keeps s0 s) :
    OutKeeps s0 (execHbmWriteAccept acc parity s) := by
  unfold execHbmWriteAccept
  refine OutKeeps.whenever ?_ (fun h2 => ?_)
  · exact hs
  · exact State_accept_keeps hs

theorem State_readReturn_keeps {s0 : State} {s : State} {i : Nat} (hs : Keeps s0 s) : Keeps s0 (State.readReturn s i) := by
  unfold State.readReturn
  split
  · exact hs
  · dsimp only
    exact Keeps.mk' (State_eccRead_keeps hs) rfl rfl rfl

theorem execHbmReadReturn_keeps {s0 : State} {acc : Nat} {s : State} (hs : Keeps s0 s) : OutKeeps s0 (execHbmReadReturn acc s) := by
  unfold execHbmReadReturn
  refine OutKeeps.whenever ?_ (fun h2 => ?_)
  · exact hs
  · exact State_readReturn_keeps hs

theorem State_opDone_keeps {s0 : State} {s : State} {o : MemOp} (hs : Keeps s0 s) : Keeps s0 (State.opDone s o) := by
  unfold State.opDone
  split
  · exact State_freeTicket_keeps hs
  · exact State_freeTicket_keeps hs
  · split
    · exact State_crtEnd_keeps hs
    · exact hs
  · split
    · exact hs
    · extract_lets x37 x38
      have h39 : Keeps s0 x37 := by
        unfold x37
        split
        · exact State_reply_keeps hs
        · exact State_reply_keeps hs
      clear_value x37
      exact Keeps.mk' h39 rfl rfl rfl
  · exact hs

theorem State_lineDone_keeps {s0 : State} {s : State} {op : Nat} (hs : Keeps s0 s) : Keeps s0 (State.lineDone s op) := by
  unfold State.lineDone
  split
  · exact hs
  · extract_lets x9
    have h10 : Keeps s0 x9 := by
      unfold x9
      split
      · exact State_modDesc_keeps hs
      · exact State_modCDesc_keeps hs
      · exact hs
    clear_value x9
    split
    · split
      · exact State_setMemOp_keeps h10
      · exact State_opDone_keeps (State_dropMemOp_keeps h10)
    · exact State_setMemOp_keeps h10

theorem State_ack_keeps {s0 : State} {s : State} {i : Nat} (hs : Keeps s0 s) : Keeps s0 (State.ack s i) := by
  unfold State.ack
  split
  · exact hs
  · exact State_afterOrder7_keeps (State_flushRemote_keeps (State_lineDone_keeps (State_dropAcc_keeps hs)))

theorem execWriteAcknowledgement_keeps {s0 : State} {acc : Nat} {s : State} (hs : Keeps s0 s) :
    OutKeeps s0 (execWriteAcknowledgement acc s) := by
  unfold execWriteAcknowledgement
  refine OutKeeps.whenever ?_ (fun h2 => ?_)
  · exact hs
  · exact State_ack_keeps hs

theorem State_dataArrives_keeps {s0 : State} {s : State} {i : Nat} {parity : Bool} (hs : Keeps s0 s) :
    Keeps s0 (State.dataArrives s i parity) := by
  unfold State.dataArrives
  split
  · exact hs
  · extract_lets x9
    have h10 : Keeps s0 x9 := by
      unfold x9
      exact State_dropAcc_keeps hs
    clear_value x9
    split
    · exact h10
    · split
      · extract_lets x26 x27 x28
        have h29 : Keeps s0 x27 := by
          unfold x27
          exact State_landLine_keeps h10
        clear_value x27
        have h32 : Keeps s0 x28 := by
          unfold x28
          split
          · exact State_meshParity_keeps (State_setMemOp_keeps h29)
          · exact h29
        clear_value x28
        exact State_flushRemote_keeps (State_lineDone_keeps h32)
      · exact State_lineDone_keeps (State_modPeerOp_keeps h10)
      · exact State_lineDone_keeps h10

theorem execReadDataArrival_keeps {s0 : State} {acc : Nat} {parity : Bool} {s : State} (hs : Keeps s0 s) :
    OutKeeps s0 (execReadDataArrival acc parity s) := by
  unfold execReadDataArrival
  refine OutKeeps.whenever ?_ (fun h2 => ?_)
  · exact hs
  · exact State_dataArrives_keeps hs

theorem execErrorCheckAndScrub_keeps {s0 : State} {line : Nat} {s : State} (hs : Keeps s0 s) :
    OutKeeps s0 (execErrorCheckAndScrub line s) := by
  unfold execErrorCheckAndScrub
  refine OutKeeps.whenever ?_ (fun h2 => ?_)
  · exact hs
  · exact State_eccRead_keeps hs

end Sys2Proof.Machine
end

