-- ==== Sys2Proof/Laws/KeepsFrameMap.lean ====
section
/-! SUPPORT. The operations of Machine/FrameMap.lean keep what Keeps says. -/

namespace Sys2Proof.Machine

theorem State_setFm_keeps {s0 : State} {s : State} {n : Nat} {x : FmSet} (hs : Keeps s0 s) : Keeps s0 (State.setFm s n x) := by
  unfold State.setFm
  exact Keeps.mk' hs rfl rfl rfl

theorem State_zeroFrame_keeps {s0 : State} {s : State} {frame : Nat} {back : Option Nat} (hs : Keeps s0 s) :
    Keeps s0 (State.zeroFrame s frame back) := by
  unfold State.zeroFrame
  exact Keeps.mk' hs rfl rfl rfl

theorem State_rereadGranule_keeps {s0 : State} {s : State} {frame : Nat} {g : Nat} (hs : Keeps s0 s) :
    Keeps s0 (State.rereadGranule s frame g).1 := by
  unfold State.rereadGranule
  extract_lets x2 x3
  have h4 : Keeps s0 x3 := by
    unfold x3
    refine Keeps.foldl (fun x6 x7 h8 => ?_) ?_
    · exact State_eccRead_keeps h8
    · exact hs
  clear_value x3
  dsimp only
  exact h4

theorem State_clearPoison_keeps {s0 : State} {s : State} {i : Nat} (hs : Keeps s0 s) : Keeps s0 (State.clearPoison s i) := by
  unfold State.clearPoison
  refine Keeps.foldl (fun x2 x3 h4 => ?_) ?_
  · split
    · rename_i y6 y7 y8
      exact State_modEntry_keeps (Keeps.of_fst (State_rereadGranule_keeps h4) y8)
    · rename_i y13 y14 y15
      exact Keeps.of_fst (State_rereadGranule_keeps h4) y15
  · exact hs

theorem State_fmEffect_keeps {s0 : State} {s : State} {v : Nat} {pframe : Nat} {i : Nat} (hs : Keeps s0 s) :
    Keeps s0 (State.fmEffect s v pframe i) := by
  unfold State.fmEffect
  extract_lets x2 x3 x4 x5 x6 x7 x8 x9
  have h10 : Keeps s0 x4 := by
    unfold x4
    exact State_modEntry_keeps hs
  clear_value x4
  have h13 : Keeps s0 x6 := by
    unfold x6
    exact State_zeroFrame_keeps (State_modEntry_keeps hs)
  clear_value x6
  have h17 : Keeps s0 x7 := by
    unfold x7
    exact State_modEntry_keeps hs
  clear_value x7
  split
  · exact Keeps.mk' h10 rfl rfl rfl
  · split
    · exact State_zeroFrame_keeps h13
    · exact h13
  · exact State_modEntry_keeps hs
  · exact State_modEntry_keeps hs
  · split
    · exact State_zeroFrame_keeps (State_setCtx_keeps h17)
    · exact h17
  · exact State_clearPoison_keeps hs

theorem State_fmApply_keeps {s0 : State} {s : State} {n : Nat} {v : Nat} (hs : Keeps s0 s) : Keeps s0 (State.fmApply s n v) := by
  unfold State.fmApply
  extract_lets x2 x3 x4 x5 x6
  have h7 : Keeps s0 x6 := by
    unfold x6
    refine Keeps.foldl (fun x8 a10 h9 => ?_) ?_
    · exact State_fmEffect_keeps h9
    · exact hs
  clear_value x6
  split
  · exact State_setFm_keeps hs
  · exact State_setFm_keeps h7

theorem State_fmSubmit_keeps {s0 : State} {s : State} {n : Nat} {v : Nat} (hs : Keeps s0 s) : Keeps s0 (State.fmSubmit s n v) := by
  unfold State.fmSubmit
  split
  · exact State_setFm_keeps hs
  · exact State_fmApply_keeps hs

theorem State_fmResume_keeps {s0 : State} {s : State} (hs : Keeps s0 s) : Keeps s0 (State.fmResume s) := by
  unfold State.fmResume
  refine Keeps.foldl (fun x2 a4 h3 => ?_) ?_
  · split
    · split
      · exact h3
      · exact State_fmApply_keeps h3
    · exact h3
  · exact hs

theorem execCowCopyComplete_keeps {s0 : State} {entry : Nat} {s : State} (hs : Keeps s0 s) : OutKeeps s0 (execCowCopyComplete entry s) := by
  unfold execCowCopyComplete
  refine OutKeeps.whenever ?_ (fun h2 => ?_)
  · exact hs
  · exact State_fmResume_keeps (State_copyDone_keeps hs)

theorem execMap_keeps {s0 : State} {set : Nat} {value : Nat} {s : State} (hs : Keeps s0 s) : OutKeeps s0 (execMap set value s) := by
  unfold execMap
  refine OutKeeps.whenever ?_ (fun h2 => ?_)
  · exact hs
  · exact State_fmSubmit_keeps (State_access_keeps hs)

theorem execUnmap_keeps {s0 : State} {set : Nat} {value : Nat} {s : State} (hs : Keeps s0 s) : OutKeeps s0 (execUnmap set value s) := by
  unfold execUnmap
  refine OutKeeps.whenever ?_ (fun h2 => ?_)
  · exact hs
  · exact State_fmSubmit_keeps (State_access_keeps hs)

theorem execSetperm_keeps {s0 : State} {set : Nat} {value : Nat} {s : State} (hs : Keeps s0 s) : OutKeeps s0 (execSetperm set value s) := by
  unfold execSetperm
  refine OutKeeps.whenever ?_ (fun h2 => ?_)
  · exact hs
  · exact State_fmSubmit_keeps (State_access_keeps hs)

theorem execSnapshot_keeps {s0 : State} {set : Nat} {value : Nat} {s : State} (hs : Keeps s0 s) :
    OutKeeps s0 (execSnapshot set value s) := by
  unfold execSnapshot
  refine OutKeeps.whenever ?_ (fun h2 => ?_)
  · exact hs
  · exact State_fmSubmit_keeps (State_access_keeps hs)

theorem execReleaseSnapshot_keeps {s0 : State} {set : Nat} {value : Nat} {s : State} (hs : Keeps s0 s) :
    OutKeeps s0 (execReleaseSnapshot set value s) := by
  unfold execReleaseSnapshot
  refine OutKeeps.whenever ?_ (fun h2 => ?_)
  · exact hs
  · exact State_fmSubmit_keeps (State_access_keeps hs)

theorem execClearPoison_keeps {s0 : State} {set : Nat} {value : Nat} {s : State} (hs : Keeps s0 s) :
    OutKeeps s0 (execClearPoison set value s) := by
  unfold execClearPoison
  refine OutKeeps.whenever ?_ (fun h2 => ?_)
  · exact hs
  · exact State_fmSubmit_keeps (State_access_keeps hs)

theorem execFrameMapCommandComplete_keeps {s0 : State} {set : Nat} {s : State} (hs : Keeps s0 s) :
    OutKeeps s0 (execFrameMapCommandComplete set s) := by
  unfold execFrameMapCommandComplete
  refine OutKeeps.whenever ?_ (fun h2 => ?_)
  · exact hs
  · exact State_setFm_keeps hs

theorem State_clearFrame_keeps {s0 : State} {s : State} {frame : Nat} (hs : Keeps s0 s) : Keeps s0 (State.clearFrame s frame) := by
  unfold State.clearFrame
  refine Keeps.mkAll ?_ (fun w2 => ?_) (fun w2 => ?_) (fun w2 => ?_) ?_
  · exact hs
  · extract_lets x5
    dsimp only
    refine mdrop_wf ?_
    exact hs.hbm_wf w2
  · exact hs.tiles_wf w2
  · exact hs.images_wf w2
  · exact hs.fuses

theorem State_zeroed_keeps {s0 : State} {s : State} {frame : Nat} {bad : Bool} (hs : Keeps s0 s) : Keeps s0 (State.zeroed s frame bad) := by
  unfold State.zeroed
  extract_lets x2 x3 x4 x5 x6 x7 x8
  have h9 : Keeps s0 x2 := by
    unfold x2
    exact State_clearFrame_keeps hs
  clear_value x2
  have h12 : Keeps s0 x7 := by
    unfold x7
    exact Keeps.mk' h9 rfl rfl rfl
  clear_value x7
  split
  · apply State_raise_keeps
    clear_value x3
    split
    · exact State_setCtx_keeps h12
    · exact h12
  · exact h12

theorem execFrameZeroed_keeps {s0 : State} {frame : Nat} {bad : Bool} {s : State} (hs : Keeps s0 s) :
    OutKeeps s0 (execFrameZeroed frame bad s) := by
  unfold execFrameZeroed
  refine OutKeeps.whenever ?_ (fun h2 => ?_)
  · exact hs
  · exact State_zeroed_keeps hs

theorem State_setHdom_keeps {s0 : State} {s : State} {x1 : Nat} {x : Hdom} (hs : Keeps s0 s) : Keeps s0 (State.setHdom s x1 x) := by
  unfold State.setHdom
  exact Keeps.mk' hs rfl rfl rfl

theorem State_setPwin_keeps {s0 : State} {s : State} {p : Nat} {x : PWin} (hs : Keeps s0 s) : Keeps s0 (State.setPwin s p x) := by
  unfold State.setPwin
  exact Keeps.mk' hs rfl rfl rfl

theorem State_domTo_keeps {s0 : State} {s : State} {d : Nat} {st : Nat} (hs : Keeps s0 s) : Keeps s0 (State.domTo s d st) := by
  unfold State.domTo
  exact State_setDom_keeps hs

theorem State_refusePower_keeps {s0 : State} {s : State} {d : Nat} {new : Nat} (hs : Keeps s0 s) :
    Keeps s0 (State.refusePower s d new) := by
  unfold State.refusePower
  exact State_auditGeneral_keeps hs

theorem State_domainDown_keeps {s0 : State} {s : State} {x1 : Nat} (hs : Keeps s0 s) : Keeps s0 (State.domainDown s x1) := by
  unfold State.domainDown
  split
  · refine Keeps.foldl (fun x4 x5 h6 => ?_) ?_
    · exact State_mgmt_keeps h6
    · exact State_setHdom_keeps (State_domTo_keeps hs)
  · exact State_refusePower_keeps hs

theorem execHbmDomainDown_keeps {s0 : State} {domain : Nat} {s : State} (hs : Keeps s0 s) : OutKeeps s0 (execHbmDomainDown domain s) := by
  unfold execHbmDomainDown
  refine OutKeeps.whenever ?_ (fun h2 => ?_)
  · exact hs
  · exact State_domainDown_keeps (State_access_keeps hs)

theorem State_loseDomain_keeps {s0 : State} {s : State} {x1 : Nat} (hs : Keeps s0 s) : Keeps s0 (State.loseDomain s x1) := by
  unfold State.loseDomain
  extract_lets x2 x3
  refine Keeps.mkAll ?_ (fun w5 => ?_) (fun w5 => ?_) (fun w5 => ?_) ?_
  · exact hs
  · dsimp only
    refine mdrop_wf ?_
    exact hs.hbm_wf w5
  · exact hs.tiles_wf w5
  · exact hs.images_wf w5
  · exact hs.fuses

theorem State_fence_keeps {s0 : State} {s : State} {x1 : Nat} (hs : Keeps s0 s) : Keeps s0 (State.fence s x1) := by
  unfold State.fence
  extract_lets x2 x3 x4 x5
  have h6 : Keeps s0 x3 := by
    unfold x3
    exact State_setHdom_keeps (State_loseDomain_keeps (State_domTo_keeps hs))
  clear_value x3
  have h7 : Keeps s0 x5 := by
    unfold x5
    exact Keeps.mk' h6 rfl rfl rfl
  clear_value x5
  refine Keeps.foldl (fun x8 a10 h9 => ?_) ?_
  · exact State_setPwin_keeps h9
  · exact h7

theorem execHbmDomainFence_keeps {s0 : State} {domain : Nat} {s : State} (hs : Keeps s0 s) : OutKeeps s0 (execHbmDomainFence domain s) := by
  unfold execHbmDomainFence
  refine OutKeeps.whenever ?_ (fun h2 => ?_)
  · exact hs
  · exact State_fence_keeps hs

theorem State_domainUp_keeps {s0 : State} {s : State} {x1 : Nat} (hs : Keeps s0 s) : Keeps s0 (State.domainUp s x1) := by
  unfold State.domainUp
  split
  · split
    · exact State_setHdom_keeps (State_domTo_keeps hs)
    · exact State_refusePower_keeps hs
  · exact hs

theorem execHbmDomainUp_keeps {s0 : State} {domain : Nat} {s : State} (hs : Keeps s0 s) : OutKeeps s0 (execHbmDomainUp domain s) := by
  unfold execHbmDomainUp
  refine OutKeeps.whenever ?_ (fun h2 => ?_)
  · exact hs
  · exact State_domainUp_keeps (State_access_keeps hs)

theorem State_framesBack_keeps {s0 : State} {s : State} {h : Nat} (hs : Keeps s0 s) : Keeps s0 (State.framesBack s h) := by
  unfold State.framesBack
  exact Keeps.mk' hs rfl rfl rfl

theorem State_domainOn_keeps {s0 : State} {s : State} {x1 : Nat} (hs : Keeps s0 s) : Keeps s0 (State.domainOn s x1) := by
  unfold State.domainOn
  extract_lets x2 x3
  have h4 : Keeps s0 x2 := by
    unfold x2
    refine Keeps.foldl (fun x6 x7 h8 => ?_) ?_
    · refine Keeps.foldl (fun x10 x11 h12 => ?_) ?_
      · exact State_storeLine_keeps h12
      · exact h8
    · exact State_framesBack_keeps (State_loseDomain_keeps hs)
  clear_value x2
  have h18 : Keeps s0 x3 := by
    unfold x3
    exact State_setHdom_keeps (State_domTo_keeps h4)
  clear_value x3
  refine Keeps.foldl (fun x23 x24 h25 => ?_) ?_
  · exact State_mgmt_keeps h25
  · exact h18

theorem execHbmDomainOn_keeps {s0 : State} {domain : Nat} {s : State} (hs : Keeps s0 s) : OutKeeps s0 (execHbmDomainOn domain s) := by
  unfold execHbmDomainOn
  refine OutKeeps.whenever ?_ (fun h2 => ?_)
  · exact hs
  · exact State_domainOn_keeps hs

end Sys2Proof.Machine
end

