-- ==== Sys2Proof/Laws/KeepsDma.lean ====
section
/-! SUPPORT. The operations of Machine/Dma.lean keep what Keeps says. -/

namespace Sys2Proof.Machine

theorem State_lineToHost_keeps {s0 : State} {s : State} {d : Desc} {i : Nat} {v : Nat} {p : Bool} (hs : Keeps s0 s) :
    Keeps s0 (State.lineToHost s d i v p) := by
  unfold State.lineToHost
  exact State_modDesc_keeps (State_out_keeps hs)

theorem State_lineToTile_keeps {s0 : State} {s : State} {d : Desc} {i : Nat} {v : Nat} {p : Bool} (hs : Keeps s0 s) :
    Keeps s0 (State.lineToTile s d i v p) := by
  unfold State.lineToTile
  extract_lets x2 x3 x4 x5 x6
  have h7 : Keeps s0 x5 := by
    unfold x5
    apply State_landLine_keeps
    refine Keeps.modTile ?_ (fun w12 x10 h11 => ?_)
    · exact hs
    · dsimp only
      exact h11
  clear_value x5
  have h16 : Keeps s0 x6 := by
    unfold x6
    exact State_modDesc_keeps h7
  clear_value x6
  split
  · exact State_meshParity_keeps h16
  · exact h16

theorem State_lineToPeer_keeps {s0 : State} {s : State} {d : Desc} {i : Nat} {v : Nat} {p : Bool} (hs : Keeps s0 s) :
    Keeps s0 (State.lineToPeer s d i v p) := by
  unfold State.lineToPeer
  extract_lets x2
  exact State_sendPeer_keeps hs

theorem State_lineToPwin_keeps {s0 : State} {s : State} {d : Desc} {i : Nat} {v : Nat} {p : Bool} (hs : Keeps s0 s) :
    Keeps s0 (State.lineToPwin s d i v p) := by
  unfold State.lineToPwin
  extract_lets x2 x3
  split
  · exact State_modPort_keeps hs
  · exact State_sendPeer_keeps hs

theorem State_lineToRegs_keeps {s0 : State} {s : State} {d : Desc} {i : Nat} {v : Nat} {x2 : Bool} (hs : Keeps s0 s) :
    Keeps s0 (State.lineToRegs s d i v x2) := by
  unfold State.lineToRegs
  exact State_modDesc_keeps hs

theorem State_issueDma_keeps {s0 : State} {s : State} {d : Desc} {first : Nat} {ls : List (Nat × Bool)} (hs : Keeps s0 s) :
    Keeps s0 (State.issueDma s d first ls) := by
  unfold State.issueDma
  split
  · extract_lets x4 x5
    have h6 : Keeps s0 x4 := by
      unfold x4
      exact State_issueMem_keeps hs
    clear_value x4
    exact Keeps.mk' h6 rfl rfl rfl
  · exact Keeps.mk' hs rfl rfl rfl

theorem State_dmaStore_keeps {s0 : State} {s : State} {d : Desc} {first : Nat} {ls : List (Nat × Bool)} (hs : Keeps s0 s) :
    Keeps s0 (State.dmaStore s d first ls) := by
  unfold State.dmaStore
  extract_lets x2
  split
  · split
    · unfold x2
      refine Keeps.foldl (fun x5 a7 h6 => ?_) ?_
      · exact State_lineToHost_keeps h6
      · exact hs
    · split
      · exact hs
      · exact State_descFault_keeps hs
  · split
    · unfold x2
      refine Keeps.foldl (fun x11 a13 h12 => ?_) ?_
      · exact State_lineToPwin_keeps h12
      · exact hs
    · split
      · unfold x2
        refine Keeps.foldl (fun x16 a18 h17 => ?_) ?_
        · exact State_lineToTile_keeps h17
        · exact hs
      · split
        · unfold x2
          refine Keeps.foldl (fun x21 a23 h22 => ?_) ?_
          · exact State_lineToPeer_keeps h22
          · exact hs
        · split
          · unfold x2
            refine Keeps.foldl (fun x26 a28 h27 => ?_) ?_
            · exact State_lineToRegs_keeps h27
            · exact hs
          · exact State_issueDma_keeps hs

theorem State_takeLine_keeps {s0 : State} {s : State} {line : Nat} (hs : Keeps s0 s) : Keeps s0 (State.takeLine s line).1 := by
  unfold State.takeLine
  extract_lets x2
  have h3 : Keeps s0 x2 := by
    unfold x2
    exact State_eccRead_keeps hs
  clear_value x2
  dsimp only
  exact h3

theorem State_takeLines_keeps {s0 : State} {s : State} {x1 : List Nat} (hs : Keeps s0 s) : Keeps s0 (State.takeLines s x1).1 := by
  induction x1 generalizing s with
  | nil => exact hs
  | cons l ls ih => exact ih (State_takeLine_keeps hs)

theorem State_dmaCame_keeps {s0 : State} {s : State} {d : Desc} {first : Nat} {ls : List (Nat × Bool)} (hs : Keeps s0 s) :
    Keeps s0 (State.dmaCame s d first ls) := by
  unfold State.dmaCame
  split
  · exact State_dmaStore_keeps hs
  · refine Keeps.foldl (fun x4 a6 h5 => ?_) ?_
    · refine Keeps.foldl (fun x7 a9 h8 => ?_) ?_
      · exact State_dmaStore_keeps h8
      · exact h5
    · exact hs

theorem State_askPeer_keeps {s0 : State} {s : State} {d : Desc} {x2 : Nat} {x3 : Nat} (hs : Keeps s0 s) :
    Keeps s0 (State.askPeer s d x2 x3) := by
  induction x2 generalizing s x3 with
  | zero => exact hs
  | succ n ih => exact ih (State_sendPeer_keeps hs)

theorem State_askHost_keeps {s0 : State} {s : State} {d : Desc} {x2 : Nat} {x3 : Nat} (hs : Keeps s0 s) :
    Keeps s0 (State.askHost s d x2 x3) := by
  induction x2 generalizing s x3 with
  | zero => exact hs
  | succ n ih => exact ih (State_hostRead_keeps hs)

theorem State_dmaRun_keeps {s0 : State} {s : State} {d : Desc} (hs : Keeps s0 s) : Keeps s0 (State.dmaRun s d) := by
  have key : (s.dmaRead d).Keeps s0 := by
    unfold State.dmaRead
    dsimp only
    repeat' split
    all_goals first
      | trivial
      | exact hs
      | exact State_askHost_keeps hs
      | exact State_askPeer_keeps hs
      | exact State_modDesc_keeps hs
      | exact State_takeLines_keeps hs
  unfold State.dmaRun
  cases h : s.dmaRead d <;> rw [h] at key
  · exact State_dmaStore_keeps key
  · exact State_descFault_keeps hs
  · exact key

theorem State_dmaStart_keeps {s0 : State} {s : State} {e : Nat} {q : Nat} (hs : Keeps s0 s) : Keeps s0 (State.dmaStart s e q) := by
  unfold State.dmaStart
  split
  · exact hs
  · extract_lets x9 x10 x11 x12 x13 x14 x15
    have h16 : Keeps s0 x13 := by
      unfold x13
      exact Keeps.mk' hs rfl rfl rfl
    clear_value x13
    have h19 : Keeps s0 x15 := by
      unfold x15
      exact State_eccRead_keeps h16
    clear_value x15
    split
    · exact State_descFault_keeps h16
    · split
      · exact State_descFault_keeps h19
      · split
        · exact State_descFault_keeps h19
        · exact State_dmaRun_keeps h19

theorem execDmaCopy_keeps {s0 : State} {engine : Nat} {queue : Nat} {s : State} (hs : Keeps s0 s) :
    OutKeeps s0 (execDmaCopy engine queue s) := by
  unfold execDmaCopy
  refine OutKeeps.whenever ?_ (fun h2 => ?_)
  · exact hs
  · exact State_dmaStart_keeps hs

theorem execDmaFill_keeps {s0 : State} {engine : Nat} {queue : Nat} {s : State} (hs : Keeps s0 s) :
    OutKeeps s0 (execDmaFill engine queue s) := by
  unfold execDmaFill
  refine OutKeeps.whenever ?_ (fun h2 => ?_)
  · exact hs
  · exact State_dmaStart_keeps hs

theorem State_incCounter_keeps {s0 : State} {s : State} {src : Src} {c : Nat} {a : Nat} {n : Nat} (hs : Keeps s0 s) :
    Keeps s0 (State.incCounter s src c a n) := by
  unfold State.incCounter
  exact State_flushRemote_keeps (State_sendSyu_keeps hs)

theorem State_descDone_keeps {s0 : State} {s : State} {d : Nat} (hs : Keeps s0 s) : Keeps s0 (State.descDone s d) := by
  unfold State.descDone
  split
  · exact hs
  · extract_lets x7 x8 x9 x10 x11
    have h12 : Keeps s0 x8 := by
      unfold x8
      exact Keeps.mk' hs rfl rfl rfl
    clear_value x8
    have h13 : Keeps s0 x9 := by
      unfold x9
      split
      · exact h12
      · exact State_writeRec_keeps h12
    clear_value x9
    have h16 : Keeps s0 x10 := by
      unfold x10
      split
      · exact State_incCounter_keeps h13
      · exact h13
    clear_value x10
    have h19 : Keeps s0 x11 := by
      unfold x11
      exact State_releaseRecord_keeps h16
    clear_value x11
    split
    · split
      · apply State_complete_keeps
        exact h19
      · exact h19
    · exact h19

end Sys2Proof.Machine
end

