-- ==== Sys2Proof/Laws/KeepsCartridge.lean ====
section
/-! SUPPORT. The operations of Machine/Cartridge.lean keep what Keeps says. -/

namespace Sys2Proof.Machine

theorem State_modCrt_keeps {s0 : State} {s : State} {f : Crt → Crt} (hs : Keeps s0 s) : Keeps s0 (State.modCrt s f) := by
  unfold State.modCrt
  exact Keeps.mk' hs rfl rfl rfl

theorem State_wear_keeps {s0 : State} {s : State} {gb : Nat} (hs : Keeps s0 s) : Keeps s0 (State.wear s gb) := by
  unfold State.wear
  extract_lets x2 x3 x4 x5 x6
  have h7 : Keeps s0 x5 := by
    unfold x5
    exact State_modCrt_keeps hs
  clear_value x5
  have h10 : Keeps s0 x6 := by
    unfold x6
    split
    · exact State_raise_keeps h7
    · exact h7
  clear_value x6
  split
  · exact State_raise_keeps h10
  · exact h10

theorem State_attachFailed_keeps {s0 : State} {s : State} {reason : Nat} (hs : Keeps s0 s) : Keeps s0 (State.attachFailed s reason) := by
  unfold State.attachFailed
  exact State_raise_keeps (State_modCrt_keeps hs)

theorem State_attached_keeps {s0 : State} {s : State} {i : Sys2Proof.AttachIn} (hs : Keeps s0 s) : Keeps s0 (State.attached s i) := by
  unfold State.attached
  exact State_wear_keeps (State_drawn_keeps (State_modCrt_keeps hs))

theorem State_verifyCartridge_keeps {s0 : State} {s : State} {i : Sys2Proof.AttachIn} (hs : Keeps s0 s) :
    Keeps s0 (State.verifyCartridge s i) := by
  unfold State.verifyCartridge
  split
  · exact State_attachFailed_keeps hs
  · extract_lets x7
    have h8 : Keeps s0 x7 := by
      unfold x7
      exact State_modCrt_keeps hs
    clear_value x7
    split
    · exact State_attached_keeps h8
    · exact State_attachFailed_keeps h8

theorem State_attach_keeps {s0 : State} {s : State} {i : Sys2Proof.AttachIn} (hs : Keeps s0 s) : Keeps s0 (State.attach s i) := by
  unfold State.attach
  split
  · exact State_modCrt_keeps hs
  · split
    · split
      · exact State_modCrt_keeps hs
      · exact State_attachFailed_keeps hs
    · exact State_verifyCartridge_keeps hs

theorem execCartridgeAttach_keeps {s0 : State} {info : Sys2Proof.AttachIn} {s : State} (hs : Keeps s0 s) :
    OutKeeps s0 (execCartridgeAttach info s) := by
  unfold execCartridgeAttach
  refine OutKeeps.whenever ?_ (fun h2 => ?_)
  · exact hs
  · exact State_attach_keeps hs

theorem execCartridgeAttachTimeout_keeps {s0 : State} {s : State} (hs : Keeps s0 s) : OutKeeps s0 (execCartridgeAttachTimeout s) := by
  unfold execCartridgeAttachTimeout
  refine OutKeeps.whenever ?_ (fun h2 => ?_)
  · exact hs
  · exact State_attachFailed_keeps hs

theorem State_detach_keeps {s0 : State} {s : State} (hs : Keeps s0 s) : Keeps s0 (State.detach s) := by
  unfold State.detach
  extract_lets x2 x3
  have h4 : Keeps s0 x2 := by
    unfold x2
    exact State_modCrt_keeps hs
  clear_value x2
  exact State_raise_keeps (Keeps.mk' h4 rfl rfl rfl)

theorem execCartridgeDetached_keeps {s0 : State} {s : State} (hs : Keeps s0 s) : OutKeeps s0 (execCartridgeDetached s) := by
  unfold execCartridgeDetached
  refine OutKeeps.whenever ?_ (fun h2 => ?_)
  · exact hs
  · exact State_detach_keeps hs

theorem State_crtStart_keeps {s0 : State} {s : State} {v : Nat} (hs : Keeps s0 s) : Keeps s0 (State.crtStart s v) := by
  unfold State.crtStart
  extract_lets x2 x3
  split
  · split
    · exact State_raise_keeps (State_crtEnd_keeps hs)
    · split
      rename_i y16 y17 y18 y19
      unfold x3
      exact State_modCrt_keeps (Keeps.of_fst (State_takeLines_keeps hs) y19)
  · unfold x3
    exact State_modCrt_keeps hs

theorem State_crtWrite_keeps {s0 : State} {s : State} {v : Nat} (hs : Keeps s0 s) : Keeps s0 (State.crtWrite s v) := by
  unfold State.crtWrite
  extract_lets x2
  have h3 : Keeps s0 x2 := by
    unfold x2
    exact State_modCrt_keeps hs
  clear_value x2
  split
  · split
    · exact State_crtEnd_keeps h3
    · exact State_crtStart_keeps h3
  · exact h3

theorem execCrtRead_keeps {s0 : State} {value : Nat} {s : State} (hs : Keeps s0 s) : OutKeeps s0 (execCrtRead value s) := by
  unfold execCrtRead
  refine OutKeeps.whenever ?_ (fun h2 => ?_)
  · exact hs
  · exact State_crtWrite_keeps (State_access_keeps hs)

theorem execCrtWrite_keeps {s0 : State} {value : Nat} {s : State} (hs : Keeps s0 s) : OutKeeps s0 (execCrtWrite value s) := by
  unfold execCrtWrite
  refine OutKeeps.whenever ?_ (fun h2 => ?_)
  · exact hs
  · exact State_crtWrite_keeps (State_access_keeps hs)

theorem execCrtFormat_keeps {s0 : State} {value : Nat} {s : State} (hs : Keeps s0 s) : OutKeeps s0 (execCrtFormat value s) := by
  unfold execCrtFormat
  refine OutKeeps.whenever ?_ (fun h2 => ?_)
  · exact hs
  · exact State_crtWrite_keeps (State_access_keeps hs)

theorem State_crtLand_keeps {s0 : State} {s : State} {k : CrtCmd} {failing : List Nat} (hs : Keeps s0 s) :
    Keeps s0 (State.crtLand s k failing) := by
  unfold State.crtLand
  extract_lets x2 x3 x4 x5
  have h6 : Keeps s0 x5 := by
    unfold x5
    clear_value x2
    split
    · exact State_raise_keeps hs
    · exact hs
  clear_value x5
  split
  · split
    · split
      · exact State_raise_keeps (State_crtEnd_keeps h6)
      · exact State_crtEnd_keeps h6
    · exact State_crtEnd_keeps h6
  · exact State_issueMem_keeps (State_modCrt_keeps h6)

theorem State_crtDone_keeps {s0 : State} {s : State} {failing : List Nat} {gb : Nat} (hs : Keeps s0 s) :
    Keeps s0 (State.crtDone s failing gb) := by
  unfold State.crtDone
  split
  · exact hs
  · split
    · exact State_crtLand_keeps hs
    · split
      · split
        · exact State_wear_keeps (State_raise_keeps (State_crtEnd_keeps (State_modCrt_keeps hs)))
        · exact State_wear_keeps (State_crtEnd_keeps (State_modCrt_keeps hs))
      · split
        · exact State_wear_keeps (State_raise_keeps (State_crtEnd_keeps hs))
        · extract_lets x41
          exact State_wear_keeps (State_crtEnd_keeps (State_drawn_keeps (State_modCrt_keeps hs)))

theorem execCartridgeCommandComplete_keeps {s0 : State} {failing : List Nat} {gb : Nat} {s : State} (hs : Keeps s0 s) :
    OutKeeps s0 (execCartridgeCommandComplete failing gb s) := by
  unfold execCartridgeCommandComplete
  refine OutKeeps.whenever ?_ (fun h2 => ?_)
  · exact hs
  · exact State_crtDone_keeps hs

end Sys2Proof.Machine
end

