-- ==== Sys2Proof/Laws/KeepsLink.lean ====
section
/-! SUPPORT. The operations of Machine/Link.lean keep what Keeps says. -/

namespace Sys2Proof.Machine

theorem State_newFlit_keeps {s0 : State} {s : State} {k : Nat} {retry : Bool} (hs : Keeps s0 s) : Keeps s0 (State.newFlit s k retry) := by
  unfold State.newFlit
  extract_lets x2
  split
  exact State_out_keeps (State_setPort_keeps hs)

theorem State_noteSent_keeps {s0 : State} {s : State} {k : Nat} {p : Port} (hs : Keeps s0 s) : Keeps s0 (State.noteSent s k p) := by
  unfold State.noteSent
  exact Keeps.mk' hs rfl rfl rfl

theorem State_sendSuspended_keeps {s0 : State} {s : State} {k : Nat} (hs : Keeps s0 s) : Keeps s0 (State.sendSuspended s k) := by
  unfold State.sendSuspended
  split
  · split
    · exact State_mgmt_keeps (State_modPort_keeps hs)
    · exact hs
  · exact hs

theorem State_sendAgain_keeps {s0 : State} {s : State} {k : Nat} {retry : Bool} (hs : Keeps s0 s) : Keeps s0 (State.sendAgain s k retry) := by
  unfold State.sendAgain
  split
  · split
    · exact State_out_keeps hs
    · exact hs
  · exact hs

theorem State_sendFlit_keeps {s0 : State} {s : State} {k : Nat} {retry : Bool} (hs : Keeps s0 s) : Keeps s0 (State.sendFlit s k retry) := by
  unfold State.sendFlit
  split
  · exact State_sendAgain_keeps hs
  · exact State_sendSuspended_keeps (State_noteSent_keeps (State_newFlit_keeps hs))

theorem State_replay_keeps {s0 : State} {s : State} {k : Nat} (hs : Keeps s0 s) : Keeps s0 (State.replay s k) := by
  unfold State.replay
  extract_lets x2
  refine Keeps.foldl (fun x3 a5 h4 => ?_) ?_
  · exact State_out_keeps h4
  · exact State_setPort_keeps hs

theorem State_receiveFlit_keeps {s0 : State} {s : State} {k : Nat} {f : Nat} {uncorrectable : Bool} (hs : Keeps s0 s) :
    Keeps s0 (State.receiveFlit s k f uncorrectable) := by
  unfold State.receiveFlit
  extract_lets x2 x3 x4 x5
  have h6 : Keeps s0 x4 := by
    unfold x4
    exact State_drawn_keeps hs
  clear_value x4
  have h7 : Keeps s0 x5 := by
    unfold x5
    exact State_setPort_keeps h6
  clear_value x5
  split
  · apply State_sendFlit_keeps
    split
    · exact State_replay_keeps h7
    · exact h7
  · apply State_sendFlit_keeps
    exact State_setPort_keeps h6

theorem execFlitReceive_keeps {s0 : State} {port : Nat} {flit : Nat} {uncorrectable : Bool} {s : State} (hs : Keeps s0 s) :
    OutKeeps s0 (execFlitReceive port flit uncorrectable s) := by
  unfold execFlitReceive
  refine OutKeeps.whenever ?_ (fun h2 => ?_)
  · exact hs
  · exact State_receiveFlit_keeps hs

theorem State_portDown_keeps {s0 : State} {s : State} {k : Nat} {cause : Nat} (hs : Keeps s0 s) : Keeps s0 (State.portDown s k cause) := by
  unfold State.portDown
  extract_lets x2 x3 x4 x5
  have h6 : Keeps s0 x3 := by
    unfold x3
    exact State_modPort_keeps hs
  clear_value x3
  have h9 : Keeps s0 x5 := by
    unfold x5
    exact Keeps.mk' h6 rfl rfl rfl
  clear_value x5
  exact State_raiseAll_keeps h9

theorem State_train_keeps {s0 : State} {s : State} {k : Nat} (hs : Keeps s0 s) : Keeps s0 (State.train s k) := by
  unfold State.train
  split
  · exact State_modPort_keeps hs
  · exact hs

theorem execReplayLimit_keeps {s0 : State} {port : Nat} {s : State} (hs : Keeps s0 s) : OutKeeps s0 (execReplayLimit port s) := by
  unfold execReplayLimit
  refine OutKeeps.whenever ?_ (fun h2 => ?_)
  · exact hs
  · exact State_train_keeps (State_portDown_keeps hs)

theorem execLaneLockLoss_keeps {s0 : State} {port : Nat} {s : State} (hs : Keeps s0 s) : OutKeeps s0 (execLaneLockLoss port s) := by
  unfold execLaneLockLoss
  refine OutKeeps.whenever ?_ (fun h2 => ?_)
  · exact hs
  · exact State_modPort_keeps (State_portDown_keeps hs)

theorem execLinkSilence_keeps {s0 : State} {port : Nat} {s : State} (hs : Keeps s0 s) : OutKeeps s0 (execLinkSilence port s) := by
  unfold execLinkSilence
  refine OutKeeps.whenever ?_ (fun h2 => ?_)
  · exact hs
  · exact State_modPort_keeps (State_portDown_keeps hs)

theorem State_portDisable_keeps {s0 : State} {s : State} {k : Nat} (hs : Keeps s0 s) : Keeps s0 (State.portDisable s k) := by
  unfold State.portDisable
  apply State_modPort_keeps
  split
  · exact State_portDown_keeps hs
  · exact hs

theorem execPortDisable_keeps {s0 : State} {port : Nat} {s : State} (hs : Keeps s0 s) : OutKeeps s0 (execPortDisable port s) := by
  unfold execPortDisable
  refine OutKeeps.whenever ?_ (fun h2 => ?_)
  · exact hs
  · exact State_portDisable_keeps (State_access_keeps hs)

theorem State_portEnable_keeps {s0 : State} {s : State} {k : Nat} (hs : Keeps s0 s) : Keeps s0 (State.portEnable s k) := by
  unfold State.portEnable
  exact State_train_keeps (State_modPort_keeps hs)

theorem execPortEnable_keeps {s0 : State} {port : Nat} {s : State} (hs : Keeps s0 s) : OutKeeps s0 (execPortEnable port s) := by
  unfold execPortEnable
  refine OutKeeps.whenever ?_ (fun h2 => ?_)
  · exact hs
  · exact State_portEnable_keeps (State_access_keeps hs)

theorem State_retrain_keeps {s0 : State} {s : State} {k : Nat} (hs : Keeps s0 s) : Keeps s0 (State.retrain s k) := by
  unfold State.retrain
  split
  · exact State_train_keeps (State_modPort_keeps hs)
  · exact State_train_keeps (State_portDown_keeps (State_drawn_keeps hs))
  · exact hs

theorem execRetrain_keeps {s0 : State} {port : Nat} {s : State} (hs : Keeps s0 s) : OutKeeps s0 (execRetrain port s) := by
  unfold execRetrain
  refine OutKeeps.whenever ?_ (fun h2 => ?_)
  · exact hs
  · exact State_retrain_keeps (State_access_keeps hs)

theorem execLinkSignalDetect_keeps {s0 : State} {port : Nat} {s : State} (hs : Keeps s0 s) : OutKeeps s0 (execLinkSignalDetect port s) := by
  unfold execLinkSignalDetect
  refine OutKeeps.whenever ?_ (fun h2 => ?_)
  · exact hs
  · exact State_train_keeps (State_modPort_keeps hs)

theorem State_trained_keeps {s0 : State} {s : State} {k : Nat} {channelOk : Bool} (hs : Keeps s0 s) :
    Keeps s0 (State.trained s k channelOk) := by
  unfold State.trained
  split
  · exact State_out_keeps (State_modPort_keeps hs)
  · exact State_train_keeps (State_modPort_keeps hs)

theorem execTrainingComplete_keeps {s0 : State} {port : Nat} {channelOk : Bool} {s : State} (hs : Keeps s0 s) :
    OutKeeps s0 (execTrainingComplete port channelOk s) := by
  unfold execTrainingComplete
  refine OutKeeps.whenever ?_ (fun h2 => ?_)
  · exact hs
  · exact State_trained_keeps hs

theorem execTrainingTimeout_keeps {s0 : State} {port : Nat} {s : State} (hs : Keeps s0 s) : OutKeeps s0 (execTrainingTimeout port s) := by
  unfold execTrainingTimeout
  refine OutKeeps.whenever ?_ (fun h2 => ?_)
  · exact hs
  · exact State_train_keeps (State_modPort_keeps hs)

theorem State_ability_keeps {s0 : State} {s : State} {k : Nat} {versions : Nat} {peerPort : Nat} {peerId : Nat} (hs : Keeps s0 s) :
    Keeps s0 (State.ability s k versions peerPort peerId) := by
  unfold State.ability
  extract_lets x2 x3
  split
  · exact State_setPort_keeps hs
  · exact State_raise_keeps (State_setPort_keeps hs)

theorem execAbility_keeps {s0 : State} {port : Nat} {versions : Nat} {floor : Nat} {role : Nat} {peerPort : Nat} {peerId : Nat} {s : State} (hs : Keeps s0 s) :
    OutKeeps s0 (execAbility port versions floor role peerPort peerId s) := by
  unfold execAbility
  refine OutKeeps.whenever ?_ (fun h2 => ?_)
  · exact hs
  · exact State_ability_keeps hs

theorem State_tryBind_keeps {s0 : State} {s : State} {k : Nat} {c : Nat} (hs : Keeps s0 s) : Keeps s0 (State.tryBind s k c) := by
  unfold State.tryBind
  extract_lets x2
  split
  · exact State_setBinding_keeps hs
  · exact hs

theorem State_bindArrives_keeps {s0 : State} {s : State} {port : Nat} {c : Nat} {peerCtx : Nat} {tag : Nat} {expected : Nat} (hs : Keeps s0 s) :
    Keeps s0 (State.bindArrives s port c peerCtx tag expected) := by
  unfold State.bindArrives
  extract_lets x2 x3 x4
  exact State_tryBind_keeps (Keeps.mk' hs rfl rfl rfl)

theorem execBind_keeps {s0 : State} {port : Nat} {ctx : Nat} {peerCtx : Nat} {tag : Nat} {peerId : Nat} {s : State} (hs : Keeps s0 s) :
    OutKeeps s0 (execBind port ctx peerCtx tag peerId s) := by
  unfold execBind
  refine OutKeeps.whenever ?_ (fun h2 => ?_)
  · exact hs
  · exact State_bindArrives_keeps hs

theorem State_unbindArrives_keeps {s0 : State} {s : State} {port : Nat} {peerCtx : Nat} {tag : Nat} {cause : Nat} (hs : Keeps s0 s) :
    Keeps s0 (State.unbindArrives s port peerCtx tag cause) := by
  unfold State.unbindArrives
  extract_lets x2 x3 x4
  have h5 : Keeps s0 x4 := by
    unfold x4
    exact Keeps.mk' hs rfl rfl rfl
  clear_value x4
  split
  · exact h5
  · extract_lets x16 x17
    have h18 : Keeps s0 x17 := by
      unfold x17
      exact State_setBinding_keeps h5
    clear_value x17
    split
    · exact State_raise_keeps h18
    · exact h18

theorem execUnbind_keeps {s0 : State} {port : Nat} {peerCtx : Nat} {tag : Nat} {cause : Nat} {s : State} (hs : Keeps s0 s) :
    OutKeeps s0 (execUnbind port peerCtx tag cause s) := by
  unfold execUnbind
  refine OutKeeps.whenever ?_ (fun h2 => ?_)
  · exact hs
  · exact State_unbindArrives_keeps hs

theorem execReserve_keeps {s0 : State} {port : Nat} {tag : Nat} {d4 : Nat} {d5 : Nat} {s : State} (hs : Keeps s0 s) :
    OutKeeps s0 (execReserve port tag d4 d5 s) := by
  unfold execReserve
  refine OutKeeps.whenever ?_ (fun h2 => ?_)
  · exact hs
  · exact Keeps.mk' hs rfl rfl rfl

theorem execBindTimeout_keeps {s0 : State} {port : Nat} {ctx : Nat} {s : State} (hs : Keeps s0 s) :
    OutKeeps s0 (execBindTimeout port ctx s) := by
  unfold execBindTimeout
  refine OutKeeps.whenever ?_ (fun h2 => ?_)
  · exact hs
  · exact State_raise_keeps hs

theorem State_nak_keeps {s0 : State} {s : State} {k : Nat} {x : LPkt} {reason : Nat} (hs : Keeps s0 s) :
    Keeps s0 (State.nak s k x reason) := by
  unfold State.nak
  exact State_reply_keeps hs

theorem State_mgmtMasked_keeps {s0 : State} {s : State} {k : Nat} (hs : Keeps s0 s) : Keeps s0 (State.mgmtMasked s k) := by
  unfold State.mgmtMasked
  exact State_nak_keeps (State_drawn_keeps hs)

theorem State_since11_keeps {s0 : State} {s : State} {k : Nat} {t : State} (hs : Keeps s0 s) (ht : Keeps s0 t) :
    Keeps s0 (State.since11 s k t) := by
  unfold State.since11
  split
  · exact State_mgmtMasked_keeps hs
  · exact ht

theorem execSuspend_keeps {s0 : State} {port : Nat} {window : Nat} {s : State} (hs : Keeps s0 s) :
    OutKeeps s0 (execSuspend port window s) := by
  unfold execSuspend
  refine OutKeeps.whenever ?_ (fun h2 => ?_)
  · exact hs
  · exact State_since11_keeps hs (State_sendSuspended_keeps (State_modPort_keeps hs))

theorem State_confirm_keeps {s0 : State} {s : State} {w : Nat} (hs : Keeps s0 s) : Keeps s0 (State.confirm s w) := by
  unfold State.confirm
  refine Keeps.foldl (fun _ _ h => ?_) hs
  dsimp only
  split
  · exact State_setHdom_keeps h
  · exact h

theorem execSuspended_keeps {s0 : State} {port : Nat} {window : Nat} {s : State} (hs : Keeps s0 s) :
    OutKeeps s0 (execSuspended port window s) := by
  unfold execSuspended
  refine OutKeeps.whenever ?_ (fun h2 => ?_)
  · exact hs
  · exact State_confirm_keeps hs

theorem State_resume_keeps {s0 : State} {s : State} {k : Nat} (hs : Keeps s0 s) : Keeps s0 (State.resume s k) := by
  unfold State.resume
  refine Keeps.foldl (fun x2 x3 h4 => ?_) ?_
  · split
    · exact State_sendPeer_keeps h4
    · exact h4
  · exact State_modPort_keeps hs

theorem execResume_keeps {s0 : State} {port : Nat} {window : Nat} {s : State} (hs : Keeps s0 s) :
    OutKeeps s0 (execResume port window s) := by
  unfold execResume
  refine OutKeeps.whenever ?_ (fun h2 => ?_)
  · exact hs
  · exact State_since11_keeps hs (State_resume_keeps hs)

theorem State_dropWaiting_keeps {s0 : State} {s : State} {t : Nat} (hs : Keeps s0 s) : Keeps s0 (State.dropWaiting s t) := by
  unfold State.dropWaiting
  exact Keeps.mk' hs rfl rfl rfl

theorem State_pwinUnacked_keeps {s0 : State} {s : State} {t : Nat} (hs : Keeps s0 s) : Keeps s0 (State.pwinUnacked s t) := by
  unfold State.pwinUnacked
  split
  · extract_lets x6
    exact State_raise_keeps (State_dropWaiting_keeps hs)
  · exact hs

theorem execPwinWriteUnacked_keeps {s0 : State} {token : Nat} {s : State} (hs : Keeps s0 s) :
    OutKeeps s0 (execPwinWriteUnacked token s) := by
  unfold execPwinWriteUnacked
  refine OutKeeps.whenever ?_ (fun h2 => ?_)
  · exact hs
  · exact State_pwinUnacked_keeps hs

theorem State_takePacket_keeps {s0 : State} {s : State} {k : Nat} {x : LPkt} (hs : Keeps s0 s) : Keeps s0 (State.takePacket s k x) := by
  unfold State.takePacket
  exact State_modPort_keeps hs

theorem State_darkWrite_keeps {s0 : State} {s : State} {ctx : Nat} {line : Nat} (hs : Keeps s0 s) :
    Keeps s0 (State.darkWrite s ctx line) := by
  unfold State.darkWrite
  extract_lets x2 x3 x4 x5 x6
  exact State_raise_keeps (State_setHdom_keeps hs)

theorem State_pwinStore_keeps {s0 : State} {s : State} {k : Nat} {c : Nat} {line : Nat} {x : LPkt} (hs : Keeps s0 s) :
    Keeps s0 (State.pwinStore s k c line x) := by
  unfold State.pwinStore
  extract_lets x2 x3 x4 x5 x6
  exact Keeps.mk' hs rfl rfl rfl

theorem State_pwinPart_keeps {s0 : State} {s : State} {k : Nat} {c : Nat} {line : Nat} {v : Nat × Bool} (hs : Keeps s0 s) :
    Keeps s0 (State.pwinPart s k c line v) := by
  unfold State.pwinPart
  exact Keeps.mk' hs rfl rfl rfl

theorem State_pwinWrite_keeps {s0 : State} {s : State} {k : Nat} (hs : Keeps s0 s) : Keeps s0 (State.pwinWrite s k) := by
  unfold State.pwinWrite
  split
  · exact hs
  · extract_lets x7 x8 x9 x10 x11
    have h12 : Keeps s0 x7 := by
      unfold x7
      exact State_takePacket_keeps hs
    clear_value x7
    have h13 : Keeps s0 x11 := by
      unfold x11
      refine Keeps.foldl (fun x14 a16 h15 => ?_) ?_
      · exact State_darkWrite_keeps h15
      · exact h12
    clear_value x11
    split
    · exact State_raise_keeps (State_nak_keeps h12)
    · split
      · exact State_nak_keeps h12
      · split
        · exact State_nak_keeps h12
        · split
          · exact State_pwinStore_keeps h13
          · refine Keeps.foldl (fun x28 a30 h29 => ?_) ?_
            · exact State_pwinPart_keeps h29
            · exact h13

theorem execPwinWriteArrival_keeps {s0 : State} {port : Nat} {s : State} (hs : Keeps s0 s) : OutKeeps s0 (execPwinWriteArrival port s) := by
  unfold execPwinWriteArrival
  refine OutKeeps.whenever ?_ (fun h2 => ?_)
  · exact hs
  · exact State_pwinWrite_keeps hs

theorem State_peerAccess_keeps {s0 : State} {s : State} {k : Nat} {c : Nat} {x : LPkt} (hs : Keeps s0 s) :
    Keeps s0 (State.peerAccess s k c x) := by
  unfold State.peerAccess
  extract_lets x2 x3 x4 x5 x6 x7
  have h8 : Keeps s0 x7 := by
    unfold x7
    exact Keeps.mk' hs rfl rfl rfl
  clear_value x7
  exact State_issueMemAt_keeps h8

theorem State_peerInc_keeps {s0 : State} {s : State} {k : Nat} {c : Nat} {x : LPkt} (hs : Keeps s0 s) :
    Keeps s0 (State.peerInc s k c x) := by
  unfold State.peerInc
  extract_lets x2 x3 x4
  have h5 : Keeps s0 x4 := by
    unfold x4
    exact Keeps.mk' hs rfl rfl rfl
  clear_value x4
  exact State_sendSyuAt_keeps h5

theorem State_request__keeps {s0 : State} {s : State} {k : Nat} {x : LPkt} (hs : Keeps s0 s) : Keeps s0 (State.request_ s k x) := by
  unfold State.request_
  split
  · exact State_raise_keeps (State_nak_keeps hs)
  · split
    · exact State_nak_keeps hs
    · split
      · exact State_peerInc_keeps hs
      · split
        · exact State_peerAccess_keeps hs
        · exact State_raise_keeps (State_nak_keeps hs)

theorem State_answer_keeps {s0 : State} {s : State} {w : Waiting} {x : LPkt} (hs : Keeps s0 s) : Keeps s0 (State.answer s w x) := by
  unfold State.answer
  extract_lets x2
  have h3 : Keeps s0 x2 := by
    unfold x2
    exact State_dropWaiting_keeps hs
  clear_value x2
  apply State_flushRemote_keeps
  split
  · exact State_modDesc_keeps h3
  · split
    · exact State_dmaCame_keeps h3
    · exact h3
  · exact State_modCDesc_keeps h3
  · exact State_freeTicket_keeps h3
  · exact h3

theorem State_remotePacket_keeps {s0 : State} {s : State} {k : Nat} (hs : Keeps s0 s) : Keeps s0 (State.remotePacket s k) := by
  unfold State.remotePacket
  split
  · exact hs
  · extract_lets x9
    have h10 : Keeps s0 x9 := by
      unfold x9
      exact State_takePacket_keeps hs
    clear_value x9
    split
    · split
      · split
        · exact State_answer_keeps h10
        · exact h10
      · exact h10
    · exact State_request__keeps h10

theorem execRemotePacketReceive_keeps {s0 : State} {port : Nat} {s : State} (hs : Keeps s0 s) :
    OutKeeps s0 (execRemotePacketReceive port s) := by
  unfold execRemotePacketReceive
  refine OutKeeps.whenever ?_ (fun h2 => ?_)
  · exact hs
  · exact State_remotePacket_keeps hs

theorem State_nakArrives_keeps {s0 : State} {s : State} {k : Nat} (hs : Keeps s0 s) : Keeps s0 (State.nakArrives s k) := by
  unfold State.nakArrives
  split
  · exact hs
  · extract_lets x7
    have h8 : Keeps s0 x7 := by
      unfold x7
      exact State_takePacket_keeps hs
    clear_value x7
    split
    · exact h8
    · extract_lets x14 x15
      have h16 : Keeps s0 x15 := by
        unfold x15
        exact State_drawn_keeps (State_dropWaiting_keeps h8)
      clear_value x15
      split
      · split
        · exact State_descFault_keeps h16
        · exact State_raise_keeps h16
      · split
        · exact State_descFault_keeps h16
        · exact State_raise_keeps h16
      · exact State_cdescFault_keeps h16
      · exact State_raise_keeps (State_noteWho_keeps h16)
      · exact State_raise_keeps h16

theorem execNakReceive_keeps {s0 : State} {port : Nat} {s : State} (hs : Keeps s0 s) : OutKeeps s0 (execNakReceive port s) := by
  unfold execNakReceive
  refine OutKeeps.whenever ?_ (fun h2 => ?_)
  · exact hs
  · exact State_nakArrives_keeps hs

end Sys2Proof.Machine
end

