-- ==== Sys2Proof/Laws/KeepsHost.lean ====
section
/-! SUPPORT. The operations of Machine/Host.lean keep what Keeps says. -/

namespace Sys2Proof.Machine

theorem State_modRing_keeps {s0 : State} {s : State} {f : Nat} {r : Nat} {g : Ring → Ring} (hs : Keeps s0 s) :
    Keeps s0 (State.modRing s f r g) := by
  unfold State.modRing
  exact State_setFn_keeps hs

theorem State_ringError_keeps {s0 : State} {s : State} {f : Nat} {r : Nat} {cause : Nat} (hs : Keeps s0 s) :
    Keeps s0 (State.ringError s f r cause) := by
  unfold State.ringError
  exact State_modRing_keeps hs

theorem State_doorbell_keeps {s0 : State} {s : State} {f : Nat} {r : Nat} {w : Nat} (hs : Keeps s0 s) :
    Keeps s0 (State.doorbell s f r w) := by
  unfold State.doorbell
  extract_lets x2 x3
  split
  · split
    · exact State_modRing_keeps hs
    · exact hs
  · split
    · split
      · exact State_raise_keeps (State_ringError_keeps hs)
      · exact State_fetch_keeps (State_modRing_keeps hs)
    · split
      · exact State_raise_keeps (State_ringError_keeps hs)
      · exact State_fetch_keeps (State_modRing_keeps hs)

theorem execDoorbell_keeps {s0 : State} {fn : Nat} {ring : Nat} {value : Nat} {s : State} (hs : Keeps s0 s) :
    OutKeeps s0 (execDoorbell fn ring value s) := by
  unfold execDoorbell
  refine OutKeeps.whenever ?_ (fun h2 => ?_)
  · exact hs
  · exact State_doorbell_keeps hs

theorem State_ringEnable_keeps {s0 : State} {s : State} {f : Nat} {r : Nat} {on : Bool} (hs : Keeps s0 s) :
    Keeps s0 (State.ringEnable s f r on) := by
  unfold State.ringEnable
  extract_lets x2
  split
  · split
    · exact hs
    · exact State_fetch_keeps (State_modRing_keeps hs)
  · split
    · exact hs
    · exact State_modRing_keeps hs

theorem execRingEnable_keeps {s0 : State} {fn : Nat} {ring : Nat} {on : Bool} {s : State} (hs : Keeps s0 s) :
    OutKeeps s0 (execRingEnable fn ring on s) := by
  unfold execRingEnable
  refine OutKeeps.whenever ?_ (fun h2 => ?_)
  · exact hs
  · exact State_ringEnable_keeps (State_access_keeps hs)

theorem State_ringReset_keeps {s0 : State} {s : State} {f : Nat} {r : Nat} (hs : Keeps s0 s) : Keeps s0 (State.ringReset s f r) := by
  unfold State.ringReset
  split
  · exact hs
  · extract_lets x6 x7
    have h8 : Keeps s0 x6 := by
      unfold x6
      exact State_modRing_keeps hs
    clear_value x6
    split
    · exact State_setFn_keeps h8
    · exact State_setFn_keeps h8

theorem execRingReset_keeps {s0 : State} {fn : Nat} {ring : Nat} {s : State} (hs : Keeps s0 s) : OutKeeps s0 (execRingReset fn ring s) := by
  unfold execRingReset
  refine OutKeeps.whenever ?_ (fun h2 => ?_)
  · exact hs
  · exact State_ringReset_keeps (State_access_keeps hs)

theorem State_startCmd_keeps {s0 : State} {s : State} {k : Cmd} (hs : Keeps s0 s) : Keeps s0 (State.startCmd s k) := by
  unfold State.startCmd
  exact Keeps.mk' hs rfl rfl rfl

theorem State_runCmd_keeps {s0 : State} {s : State} {f : Nat} {effect : State → Cmd → State} (hs : Keeps s0 s) (hfeffect : ∀ y0 y1, Keeps s0 y0 → Keeps s0 (effect y0 y1)) :
    Keeps s0 (State.runCmd s f effect) := by
  unfold State.runCmd
  split
  · exact hs
  · split
    · apply hfeffect
      exact State_startCmd_keeps hs
    · exact State_complete_keeps hs

theorem execHostNop_keeps {s0 : State} {fn : Nat} {s : State} (hs : Keeps s0 s) : OutKeeps s0 (execHostNop fn s) := by
  unfold execHostNop
  refine OutKeeps.whenever ?_ (fun h2 => ?_)
  · exact hs
  · apply State_runCmd_keeps
    · exact hs
    · intro x7
      intro x9
      intro x11
      exact State_complete_keeps x11

theorem execFence_keeps {s0 : State} {fn : Nat} {s : State} (hs : Keeps s0 s) : OutKeeps s0 (execFence fn s) := by
  unfold execFence
  refine OutKeeps.whenever ?_ (fun h2 => ?_)
  · exact hs
  · apply State_runCmd_keeps
    · exact hs
    · intro x7
      intro x9
      intro x11
      exact State_complete_keeps x11

theorem State_toAdmission_keeps {s0 : State} {s : State} {c : Nat} {status : Nat} (hs : Keeps s0 s) :
    Keeps s0 (State.toAdmission s c status) := by
  unfold State.toAdmission
  extract_lets x2
  have h3 : Keeps s0 x2 := by
    unfold x2
    exact State_modCtx_keeps hs
  clear_value x2
  exact Keeps.mk' h3 rfl rfl rfl

theorem State_stage_keeps {s0 : State} {s : State} {c : Nat} (hs : Keeps s0 s) : Keeps s0 (State.stage s c) := by
  unfold State.stage
  extract_lets x2
  split
  · exact hs
  · extract_lets x11
    split
    · exact hs
    · split
      · unfold x11
        exact State_hostRead_keeps hs
      · split
        · unfold x11
          exact State_hostRead_keeps hs
        · exact State_modCtx_keeps hs

theorem State_startAdmit_keeps {s0 : State} {s : State} {k : Cmd} (hs : Keeps s0 s) : Keeps s0 (State.startAdmit s k) := by
  unfold State.startAdmit
  extract_lets x2 x3
  have h4 : Keeps s0 x3 := by
    unfold x3
    exact State_modCtx_keeps hs
  clear_value x3
  split
  · exact State_toAdmission_keeps h4
  · exact State_stage_keeps h4

theorem execHostAdmit_keeps {s0 : State} {fn : Nat} {s : State} (hs : Keeps s0 s) : OutKeeps s0 (execHostAdmit fn s) := by
  unfold execHostAdmit
  refine OutKeeps.whenever ?_ (fun h2 => ?_)
  · exact hs
  · apply State_runCmd_keeps
    · exact hs
    · intro x7
      intro x9
      intro x11
      exact State_startAdmit_keeps x11

theorem State_staged_keeps {s0 : State} {s : State} {c : Nat} {n : Nat} {ok : Bool} {data : Nat} (hs : Keeps s0 s) :
    Keeps s0 (State.staged s c n ok data) := by
  unfold State.staged
  extract_lets x2 x3
  split
  · exact hs
  · split
    · exact State_toAdmission_keeps hs
    · split
      · exact State_stage_keeps (State_setCtx_keeps hs)
      · exact State_stage_keeps (State_putStaged_keeps (State_setCtx_keeps hs))

theorem State_cancelAdmit_keeps {s0 : State} {s : State} {c : Nat} (hs : Keeps s0 s) : Keeps s0 (State.cancelAdmit s c) := by
  unfold State.cancelAdmit
  extract_lets x2 x3 x4
  have h5 : Keeps s0 x3 := by
    unfold x3
    exact State_modCtx_keeps hs
  clear_value x3
  exact Keeps.mk' h5 rfl rfl rfl

theorem State_hostDma_keeps {s0 : State} {s : State} {k : Cmd} (hs : Keeps s0 s) : Keeps s0 (State.hostDma s k) := by
  unfold State.hostDma
  split
  · exact State_complete_keeps hs
  · extract_lets x10
    exact State_sendRmn_keeps (State_drawn_keeps hs)

theorem execDma_keeps {s0 : State} {fn : Nat} {s : State} (hs : Keeps s0 s) : OutKeeps s0 (execDma fn s) := by
  unfold execDma
  refine OutKeeps.whenever ?_ (fun h2 => ?_)
  · exact hs
  · apply State_runCmd_keeps
    · exact hs
    · intro x7
      intro x9
      intro x11
      exact State_hostDma_keeps x11

theorem State_hostSignal_keeps {s0 : State} {s : State} {k : Cmd} (hs : Keeps s0 s) : Keeps s0 (State.hostSignal s k) := by
  unfold State.hostSignal
  exact State_sendSyu_keeps hs

theorem execSignal_keeps {s0 : State} {fn : Nat} {s : State} (hs : Keeps s0 s) : OutKeeps s0 (execSignal fn s) := by
  unfold execSignal
  refine OutKeeps.whenever ?_ (fun h2 => ?_)
  · exact hs
  · apply State_runCmd_keeps
    · exact hs
    · intro x7
      intro x9
      intro x11
      exact State_hostSignal_keeps x11

theorem State_hostWatch_keeps {s0 : State} {s : State} {k : Cmd} (hs : Keeps s0 s) : Keeps s0 (State.hostWatch s k) := by
  unfold State.hostWatch
  extract_lets x2
  exact State_sendSyu_keeps hs

theorem execWatch_keeps {s0 : State} {fn : Nat} {s : State} (hs : Keeps s0 s) : OutKeeps s0 (execWatch fn s) := by
  unfold execWatch
  refine OutKeeps.whenever ?_ (fun h2 => ?_)
  · exact hs
  · apply State_runCmd_keeps
    · exact hs
    · intro x7
      intro x9
      intro x11
      exact State_hostWatch_keeps x11

theorem State_teardown_keeps {s0 : State} {s : State} {k : Cmd} (hs : Keeps s0 s) : Keeps s0 (State.teardown s k) := by
  unfold State.teardown
  extract_lets x2 x3
  split
  · split
    · exact State_complete_keeps (State_complete_keeps (State_cancelAdmit_keeps hs))
    · exact State_complete_keeps hs
  · exact State_modCtx_keeps (State_startTeardown_keeps hs)

theorem execTeardown_keeps {s0 : State} {fn : Nat} {s : State} (hs : Keeps s0 s) : OutKeeps s0 (execTeardown fn s) := by
  unfold execTeardown
  refine OutKeeps.whenever ?_ (fun h2 => ?_)
  · exact hs
  · apply State_runCmd_keeps
    · exact hs
    · intro x7
      intro x9
      intro x11
      exact State_teardown_keeps x11

theorem State_dropRead_keeps {s0 : State} {s : State} {i : Nat} (hs : Keeps s0 s) : Keeps s0 (State.dropRead s i) := by
  unfold State.dropRead
  exact Keeps.mk' hs rfl rfl rfl

theorem State_entryFetched_keeps {s0 : State} {s : State} {f : Nat} {raw : Nat} (hs : Keeps s0 s) :
    Keeps s0 (State.entryFetched s f raw) := by
  unfold State.entryFetched
  extract_lets x2 x3 x4 x5 x6
  have h7 : Keeps s0 x4 := by
    unfold x4
    exact State_modRing_keeps hs
  clear_value x4
  have h10 : Keeps s0 x6 := by
    unfold x6
    exact Keeps.mk' h7 rfl rfl rfl
  clear_value x6
  split
  · exact State_complete_keeps h10
  · exact State_fetch_keeps h10

theorem State_fetchDone_keeps {s0 : State} {s : State} {f : Nat} {i : Nat} {bad : Option Nat} {data : Nat} (hs : Keeps s0 s) :
    Keeps s0 (State.fetchDone s f i bad data) := by
  unfold State.fetchDone
  split
  · exact hs
  · extract_lets x6 x7
    have h8 : Keeps s0 x7 := by
      unfold x7
      exact State_setFn_keeps hs
    clear_value x7
    split
    · exact h8
    · split
      · exact State_raise_keeps (State_ringError_keeps h8)
      · exact State_entryFetched_keeps h8

theorem State_sourceDone_keeps {s0 : State} {s : State} {d : Nat} {line : Nat} {bad : Option Nat} {ep : Bool} {data : Nat} (hs : Keeps s0 s) :
    Keeps s0 (State.sourceDone s d line bad ep data) := by
  unfold State.sourceDone
  split
  · exact hs
  · split
    · exact hs
    · split
      · exact State_descFault_keeps hs
      · apply State_dmaCame_keeps
        split
        · exact State_modDesc_keeps hs
        · exact hs

theorem State_nextRead_keeps {s0 : State} {s : State} (hs : Keeps s0 s) : Keeps s0 (State.nextRead s) := by
  unfold State.nextRead
  split
  · exact hs
  · split
    · exact hs
    · extract_lets x9 x10
      have h11 : Keeps s0 x10 := by
        unfold x10
        exact Keeps.mk' hs rfl rfl rfl
      clear_value x10
      split
      · exact State_sendRead_keeps h11
      · split
        · exact State_sourceDone_keeps h11
        · exact h11

theorem State_moreReads_keeps {s0 : State} {s : State} (hs : Keeps s0 s) : Keeps s0 (State.moreReads s) := by
  unfold State.moreReads
  refine Keeps.foldl (fun x2 a4 h3 => ?_) ?_
  · exact State_nextRead_keeps h3
  · exact hs

theorem State_readEnds_keeps {s0 : State} {s : State} {r : HRead} {bad : Option Nat} {ep : Bool} {data : Nat} (hs : Keeps s0 s) :
    Keeps s0 (State.readEnds s r bad ep data) := by
  unfold State.readEnds
  split
  · exact State_fetchDone_keeps hs
  · exact State_sourceDone_keeps hs
  · split
    · exact State_staged_keeps hs
    · exact hs

theorem State_withdraw_keeps {s0 : State} {s : State} {n : Nat} {byReset : Bool} (hs : Keeps s0 s) :
    Keeps s0 (State.withdraw s n byReset) := by
  unfold State.withdraw
  extract_lets x2
  exact State_raise_keeps (State_setChan_keeps hs)

theorem State_resetChannels_keeps {s0 : State} {s : State} {v : Nat} (hs : Keeps s0 s) : Keeps s0 (State.resetChannels s v) := by
  unfold State.resetChannels
  refine Keeps.foldl (fun x2 x3 h4 => ?_) ?_
  · extract_lets x6
    split
    · exact State_withdraw_keeps h4
    · split
      · exact State_setChan_keeps h4
      · exact h4
  · exact hs

theorem State_flrOver_keeps {s0 : State} {s : State} {v : Nat} (hs : Keeps s0 s) : Keeps s0 (State.flrOver s v) := by
  unfold State.flrOver
  split
  · have h1 : Keeps s0 (({ s with hif := { s.hif with waiting := s.hif.waiting.filter fun r => !decide (r.fn = v) } } : State).setFn v {}) :=
      State_setFn_keeps (Keeps.mk' hs rfl rfl rfl)
    dsimp only
    split
    · exact State_raise_keeps h1
    · exact h1
  · exact hs

theorem State_flr_keeps {s0 : State} {s : State} {v : Nat} (hs : Keeps s0 s) : Keeps s0 (State.flr s v) := by
  unfold State.flr
  extract_lets x2 x3 x4 x5
  have h8 : Keeps s0 x4 := by
    unfold x4
    exact Keeps.mk' hs rfl rfl rfl
  clear_value x4
  have h10 : Keeps s0 x5 := by
    unfold x5
    split
    · exact State_modCtx_keeps h8
    · exact h8
  clear_value x5
  exact State_flrOver_keeps (State_resetChannels_keeps (State_setFn_keeps h10))

theorem State_readDone_keeps {s0 : State} {s : State} {i : Nat} {bad : Option Nat} {ep : Bool} {data : Nat} (hs : Keeps s0 s) :
    Keeps s0 (State.readDone s i bad ep data) := by
  unfold State.readDone
  split
  · exact hs
  · extract_lets x1
    have h1 : Keeps s0 x1 := by
      unfold x1
      exact State_nextRead_keeps (State_dropRead_keeps hs)
    clear_value x1
    split
    · exact State_flrOver_keeps h1
    · exact State_readEnds_keeps h1

theorem execHostReadCompletion_keeps {s0 : State} {read : Nat} {status : Nat} {ep : Bool} {data : Nat} {s : State} (hs : Keeps s0 s) :
    OutKeeps s0 (execHostReadCompletion read status ep data s) := by
  unfold execHostReadCompletion
  refine OutKeeps.whenever ?_ (fun h2 => ?_)
  · exact hs
  · exact State_readDone_keeps hs

theorem execCompletionTimeout_keeps {s0 : State} {read : Nat} {s : State} (hs : Keeps s0 s) :
    OutKeeps s0 (execCompletionTimeout read s) := by
  unfold execCompletionTimeout
  refine OutKeeps.whenever ?_ (fun h2 => ?_)
  · exact hs
  · exact State_readDone_keeps hs

theorem execIrqDelayExpiry_keeps {s0 : State} {fn : Nat} {vec : Nat} {s : State} (hs : Keeps s0 s) :
    OutKeeps s0 (execIrqDelayExpiry fn vec s) := by
  unfold execIrqDelayExpiry
  refine OutKeeps.whenever ?_ (fun h2 => ?_)
  · exact hs
  · exact State_msix_keeps (State_setFn_keeps hs)

theorem State_resumeFn_keeps {s0 : State} {s : State} {f : Nat} (hs : Keeps s0 s) : Keeps s0 (State.resumeFn s f) := by
  unfold State.resumeFn
  split
  · extract_lets x3 x4 x5 x6
    have h7 : Keeps s0 x4 := by
      unfold x4
      exact State_setFn_keeps hs
    clear_value x4
    have h8 : Keeps s0 x5 := by
      unfold x5
      refine Keeps.foldl (fun x9 a11 h10 => ?_) ?_
      · exact State_putEntry_keeps h10
      · exact h7
    clear_value x5
    have h12 : Keeps s0 x6 := by
      unfold x6
      apply State_moreReads_keeps
      apply State_fetch_keeps
      refine Keeps.foldl (fun x13 a15 h14 => ?_) ?_
      · exact State_msix_keeps h14
      · exact h8
    clear_value x6
    split
    · exact h12
    · exact State_stage_keeps h12
  · exact hs

theorem execBusMasterEnable_keeps {s0 : State} {fn : Nat} {on : Bool} {s : State} (hs : Keeps s0 s) :
    OutKeeps s0 (execBusMasterEnable fn on s) := by
  unfold execBusMasterEnable
  refine OutKeeps.whenever ?_ (fun h2 => ?_)
  · exact hs
  · exact State_resumeFn_keeps (State_setFn_keeps hs)

theorem execD0ToD3hot_keeps {s0 : State} {fn : Nat} {s : State} (hs : Keeps s0 s) : OutKeeps s0 (execD0ToD3hot fn s) := by
  unfold execD0ToD3hot
  refine OutKeeps.whenever ?_ (fun h2 => ?_)
  · exact hs
  · exact State_setFn_keeps hs

theorem execFunctionLevelReset_keeps {s0 : State} {fn : Nat} {s : State} (hs : Keeps s0 s) : OutKeeps s0 (execFunctionLevelReset fn s) := by
  unfold execFunctionLevelReset
  refine OutKeeps.whenever ?_ (fun h2 => ?_)
  · exact hs
  · exact State_flr_keeps hs

theorem State_clearVfs_keeps {s0 : State} {s : State} (hs : Keeps s0 s) : Keeps s0 (State.clearVfs s) := by
  unfold State.clearVfs
  extract_lets x2 x3
  have h4 : Keeps s0 x2 := by
    unfold x2
    refine Keeps.foldl (fun x6 x7 h8 => ?_) ?_
    · exact State_flr_keeps h8
    · exact hs
  clear_value x2
  exact Keeps.mk' h4 rfl rfl rfl

theorem execVfEnableClear_keeps {s0 : State} {s : State} (hs : Keeps s0 s) : OutKeeps s0 (execVfEnableClear s) := by
  unfold execVfEnableClear
  refine OutKeeps.whenever ?_ (fun h2 => ?_)
  · exact hs
  · exact State_clearVfs_keeps hs

theorem State_putVector_keeps {s0 : State} {s : State} {f : Nat} {vec : Nat} {e : Nat} (hs : Keeps s0 s) :
    Keeps s0 (State.putVector s f vec e) := by
  unfold State.putVector
  extract_lets x2 x3 x4
  have h5 : Keeps s0 x3 := by
    unfold x3
    exact State_setFn_keeps hs
  clear_value x3
  split
  · exact State_msix_keeps (State_setFn_keeps h5)
  · exact h5

theorem State_putMsix_keeps {s0 : State} {s : State} {f : Nat} {b : Nat} {size : Nat} {v : Nat} (hs : Keeps s0 s) :
    Keeps s0 (State.putMsix s f b size v) := by
  unfold State.putMsix
  split
  · exact State_putVector_keeps hs
  · exact hs

theorem State_sriov_keeps {s0 : State} {s : State} {v : Nat} (hs : Keeps s0 s) : Keeps s0 (State.sriov s v) := by
  unfold State.sriov
  extract_lets x2 x3
  split
  · split
    · exact State_clearVfs_keeps hs
    · exact hs
  · split
    · exact hs
    · exact Keeps.mk' hs rfl rfl rfl

theorem State_barWrite_keeps {s0 : State} {s : State} {f : Nat} {off : Nat} {size : Nat} {v : Nat} (hs : Keeps s0 s) :
    Keeps s0 (State.barWrite s f off size v) := by
  unfold State.barWrite
  split
  · split
    · exact State_doorbell_keeps hs
    · exact hs
  · split
    · exact State_putMsix_keeps hs
    · split
      · exact State_setFn_keeps hs
      · split
        · exact State_setFn_keeps hs
        · split
          · exact State_sriov_keeps hs
          · exact hs

theorem State_toD0_keeps {s0 : State} {s : State} {f : Nat} (hs : Keeps s0 s) : Keeps s0 (State.toD0 s f) := by
  unfold State.toD0
  split
  · exact State_resumeFn_keeps (State_setFn_keeps hs)
  · exact State_flr_keeps hs

theorem execD3hotToD0_keeps {s0 : State} {fn : Nat} {s : State} (hs : Keeps s0 s) : OutKeeps s0 (execD3hotToD0 fn s) := by
  unfold execD3hotToD0
  refine OutKeeps.whenever ?_ (fun h2 => ?_)
  · exact hs
  · exact State_toD0_keeps hs

end Sys2Proof.Machine
end

