-- ==== Sys2Proof/Laws/KeepsMailbox.lean ====
section
/-! SUPPORT. The operations of Machine/Mailbox.lean keep what Keeps says. -/

namespace Sys2Proof.Machine

theorem State_denied_keeps {s0 : State} {s : State} {n : Nat} (hs : Keeps s0 s) : Keeps s0 (State.denied s n) := by
  unfold State.denied
  exact State_setChan_keeps hs

theorem State_signalReceiver_keeps {s0 : State} {s : State} {n : Nat} (hs : Keeps s0 s) : Keeps s0 (State.signalReceiver s n) := by
  unfold State.signalReceiver
  extract_lets x2
  split
  · exact State_msix_keeps (State_event_keeps hs)
  · split
    · exact State_out_keeps (State_setChan_keeps hs)
    · exact hs

theorem State_mailSend_keeps {s0 : State} {s : State} {n : Nat} {len : Nat} (hs : Keeps s0 s) : Keeps s0 (State.mailSend s n len) := by
  unfold State.mailSend
  extract_lets x2
  split
  · exact hs
  · exact State_signalReceiver_keeps (State_setChan_keeps hs)

theorem State_mailboxSend_keeps {s0 : State} {s : State} {m : Nat} {n : Nat} {v : Nat} (hs : Keeps s0 s) :
    Keeps s0 (State.mailboxSend s m n v) := by
  unfold State.mailboxSend
  split
  · exact State_denied_keeps hs
  · split
    · exact State_mailSend_keeps hs
    · exact hs

theorem State_mailAck_keeps {s0 : State} {s : State} {n : Nat} (hs : Keeps s0 s) : Keeps s0 (State.mailAck s n) := by
  unfold State.mailAck
  extract_lets x2
  split
  · exact State_setChan_keeps hs
  · exact hs

theorem State_mailboxAck_keeps {s0 : State} {s : State} {m : Nat} {n : Nat} (hs : Keeps s0 s) : Keeps s0 (State.mailboxAck s m n) := by
  unfold State.mailboxAck
  split
  · exact State_denied_keeps hs
  · exact State_mailAck_keeps hs

theorem execMailboxAck_keeps {s0 : State} {master : Nat} {chan : Nat} {s : State} (hs : Keeps s0 s) :
    OutKeeps s0 (execMailboxAck master chan s) := by
  unfold execMailboxAck
  refine OutKeeps.whenever ?_ (fun h2 => ?_)
  · exact hs
  · exact State_mailboxAck_keeps (State_access_keeps hs)

theorem execMailboxTimeout_keeps {s0 : State} {chan : Nat} {s : State} (hs : Keeps s0 s) : OutKeeps s0 (execMailboxTimeout chan s) := by
  unfold execMailboxTimeout
  refine OutKeeps.whenever ?_ (fun h2 => ?_)
  · exact hs
  · exact State_withdraw_keeps hs

theorem State_unsupported_keeps {s0 : State} {s : State} (hs : Keeps s0 s) : Keeps s0 (State.unsupported s) :=
  Keeps.ite (fun _ => State_out_keeps hs) fun _ => hs

theorem State_vendor_keeps {s0 : State} {s t : State} (hs : Keeps s0 s) (ht : Keeps s0 t) : Keeps s0 (State.vendor s t) :=
  Keeps.ite (fun _ => ht) fun _ => State_unsupported_keeps hs

theorem State_bmcSend_keeps {s0 : State} {s : State} {len : Nat} {data : Nat} (hs : Keeps s0 s) : Keeps s0 (State.bmcSend s len data) := by
  unfold State.bmcSend
  extract_lets x2
  split
  · exact State_out_keeps (State_drawn_keeps hs)
  · split
    · exact State_out_keeps hs
    · exact State_out_keeps (State_mailSend_keeps (State_setChan_keeps hs))

theorem execMbxDeliver_keeps {s0 : State} {s : State} (hs : Keeps s0 s) : OutKeeps s0 (execMbxDeliver s) := by
  unfold execMbxDeliver
  refine OutKeeps.whenever ?_ (fun h2 => ?_)
  · exact hs
  · exact State_mailAck_keeps hs

end Sys2Proof.Machine
end

