-- ==== Sys2Proof/Laws/KeepsImage.lean ====
section
/-! SUPPORT. The operations of Machine/Image.lean keep what Keeps says. -/

namespace Sys2Proof.Machine

theorem State_imageChecks_keeps {s0 : State} {s : State} {c : Nat} (hs : Keeps s0 s) : Keeps s0 (State.imageChecks s c) := by
  unfold State.imageChecks
  extract_lets x2
  split
  · exact State_toAdmission_keeps hs
  · exact State_toAdmission_keeps hs

theorem execImageChecks_keeps {s0 : State} {ctx : Nat} {s : State} (hs : Keeps s0 s) : OutKeeps s0 (execImageChecks ctx s) := by
  unfold execImageChecks
  refine OutKeeps.whenever ?_ (fun h2 => ?_)
  · exact hs
  · exact State_imageChecks_keeps hs

end Sys2Proof.Machine
end

