-- ==== Sys2Proof/Laws/KeepsAdmit.lean ====
section
/-! SUPPORT. The operations of Machine/Admit.lean keep what Keeps says. -/

namespace Sys2Proof.Machine

theorem State_holdFrames_keeps {s0 : State} {s : State} {c : Nat} {cow : Bool} {fs : List Nat} (hs : Keeps s0 s) :
    Keeps s0 (State.holdFrames s c cow fs) := by
  unfold State.holdFrames
  exact Keeps.mk' hs rfl rfl rfl

theorem State_takeCow_keeps {s0 : State} {s : State} {c : Nat} {d : Memory} (hs : Keeps s0 s) : Keeps s0 (State.takeCow s c d) := by
  unfold State.takeCow
  extract_lets x2
  have h3 : Keeps s0 x2 := by
    unfold x2
    exact State_holdFrames_keeps hs
  clear_value x2
  exact State_holdFrames_keeps h3

theorem State_sendReserves_keeps {s0 : State} {s : State} {c : Nat} {d : Memory} (hs : Keeps s0 s) :
    Keeps s0 (State.sendReserves s c d) := by
  unfold State.sendReserves
  refine Keeps.foldl (fun x2 x3 h4 => ?_) ?_
  · exact State_mgmt_keeps h4
  · exact State_modCtx_keeps hs

theorem State_useReserves_keeps {s0 : State} {s : State} {d : Memory} (hs : Keeps s0 s) : Keeps s0 (State.useReserves s d) := by
  unfold State.useReserves
  extract_lets x2 x3
  exact Keeps.mk' hs rfl rfl rfl

theorem State_refuseJob_keeps {s0 : State} {s : State} {c : Nat} {detail : Nat} (hs : Keeps s0 s) :
    Keeps s0 (State.refuseJob s c detail) := by
  unfold State.refuseJob
  extract_lets x2 x3
  have h4 : Keeps s0 x3 := by
    unfold x3
    exact State_modCtx_keeps hs
  clear_value x3
  split
  · exact State_complete_keeps h4
  · exact h4

theorem State_refreshTdom_keeps {s0 : State} {s : State} {k : Nat} (hs : Keeps s0 s) : Keeps s0 (State.refreshTdom s k) := by
  unfold State.refreshTdom
  extract_lets x2 x3 x4 x5 x6
  split
  · exact State_setTdom_keeps hs
  · exact State_setTdom_keeps hs

theorem State_refreshTdoms_keeps {s0 : State} {s : State} (hs : Keeps s0 s) : Keeps s0 (State.refreshTdoms s) := by
  unfold State.refreshTdoms
  refine Keeps.foldl (fun x2 x3 h4 => ?_) ?_
  · exact State_refreshTdom_keeps h4
  · exact hs

theorem State_refreshEstimates_keeps {s0 : State} {s : State} (hs : Keeps s0 s) : Keeps s0 (State.refreshEstimates s) := by
  unfold State.refreshEstimates
  refine Keeps.foldl (fun x2 x3 h4 => ?_) ?_
  · extract_lets x6 x7
    split
    · exact h4
    · exact State_setCp_keeps h4
  · exact hs

theorem State_powerSet_keeps {s0 : State} {s : State} {n : Nat} (hs : Keeps s0 s) : Keeps s0 (State.powerSet s n) := by
  unfold State.powerSet
  exact State_domTo_keeps (State_domTo_keeps hs)

theorem State_grantSets_keeps {s0 : State} {s : State} {c : Nat} {d : Memory} {groups : List Nat} (hs : Keeps s0 s) :
    Keeps s0 (State.grantSets s c d groups) := by
  unfold State.grantSets
  extract_lets x2 x3
  have h4 : Keeps s0 x3 := by
    unfold x3
    refine Keeps.foldl (fun x5 a7 h6 => ?_) ?_
    · extract_lets x8
      exact State_setTset_keeps (State_powerSet_keeps h6)
    · exact hs
  clear_value x3
  refine Keeps.mkAll ?_ (fun w9 => ?_) (fun w9 => ?_) (fun w9 => ?_) ?_
  · exact h4
  · exact h4.hbm_wf w9
  · refine tilesWf_mvals (fun k v hv => ?_) ?_
    · split
      · exact hv
      · exact hv
    · exact h4.tiles_wf w9
  · exact h4.images_wf w9
  · exact h4.fuses

theorem State_grantPool_keeps {s0 : State} {s : State} {d : Memory} {sets : List Nat} (hs : Keeps s0 s) :
    Keeps s0 (State.grantPool s d sets) := by
  unfold State.grantPool
  split
  · exact hs
  · extract_lets x4 x5 x6
    have h7 : Keeps s0 x4 := by
      unfold x4
      refine Keeps.foldl (fun x8 a10 h9 => ?_) ?_
      · extract_lets x11 x12
        have h13 : Keeps s0 x11 := by
          unfold x11
          exact State_setTset_keeps (State_powerSet_keeps h9)
        clear_value x11
        exact State_setTdom_keeps h13
      · exact hs
    clear_value x4
    exact Keeps.mk' h7 rfl rfl rfl

theorem State_grantHbm_keeps {s0 : State} {s : State} {c : Nat} {d : Memory} (hs : Keeps s0 s) : Keeps s0 (State.grantHbm s c d) := by
  unfold State.grantHbm
  extract_lets x2 x3 x4 x5 x6 x7 x8 x9 x10 x11 x12 x13
  have h14 : Keeps s0 x3 := by
    unfold x3
    exact State_takeCow_keeps hs
  clear_value x3
  have h17 : Keeps s0 x5 := by
    unfold x5
    split
    · exact h14
    · exact State_setPwin_keeps (State_holdFrames_keeps h14)
  clear_value x5
  have h25 : Keeps s0 x8 := by
    unfold x8
    exact State_holdFrames_keeps h17
  clear_value x8
  have h28 : Keeps s0 x13 := by
    unfold x13
    exact Keeps.mk' h25 rfl rfl rfl
  clear_value x13
  exact State_modCtx_keeps h28

theorem State_grantBinds_keeps {s0 : State} {s : State} {c : Nat} {d : Memory} (hs : Keeps s0 s) : Keeps s0 (State.grantBinds s c d) := by
  unfold State.grantBinds
  refine Keeps.foldl (fun x2 x3 h4 => ?_) ?_
  · extract_lets x6 x7
    exact State_tryBind_keeps (State_mgmt_keeps (State_setBinding_keeps h4))
  · exact hs

theorem State_grantClaims_keeps {s0 : State} {s : State} {c : Nat} {d : Memory} (hs : Keeps s0 s) : Keeps s0 (State.grantClaims s c d) := by
  unfold State.grantClaims
  extract_lets x2 x3 x4 x5
  exact Keeps.mk' hs rfl rfl rfl

theorem State_grantTables_keeps {s0 : State} {s : State} {c : Nat} {d : Memory} (hs : Keeps s0 s) : Keeps s0 (State.grantTables s c d) := by
  unfold State.grantTables
  extract_lets x2 x3 x4 x5 x6 x7 x8 x9
  have h10 : Keeps s0 x5 := by
    unfold x5
    refine Keeps.foldl (fun x12 x13 h14 => ?_) ?_
    · exact State_setGroup_keeps h14
    · exact hs
  clear_value x5
  have h18 : Keeps s0 x6 := by
    unfold x6
    refine Keeps.foldl (fun x20 x21 h22 => ?_) ?_
    · exact State_setQueue_keeps h22
    · exact h10
  clear_value x6
  have h26 : Keeps s0 x9 := by
    unfold x9
    exact Keeps.mk' h18 rfl rfl rfl
  clear_value x9
  exact State_modCtx_keeps h26

theorem State_grantPower_keeps {s0 : State} {s : State} {c : Nat} {m : Memory} {d : Memory} (hs : Keeps s0 s) :
    Keeps s0 (State.grantPower s c m d) := by
  unfold State.grantPower
  exact State_setCp_keeps hs

theorem State_admitJob_keeps {s0 : State} {s : State} {c : Nat} (hs : Keeps s0 s) : Keeps s0 (State.admitJob s c) := by
  unfold State.admitJob
  extract_lets x2 x3 x4 x5 x6 x7
  have h8 : Keeps s0 x5 := by
    unfold x5
    exact State_modCtx_keeps (State_grantTables_keeps hs)
  clear_value x5
  have h12 : Keeps s0 x6 := by
    unfold x6
    exact State_grantPower_keeps h8
  clear_value x6
  have h15 : Keeps s0 x7 := by
    unfold x7
    exact State_grantPool_keeps (State_grantSets_keeps h12)
  clear_value x7
  exact State_grantBinds_keeps (State_stateEvent_keeps (State_refreshEstimates_keeps (State_refreshTdoms_keeps (State_grantClaims_keeps (State_grantHbm_keeps h15)))))

end Sys2Proof.Machine
end

