-- ==== Sys2Proof/Laws/KeepsRelocate.lean ====
section
/-! SUPPORT. The operations of Machine/Relocate.lean keep what Keeps says. -/

namespace Sys2Proof.Machine

theorem State_loadCopy_keeps {s0 : State} {s : State} {c t : Nat} {x : Place3} (hs : Keeps s0 s) : Keeps s0 (State.loadCopy s c t x) := by
  unfold State.loadCopy
  extract_lets va
  split
  · exact State_raise_keeps hs
  · split
    rename_i s1 ls e
    exact Keeps.foldl (fun _ _ h => Keeps.modTile h fun _ _ h => Tile_putLine_keeps h) (Keeps.of_fst (State_takeLines_keeps hs) e)

theorem State_loadTile_keeps {s0 : State} {s : State} {c : Nat} {i : Nat} (hs : Keeps s0 s) : Keeps s0 (State.loadTile s c i) := by
  unfold State.loadTile
  extract_lets x2 t
  split
  · exact hs
  · extract_lets s1
    have h1 : Keeps s0 s1 := Keeps.modTile hs fun _ _ _ => rfl
    clear_value s1
    exact Keeps.modTile (Keeps.foldl (fun _ _ h => State_loadCopy_keeps h) h1) fun _ _ h => relocate_wf h

theorem State_repairLine_keeps {s0 : State} {s : State} {t l : Nat} (hs : Keeps s0 s) : Keeps s0 (State.repairLine s t l) := by
  unfold State.repairLine
  extract_lets c i
  split
  · exact Keeps.modTile hs fun _ _ h => Tile_putLine_keeps h
  · extract_lets va
    split
    · exact State_raise_keeps hs
    · split
      rename_i s1 v p e
      exact Keeps.modTile (Keeps.of_fst (State_takeLine_keeps hs) e) fun _ _ h => Tile_putLine_keeps h

theorem State_loadQueue_keeps {s0 : State} {s : State} {c : Nat} {r : Nat} {n : Nat} (hs : Keeps s0 s) :
    Keeps s0 (State.loadQueue s c r n) := by
  unfold State.loadQueue
  extract_lets x2 x3 x4 x5 x6
  exact State_modQueue_keeps hs

theorem State_loadImage_keeps {s0 : State} {s : State} {c : Nat} (hs : Keeps s0 s) : Keeps s0 (State.loadImage s c) := by
  unfold State.loadImage
  extract_lets x2 x3 x4 x5
  have h6 : Keeps s0 x3 := by
    unfold x3
    refine Keeps.foldl (fun x8 x9 h10 => ?_) ?_
    · exact State_loadTile_keeps h10
    · exact hs
  clear_value x3
  have h14 : Keeps s0 x5 := by
    unfold x5
    refine Keeps.foldl (fun x16 x17 h18 => ?_) ?_
    · exact State_loadQueue_keeps h18
    · exact h6
  clear_value x5
  exact State_setTel_keeps h14

end Sys2Proof.Machine
end

