-- ==== Sys2Proof/Laws/KeepsSuperstep.lean ====
section
/-! SUPPORT. The operations of Machine/Superstep.lean keep what Keeps says. -/

namespace Sys2Proof.Machine

theorem State_drawSample_keeps {s0 : State} {s : State} {c : Nat} {g : Nat} {t : Nat} (hs : Keeps s0 s) :
    Keeps s0 (State.drawSample s c g t) := by
  have h1 : Keeps s0 { s with ras := { s.ras with sampled := satAdd s.ras.sampled 1 0xFFFFFFFFFFFFFFFF } } :=
    hs.mk' rfl rfl rfl
  unfold State.drawSample
  split
  · exact hs
  · dsimp only
    split
    · split
      · rename_i p _ _
        refine Keeps.mkAll (s := ({ s with ras := { s.ras with sampled := satAdd s.ras.sampled 1 0xFFFFFFFFFFFFFFFF } } : State).modTile t
          (fun y => { y with cap := some s.nextId, digest := {} })) (Keeps.modTile h1 fun _ _ h => h) h1.hbm_wf
          (Keeps.modTile (n := t) (f := fun y => { y with cap := some s.nextId, digest := {} }) h1 fun _ _ h => h).tiles_wf (fun w => ?_) hs.fuses
        refine imagesWf_append (hs.images_wf w) ?_
        simp only [imagesWf, List.all_cons, List.all_nil, Bool.and_true]
        exact tile_wf (hs.tiles_wf w)
      · exact hs.mk' rfl rfl rfl
    · exact hs.mk' rfl rfl rfl

theorem Tile_releaseThread_keeps {t : Tile} {n : Nat} (ht : Memory.wf t.mem = true) : Memory.wf (Tile.releaseThread t n).mem = true := by
  unfold Tile.releaseThread
  exact Tile_modThread_keeps ht

theorem Tile_release_keeps {t : Tile} (ht : Memory.wf t.mem = true) : Memory.wf (Tile.release t).mem = true := by
  unfold Tile.release
  extract_lets x2
  have h3 : Memory.wf x2.mem = true := by
    unfold x2
    refine foldl_tile_wf (fun _ _ _ => ?_) ?_
    · apply Tile_releaseThread_keeps
      assumption
    · exact ht
  clear_value x2
  dsimp only
  exact h3

theorem State_releaseGroup_keeps {s0 : State} {s : State} {c : Nat} {g : Nat} (hs : Keeps s0 s) : Keeps s0 (State.releaseGroup s c g) := by
  unfold State.releaseGroup
  extract_lets x2 x3 x4 x5 x6 x7
  have h8 : Keeps s0 x3 := by
    unfold x3
    refine Keeps.foldl (fun x10 x11 h12 => ?_) ?_
    · exact State_ringRelease_keeps h12
    · exact hs
  clear_value x3
  have h16 : Keeps s0 x4 := by
    unfold x4
    refine Keeps.foldl (fun x18 x19 h20 => ?_) ?_
    · refine Keeps.modTile ?_ (fun w24 x22 h23 => ?_)
      · exact h20
      · exact Tile_release_keeps h23
    · exact h8
  clear_value x4
  have h29 : Keeps s0 x5 := by
    unfold x5
    refine Keeps.foldl (fun x31 x32 h33 => ?_) ?_
    · exact State_drawSample_keeps h33
    · exact h16
  clear_value x5
  have h37 : Keeps s0 x7 := by
    unfold x7
    exact State_setGroup_keeps h29
  clear_value x7
  refine Keeps.foldl (fun x41 x42 h43 => ?_) ?_
  · exact State_enterExchange_keeps h43
  · exact h37

theorem State_endRerun_keeps {s0 : State} {s : State} {t : Nat} (hs : Keeps s0 s) : Keeps s0 (State.endRerun s t) := by
  unfold State.endRerun
  split
  · split
    · exact hs
    · exact State_rerunOk_keeps hs
  · exact hs

theorem State_tileSignal_keeps {s0 : State} {s : State} {t : Nat} (hs : Keeps s0 s) : Keeps s0 (State.tileSignal s t) := by
  unfold State.tileSignal
  extract_lets x2
  refine Keeps.modTile ?_ (fun w6 x4 h5 => ?_)
  · apply State_sendPatina_keeps
    apply State_ringSignal_keeps
    apply State_endRerun_keeps
    refine Keeps.modTile ?_ (fun w13 x11 h12 => ?_)
    · exact hs
    · exact Tile_fillView_keeps h12
  · dsimp only
    exact h5

theorem execTileSignal_keeps {s0 : State} {tile : Nat} {s : State} (hs : Keeps s0 s) : OutKeeps s0 (execTileSignal tile s) := by
  unfold execTileSignal
  refine OutKeeps.whenever ?_ (fun h2 => ?_)
  · exact hs
  · exact State_tileSignal_keeps hs

theorem State_stampRef_keeps {s0 : State} {s : State} {c : Nat} {g : Nat} (hs : Keeps s0 s) : Keeps s0 (State.stampRef s c g) := by
  unfold State.stampRef
  extract_lets x2
  split
  · exact State_setCp_keeps hs
  · exact hs

theorem State_jobDone_keeps {s0 : State} {s : State} {c : Nat} (hs : Keeps s0 s) : Keeps s0 (State.jobDone s c) := by
  unfold State.jobDone
  split
  · exact State_startTeardown_keeps (State_modCtx_keeps hs)
  · exact hs

theorem State_syncComplete_keeps {s0 : State} {s : State} {g : Nat} (hs : Keeps s0 s) : Keeps s0 (State.syncComplete s g) := by
  unfold State.syncComplete
  extract_lets x2 x3 x4
  split
  · exact State_jobDone_keeps (State_setGroup_keeps hs)
  · exact State_releaseGroup_keeps (State_stampRef_keeps (State_setGroup_keeps hs))

theorem execSynchronisationComplete_keeps {s0 : State} {group : Nat} {s : State} (hs : Keeps s0 s) :
    OutKeeps s0 (execSynchronisationComplete group s) := by
  unfold execSynchronisationComplete
  refine OutKeeps.whenever ?_ (fun h2 => ?_)
  · exact hs
  · exact State_syncComplete_keeps hs

theorem Tile_restoreThread_keeps {t : Tile} {n : Nat} (ht : Memory.wf t.mem = true) : Memory.wf (Tile.restoreThread t n).mem = true := by
  unfold Tile.restoreThread
  extract_lets x2 x3 x4
  have h5 : Memory.wf x3.mem = true := by
    unfold x3
    exact Tile_modThread_keeps ht
  clear_value x3
  dsimp only
  exact h5

theorem Tile_restoreEntry_keeps {t : Tile} {d : Detection} (ht : Memory.wf t.mem = true) :
    Memory.wf (Tile.restoreEntry t d).mem = true := by
  unfold Tile.restoreEntry
  split
  · exact ht
  · exact ht

theorem Tile_restore_keeps {t : Tile} (ht : Memory.wf t.mem = true) : Memory.wf (Tile.restore t).mem = true := by
  unfold Tile.restore
  dsimp only
  split
  · dsimp only
    split
    · exact Tile_restoreEntry_keeps ht
    · exact ht
  · dsimp only
    refine foldl_tile_wf (fun _ _ _ => ?_) ht
    exact Tile_restoreThread_keeps ‹_›

theorem State_restartLog_keeps {s0 : State} {s : State} {t : Nat} (hs : Keeps s0 s) : Keeps s0 (State.restartLog s t) := by
  unfold State.restartLog
  split
  · exact hs
  · rename_i x hf
    refine hs.update rfl (.refl _) id (fun w => ?_) fun w => imagesWf_map (fun y hy => ?_) w
    · dsimp only
      refine tilesWf_mvals (fun _ v h => ?_) w
      split
      · rfl
      · split <;> exact h
    · split
      · exact List.all_eq_true.1 w x (List.mem_of_find?_eq_some hf)
      · exact hy

theorem State_repair_keeps {s0 : State} {s : State} {t : Nat} (hs : Keeps s0 s) : Keeps s0 (State.repair s t) := by
  unfold State.repair
  split
  · split
    · split
      · exact State_repairLine_keeps hs
      · exact hs
    · exact hs
  · exact hs

theorem State_rerun_keeps {s0 : State} {s : State} {t : Nat} (hs : Keeps s0 s) : Keeps s0 (State.rerun s t) := by
  unfold State.rerun
  extract_lets x2
  have h3 : Keeps s0 x2 := by
    unfold x2
    exact State_repair_keeps hs
  clear_value x2
  refine Keeps.modTile ?_ (fun w9 x7 h8 => ?_)
  · split
    · exact h3
    · exact State_restartLog_keeps h3
  · exact Tile_restore_keeps h8

theorem execSuperstepRerun_keeps {s0 : State} {tile : Nat} {s : State} (hs : Keeps s0 s) : OutKeeps s0 (execSuperstepRerun tile s) := by
  unfold execSuperstepRerun
  refine OutKeeps.whenever ?_ (fun h2 => ?_)
  · exact hs
  · exact State_rerun_keeps hs

end Sys2Proof.Machine
end

