-- ==== Sys2Proof/Laws/KeepsSync.lean ====
section
/-! SUPPORT. The operations of Machine/Sync.lean keep what Keeps says. -/

namespace Sys2Proof.Machine

theorem Tile_contribute_keeps {t : Tile} (ht : Memory.wf t.mem = true) : Memory.wf (Tile.contribute t).mem = true := by
  unfold Tile.contribute
  split
  · exact ht
  · dsimp only
    exact ht
  · exact ht
  · dsimp only
    exact ht
  · dsimp only
    exact ht

theorem State_contribute_keeps {s0 : State} {s : State} {o : Op} {a : Nat} (hs : Keeps s0 s) : Keeps s0 (State.contribute s o a) := by
  unfold State.contribute
  split
  · refine Keeps.modTile ?_ (fun w6 x4 h5 => ?_)
    · split
      · refine Keeps.modTile ?_ (fun w12 x10 h11 => ?_)
        · exact hs
        · dsimp only
          exact h11
      · exact State_sendPatina_keeps hs
    · exact Tile_contribute_keeps h5
  · exact hs

theorem State_sendInc_keeps {s0 : State} {s : State} {o : Op} {a : Nat} (hs : Keeps s0 s) : Keeps s0 (State.sendInc s o a) := by
  unfold State.sendInc
  exact State_flushRemote_keeps (State_sendSyu_keeps hs)

theorem cincEffect_keeps {s0 : State} {s : State} {o : Op} (hs : Keeps s0 s) : (cincEffect s o).Keeps s0 := by
  unfold cincEffect
  split
  rename_i y2 y3 y4 y5
  extract_lets x7
  have h8 : Keeps s0 x7 := by
    unfold x7
    exact State_asyncTicket_keeps (Keeps.of_snd (State_outside_keeps hs) y5)
  clear_value x7
  refine Eff.keeps_done.2 ?_
  split
  · split
    · exact State_contribute_keeps h8
    · exact h8
  · exact State_sendInc_keeps (State_contribute_keeps h8)

theorem execCinc_keeps {s0 : State} {tile : Nat} {thread : Nat} {w : BitVec 128} {s : State} (hs : Keeps s0 s) :
    OutKeeps s0 (execCinc tile thread w s) := by
  unfold execCinc
  apply runOp_keeps
  · intro x3
    intro x5
    intro x7
    dsimp only [cincSpec]
    exact cincEffect_keeps x7
  · exact hs

theorem cwatchEffect_keeps {s0 : State} {s : State} {o : Op} (hs : Keeps s0 s) : (cwatchEffect s o).Keeps s0 := by
  unfold cwatchEffect
  extract_lets x2
  split
  rename_i y4 y5 y6 y7
  extract_lets x9 x10
  have h11 : Keeps s0 x9 := by
    unfold x9
    exact State_asyncTicket_keeps (Keeps.of_snd (State_outside_keeps hs) y7)
  clear_value x9
  have h16 : Keeps s0 x10 := by
    unfold x10
    exact State_sendSyu_keeps h11
  clear_value x10
  split
  · exact Eff.keeps_done.2 h11
  · refine Eff.keeps_done.2 ?_
    split
    · exact h16
    · refine Keeps.modTile ?_ (fun w32 x30 h31 => ?_)
      · exact h16
      · dsimp only
        exact h31

theorem execCwatch_keeps {s0 : State} {tile : Nat} {thread : Nat} {w : BitVec 128} {s : State} (hs : Keeps s0 s) :
    OutKeeps s0 (execCwatch tile thread w s) := by
  unfold execCwatch
  apply runOp_keeps
  · intro x3
    intro x5
    intro x7
    dsimp only [cwatchSpec]
    exact cwatchEffect_keeps x7
  · exact hs

theorem State_sendReads_keeps {s0 : State} {s : State} {o : Op} {rd : Nat} {vid : Nat} {x4 : Nat} {x5 : Nat} (hs : Keeps s0 s) :
    Keeps s0 (State.sendReads s o rd vid x4 x5) := by
  induction x4 generalizing s x5 with
  | zero => exact hs
  | succ n ih => exact ih (State_sendSyu_keeps hs)

theorem creadEffect_keeps {s0 : State} {s : State} {o : Op} (hs : Keeps s0 s) : (creadEffect s o).Keeps s0 := by
  unfold creadEffect
  extract_lets x2 x3 x4 x5 x6 x7
  have h8 : Keeps s0 x5 := by
    unfold x5
    refine Keeps.modTile ?_ (fun w9 x10 h11 => ?_)
    · exact hs
    · exact h11
  clear_value x5
  have h12 : Keeps s0 x7 := by
    unfold x7
    exact Keeps.mk' h8 rfl rfl rfl
  clear_value x7
  split
  · show Keeps s0 _
    apply State_takeTicket_keeps
    refine Keeps.modTile ?_ (fun w14 x15 h16 => ?_)
    · exact hs
    · exact h16
  · exact State_takeTicket_keeps (State_sendReads_keeps h12)

theorem execCread_keeps {s0 : State} {tile : Nat} {thread : Nat} {w : BitVec 128} {s : State} (hs : Keeps s0 s) :
    OutKeeps s0 (execCread tile thread w s) := by
  unfold execCread
  apply runOp_keeps
  · intro x3
    intro x5
    intro x7
    dsimp only [creadSpec]
    exact creadEffect_keeps x7
  · exact hs

theorem State_creadResult_keeps {s0 : State} {s : State} {rd : Nat} (hs : Keeps s0 s) : Keeps s0 (State.creadResult s rd) := by
  unfold State.creadResult
  split
  · exact hs
  · extract_lets x7 x8 x9 x10
    have h11 : Keeps s0 x9 := by
      unfold x9
      exact Keeps.mk' hs rfl rfl rfl
    clear_value x9
    have h12 : Keeps s0 x10 := by
      unfold x10
      refine Keeps.modTile ?_ (fun w13 x14 h15 => ?_)
      · exact h11
      · extract_lets x16
        have h17 : Memory.wf x16.mem = true := by
          unfold x16
          exact Tile_putLine_keeps h15
        clear_value x16
        exact h17
    clear_value x10
    exact State_flushRemote_keeps (State_freeTicket_keeps (State_logInput_keeps h12))

theorem execCreadResult_keeps {s0 : State} {read : Nat} {s : State} (hs : Keeps s0 s) : OutKeeps s0 (execCreadResult read s) := by
  unfold execCreadResult
  refine OutKeeps.whenever ?_ (fun h2 => ?_)
  · exact hs
  · exact State_creadResult_keeps hs

theorem State_refuseInc_keeps {s0 : State} {s : State} {x : SyuItem} (hs : Keeps s0 s) : Keeps s0 (State.refuseInc s x) := by
  unfold State.refuseInc
  extract_lets x2 x3 x4
  have h5 : Keeps s0 x4 := by
    unfold x4
    exact State_answerPeer_keeps hs
  clear_value x4
  exact State_raise_keeps (State_faultCmd_keeps h5)

theorem State_arriveSyu_keeps {s0 : State} {s : State} {i : Nat} (hs : Keeps s0 s) : Keeps s0 (State.arriveSyu s i) := by
  unfold State.arriveSyu
  split
  · exact hs
  · extract_lets x9 x10 x11 x12
    have h13 : Keeps s0 x10 := by
      unfold x10
      exact Keeps.mk' hs rfl rfl rfl
    clear_value x10
    have h16 : Keeps s0 x12 := by
      unfold x12
      exact Keeps.mk' h13 rfl rfl rfl
    clear_value x12
    split
    · split
      · exact h16
      · exact State_refuseInc_keeps h13
    · split
      · exact h16
      · exact State_regResult_keeps h13
    · split
      · exact h16
      · exact h13

theorem execIncrementArrival_keeps {s0 : State} {item : Nat} {s : State} (hs : Keeps s0 s) : OutKeeps s0 (execIncrementArrival item s) := by
  unfold execIncrementArrival
  refine OutKeeps.whenever ?_ (fun h2 => ?_)
  · exact hs
  · exact State_arriveSyu_keeps hs

theorem State_sendNotif_keeps {s0 : State} {s : State} {w : Watch} {v : Nat} {timeout : Bool} (hs : Keeps s0 s) :
    Keeps s0 (State.sendNotif s w v timeout) := by
  unfold State.sendNotif
  extract_lets x2 x3
  exact Keeps.mk' hs rfl rfl rfl

theorem State_watchFault_keeps {s0 : State} {s : State} {w : WReg} {r : FaultRec} (hs : Keeps s0 s) : Keeps s0 (State.watchFault s w r) := by
  unfold State.watchFault
  split
  · exact State_raise_keeps (State_noteThread_keeps hs)
  · exact State_raise_keeps hs

theorem State_watchFull_keeps {s0 : State} {s : State} {id : Nat} {r : WReg} {noSlot : Nat} (hs : Keeps s0 s) :
    Keeps s0 (State.watchFull s id r noSlot) := by
  unfold State.watchFull
  split
  · exact State_regResult_keeps hs
  · exact State_watchFault_keeps hs

theorem State_acceptReg_keeps {s0 : State} {s : State} {x : SyuItem} {r : WReg} {p : Nat} (hs : Keeps s0 s) :
    Keeps s0 (State.acceptReg s x r p) := by
  unfold State.acceptReg
  split
  · exact State_regResult_keeps hs
  · split
    · exact State_regResult_keeps hs
    · split
      · split
        · exact State_watchFull_keeps hs
        · exact State_regResult_keeps (Keeps.mk' hs rfl rfl rfl)
      · exact State_watchFull_keeps hs

theorem State_evaluate_keeps {s0 : State} {s : State} {p : Nat} {v : Nat} (hs : Keeps s0 s) : Keeps s0 (State.evaluate s p v) := by
  unfold State.evaluate
  extract_lets x2 x3
  exact Keeps.mk' hs rfl rfl rfl

theorem State_applyInc_keeps {s0 : State} {s : State} {x : SyuItem} {p : Nat} {vid : Nat} {amt : Nat} (hs : Keeps s0 s) :
    Keeps s0 (State.applyInc s x p vid amt) := by
  unfold State.applyInc
  extract_lets x2 x3 x4 x5 x6 x7 x8 x9
  have h10 : Keeps s0 x5 := by
    unfold x5
    exact Keeps.mk' hs rfl rfl rfl
  clear_value x5
  have h13 : Keeps s0 x8 := by
    unfold x8
    split
    · exact State_raise_keeps (State_setCtx_keeps (Keeps.mk' h10 rfl rfl rfl))
    · exact h10
  clear_value x8
  have h22 : Keeps s0 x9 := by
    unfold x9
    apply State_answerPeer_keeps
    split
    · exact State_freeTicket_keeps h13
    · exact h13
  clear_value x9
  split
  · split
    · exact State_complete_keeps h22
    · assumption
  · exact h22

theorem State_windowItem_keeps {s0 : State} {s : State} {x : SyuItem} {p : Nat} (hs : Keeps s0 s) : Keeps s0 (State.windowItem s x p) := by
  unfold State.windowItem
  split
  · exact State_evaluate_keeps (State_applyInc_keeps hs)
  · exact State_evaluate_keeps (State_acceptReg_keeps hs)
  · exact Keeps.mk' hs rfl rfl rfl
  · exact hs

theorem State_windowTimeouts_keeps {s0 : State} {s : State} {p : Nat} {xs : List SyuItem} (hs : Keeps s0 s) :
    Keeps s0 (State.windowTimeouts s p xs) := by
  unfold State.windowTimeouts
  extract_lets x2 x3 x4
  exact Keeps.mk' hs rfl rfl rfl

theorem State_counterFix_keeps {s0 : State} {s : State} {p : Nat} (hs : Keeps s0 s) : Keeps s0 (State.counterFix s p) := by
  unfold State.counterFix
  split
  · exact Keeps.mk' hs rfl rfl rfl
  · exact hs

theorem State_slotFix_keeps {s0 : State} {s : State} {n : Nat} (hs : Keeps s0 s) : Keeps s0 (State.slotFix s n) := by
  unfold State.slotFix
  split
  · exact Keeps.mk' hs rfl rfl rfl
  · exact hs

theorem State_syuFix_keeps {s0 : State} {s : State} {p : Nat} (hs : Keeps s0 s) : Keeps s0 (State.syuFix s p) := by
  unfold State.syuFix
  exact Keeps.foldl (fun _ _ h => State_slotFix_keeps h) (State_counterFix_keeps hs)

theorem State_windowEnd_keeps {s0 : State} {s : State} {p : Nat} (hs : Keeps s0 s) : Keeps s0 (State.windowEnd s p) := by
  unfold State.windowEnd
  extract_lets x2 x3
  refine Keeps.foldl (fun x4 a6 h5 => ?_) ?_
  · split
    · split
      · exact State_sendNotif_keeps h5
      · exact h5
    · exact h5
  · exact Keeps.mk' hs rfl rfl rfl

theorem State_takeWindow_keeps {s0 : State} {s : State} {p : Nat} (hs : Keeps s0 s) : Keeps s0 (State.takeWindow s p) := by
  unfold State.takeWindow
  exact Keeps.mk' hs rfl rfl rfl

theorem State_windowFails_keeps {s0 : State} {s : State} {p : Nat} {r : FaultRec} (hs : Keeps s0 s) :
    Keeps s0 (State.windowFails s p r) := by
  unfold State.windowFails
  exact Keeps.foldl (fun _ _ h => State_refuseEnded_keeps h) (State_takeWindow_keeps (State_raise_keeps hs))

theorem State_window_keeps {s0 : State} {s : State} {p : Nat} (hs : Keeps s0 s) : Keeps s0 (State.window s p) := by
  unfold State.window
  extract_lets x2
  split
  · exact State_windowFails_keeps hs
  · apply State_afterOrder7_keeps
    apply State_windowEnd_keeps
    apply State_windowTimeouts_keeps
    refine Keeps.foldl (fun x11 a13 h12 => ?_) ?_
    · exact State_windowItem_keeps h12
    · exact State_syuFix_keeps (State_takeWindow_keeps hs)

theorem execUpdateWindow_keeps {s0 : State} {counter : Nat} {s : State} (hs : Keeps s0 s) : OutKeeps s0 (execUpdateWindow counter s) := by
  unfold execUpdateWindow
  refine OutKeeps.whenever ?_ (fun h2 => ?_)
  · exact hs
  · exact State_window_keeps hs

theorem State_notify_keeps {s0 : State} {s : State} {n : Notif} (hs : Keeps s0 s) : Keeps s0 (State.notify s n) := by
  unfold State.notify
  extract_lets x2 x3 x4
  have h5 : Keeps s0 x3 := by
    unfold x3
    exact Keeps.mk' hs rfl rfl rfl
  clear_value x3
  split
  · extract_lets x14
    have h15 : Keeps s0 x14 := by
      unfold x14
      exact State_landLine_keeps h5
    clear_value x14
    apply State_freeTicket_keeps
    refine Keeps.modTile ?_ (fun w22 x20 h21 => ?_)
    · exact h15
    · dsimp only
      exact h21
  · split
    · exact State_issueMem_keeps h5
    · split
      · exact State_landLine_keeps h5
      · exact State_raise_keeps h5
  · exact State_setTel_keeps h5
  · split
    · split
      · exact State_complete_keeps h5
      · assumption
    · exact h5

theorem State_notifArrived_keeps {s0 : State} {s : State} {x : Notif} (hs : Keeps s0 s) : Keeps s0 (State.notifArrived s x) := by
  unfold State.notifArrived
  split
  · exact Keeps.mk' hs rfl rfl rfl
  · exact hs

theorem State_applyNotif_keeps {s0 : State} {s : State} {n : Nat} (hs : Keeps s0 s) : Keeps s0 (State.applyNotif s n) := by
  unfold State.applyNotif
  split
  · exact State_afterOrder7_keeps (State_flushRemote_keeps (State_notify_keeps (State_notifArrived_keeps hs)))
  · exact hs

theorem execWatchNotification_keeps {s0 : State} {notif : Nat} {s : State} (hs : Keeps s0 s) :
    OutKeeps s0 (execWatchNotification notif s) := by
  unfold execWatchNotification
  refine OutKeeps.whenever ?_ (fun h2 => ?_)
  · exact hs
  · exact State_applyNotif_keeps hs

theorem State_timerExpires_keeps {s0 : State} {s : State} {t : Nat} {i : Nat} (hs : Keeps s0 s) : Keeps s0 (State.timerExpires s t i) := by
  unfold State.timerExpires
  extract_lets x2
  have h3 : Keeps s0 x2 := by
    unfold x2
    refine Keeps.modTile ?_ (fun w7 x5 h6 => ?_)
    · exact hs
    · dsimp only
      exact h6
  clear_value x2
  split
  · exact State_sendSyu_keeps h3
  · exact h3

theorem execWatchTimeout_keeps {s0 : State} {tile : Nat} {item : Nat} {s : State} (hs : Keeps s0 s) :
    OutKeeps s0 (execWatchTimeout tile item s) := by
  unfold execWatchTimeout
  refine OutKeeps.whenever ?_ (fun h2 => ?_)
  · exact hs
  · exact State_timerExpires_keeps hs

theorem State_mgmtExpires_keeps {s0 : State} {s : State} {n : Nat} (hs : Keeps s0 s) : Keeps s0 (State.mgmtExpires s n) := by
  unfold State.mgmtExpires
  split
  · exact hs
  · extract_lets x9 x10
    exact Keeps.mk' hs rfl rfl rfl

theorem execManagementWatchTimeout_keeps {s0 : State} {slot : Nat} {s : State} (hs : Keeps s0 s) :
    OutKeeps s0 (execManagementWatchTimeout slot s) := by
  unfold execManagementWatchTimeout
  refine OutKeeps.whenever ?_ (fun h2 => ?_)
  · exact hs
  · exact State_mgmtExpires_keeps hs

theorem State_deadlock_keeps {s0 : State} {s : State} {n : Nat} (hs : Keeps s0 s) : Keeps s0 (State.deadlock s n) := by
  unfold State.deadlock
  split
  · exact hs
  · extract_lets x9
    split
    · exact State_raise_keeps hs
    · split
      · exact State_raise_keeps hs
      · exact State_watchFault_keeps (State_counterFix_keeps (State_slotFix_keeps hs))

theorem execDeadlockWatchdog_keeps {s0 : State} {slot : Nat} {s : State} (hs : Keeps s0 s) : OutKeeps s0 (execDeadlockWatchdog slot s) := by
  unfold execDeadlockWatchdog
  refine OutKeeps.whenever ?_ (fun h2 => ?_)
  · exact hs
  · exact State_deadlock_keeps hs

theorem State_submitWatch_keeps {s0 : State} {s : State} {b : Nat} {v : Nat} (hs : Keeps s0 s) : Keeps s0 (State.submitWatch s b v) := by
  unfold State.submitWatch
  extract_lets x2 x3 x4
  have h5 : Keeps s0 x4 := by
    unfold x4
    exact Keeps.mk' hs rfl rfl rfl
  clear_value x4
  exact State_sendSyu_keeps h5

theorem execManagementWatchRegistration_keeps {s0 : State} {bank : Nat} {value : Nat} {s : State} (hs : Keeps s0 s) :
    OutKeeps s0 (execManagementWatchRegistration bank value s) := by
  unfold execManagementWatchRegistration
  refine OutKeeps.whenever ?_ (fun h2 => ?_)
  · exact hs
  · exact State_submitWatch_keeps (State_access_keeps hs)

end Sys2Proof.Machine
end

