-- ==== Sys2Proof/Laws/KeepsTel.lean ====
section
/-! SUPPORT. The operations of Machine/Tel.lean keep what Keeps says. -/

namespace Sys2Proof.Machine

theorem State_dropTel_keeps {s0 : State} {s : State} {i : Nat} (hs : Keeps s0 s) : Keeps s0 (State.dropTel s i) := by
  unfold State.dropTel
  exact Keeps.mk' hs rfl rfl rfl

theorem State_receiveCounts_keeps {s0 : State} {s : State} {i : Nat} (hs : Keeps s0 s) : Keeps s0 (State.receiveCounts s i) := by
  unfold State.receiveCounts
  split
  · split
    · exact State_flushRemote_keeps (State_setTel_keeps (State_dropTel_keeps hs))
    · exact hs
  · exact hs

theorem execPatinaCountsReceive_keeps {s0 : State} {item : Nat} {s : State} (hs : Keeps s0 s) :
    OutKeeps s0 (execPatinaCountsReceive item s) := by
  unfold execPatinaCountsReceive
  refine OutKeeps.whenever ?_ (fun h2 => ?_)
  · exact hs
  · exact State_receiveCounts_keeps hs

theorem State_receiveReport_keeps {s0 : State} {s : State} {i : Nat} (hs : Keeps s0 s) : Keeps s0 (State.receiveReport s i) := by
  unfold State.receiveReport
  split
  · split
    · extract_lets x14 x15
      exact State_flushRemote_keeps (State_setTel_keeps (State_dropTel_keeps hs))
    · exact hs
  · exact hs

theorem execCalipersReport_keeps {s0 : State} {item : Nat} {s : State} (hs : Keeps s0 s) : OutKeeps s0 (execCalipersReport item s) := by
  unfold execCalipersReport
  refine OutKeeps.whenever ?_ (fun h2 => ?_)
  · exact hs
  · exact State_receiveReport_keeps hs

theorem State_telWatch_keeps {s0 : State} {s : State} {c : Nat} (hs : Keeps s0 s) : Keeps s0 (State.telWatch s c) := by
  unfold State.telWatch
  extract_lets x2 x3
  exact State_sendSyu_keeps (State_setTel_keeps hs)

theorem State_telWrite_keeps {s0 : State} {s : State} {c : Nat} {a : Nat} {v : Nat} (hs : Keeps s0 s) :
    Keeps s0 (State.telWrite s c a v) := by
  unfold State.telWrite
  exact State_issueMem_keeps hs

theorem State_deliverDecision_keeps {s0 : State} {s : State} {c : Nat} {n : Nat} {commit : Bool} (hs : Keeps s0 s) :
    Keeps s0 (State.deliverDecision s c n commit) := by
  unfold State.deliverDecision
  refine Keeps.foldl (fun x2 x3 h4 => ?_) ?_
  · split
    · apply State_logInput_keeps
      refine Keeps.modTile ?_ (fun w11 x9 h10 => ?_)
      · exact h4
      · exact Tile_decided_keeps h10
    · exact h4
  · exact hs

theorem State_telAppend_keeps {s0 : State} {s : State} {c : Nat} {step : Nat} {rs : List TelRec} (hs : Keeps s0 s) :
    Keeps s0 (State.telAppend s c step rs) := by
  unfold State.telAppend
  extract_lets x2 x3
  exact State_setTel_keeps (State_issueWrites_keeps hs)

theorem State_telDrop_keeps {s0 : State} {s : State} {c : Nat} {n : Nat} (hs : Keeps s0 s) : Keeps s0 (State.telDrop s c n) := by
  unfold State.telDrop
  exact State_raise_keeps (State_setTel_keeps hs)

theorem State_telRecords_keeps {s0 : State} {s : State} {c : Nat} {t : Tel} {u : Tel} {decision : Nat} {votes : Nat} (hs : Keeps s0 s) :
    Keeps s0 (State.telRecords s c t u decision votes) := by
  unfold State.telRecords
  extract_lets x2 x3 x4
  split
  · exact hs
  · split
    · exact State_telAppend_keeps hs
    · split
      · exact State_telDrop_keeps (State_telAppend_keeps hs)
      · exact State_telDrop_keeps hs

theorem State_endAfterDecide_keeps {s0 : State} {s : State} {c : Nat} {r : FaultRec} (hs : Keeps s0 s) :
    Keeps s0 (State.endAfterDecide s c r) := by
  unfold State.endAfterDecide
  exact State_modCtx_keeps hs

theorem State_decideStep_keeps {s0 : State} {s : State} {c : Nat} {v : Nat} (hs : Keeps s0 s) : Keeps s0 (State.decideStep s c v) := by
  unfold State.decideStep
  extract_lets x2 x3 x4 x5 x6 x7 x8 x9 x10 x11 x12 x13
  have h9 : Keeps s0 x9 := by
    unfold x9
    exact Keeps.ite (fun _ => State_writeRec_keeps hs) fun _ => hs
  clear_value x9
  have h13 : Keeps s0 x13 := State_sendSyu_keeps (State_deliverDecision_keeps (State_telWrite_keeps (State_setTel_keeps h9)))
  clear_value x13
  split
  · exact State_endAfterDecide_keeps h13
  · exact State_telWatch_keeps (State_telRecords_keeps h13)

theorem State_gateDecision_keeps {s0 : State} {s : State} {c : Nat} (hs : Keeps s0 s) : Keeps s0 (State.gateDecision s c) := by
  unfold State.gateDecision
  extract_lets x2
  split
  · exact State_raise_keeps hs
  · exact State_decideStep_keeps (State_counterFix_keeps hs)

theorem execGateDecision_keeps {s0 : State} {ctx : Nat} {s : State} (hs : Keeps s0 s) : OutKeeps s0 (execGateDecision ctx s) := by
  unfold execGateDecision
  refine OutKeeps.whenever ?_ (fun h2 => ?_)
  · exact hs
  · exact State_gateDecision_keeps hs

theorem State_moveTail_keeps {s0 : State} {s : State} {c : Nat} {v : Nat} (hs : Keeps s0 s) : Keeps s0 (State.moveTail s c v) := by
  unfold State.moveTail
  exact State_setTel_keeps hs

theorem execTelRingTailWrite_keeps {s0 : State} {master : Nat} {ctx : Nat} {value : Nat} {s : State} (hs : Keeps s0 s) :
    OutKeeps s0 (execTelRingTailWrite master ctx value s) := by
  unfold execTelRingTailWrite
  refine OutKeeps.whenever ?_ (fun h2 => ?_)
  · exact hs
  · exact State_moveTail_keeps (State_access_keeps hs)

end Sys2Proof.Machine
end

