-- ==== Sys2Proof/Laws/KeepsLoader.lean ====
section
/-! SUPPORT. The operations of Machine/Loader.lean keep what Keeps says. -/

namespace Sys2Proof.Machine

theorem State_decideJob_keeps {s0 : State} {s : State} {c : Nat} (hs : Keeps s0 s) : Keeps s0 (State.decideJob s c) := by
  unfold State.decideJob
  split
  · extract_lets x4
    have h5 : Keeps s0 x4 := by
      unfold x4
      exact State_useReserves_keeps hs
    clear_value x4
    split
    · exact State_refuseJob_keeps h5
    · exact State_loadImage_keeps (State_admitJob_keeps h5)
  · exact hs

theorem State_admission_keeps {s0 : State} {s : State} {c : Nat} (hs : Keeps s0 s) : Keeps s0 (State.admission s c) := by
  unfold State.admission
  split
  · exact State_refuseJob_keeps hs
  · apply State_decideJob_keeps
    split
    · exact State_sendReserves_keeps hs
    · exact hs

theorem execAdmission_keeps {s0 : State} {ctx : Nat} {s : State} (hs : Keeps s0 s) : OutKeeps s0 (execAdmission ctx s) := by
  unfold execAdmission
  refine OutKeeps.whenever ?_ (fun h2 => ?_)
  · exact hs
  · exact State_admission_keeps hs

theorem execReserveTimeout_keeps {s0 : State} {port : Nat} {ctx : Nat} {s : State} (hs : Keeps s0 s) :
    OutKeeps s0 (execReserveTimeout port ctx s) := by
  unfold execReserveTimeout
  refine OutKeeps.whenever ?_ (fun h2 => ?_)
  · exact hs
  · exact State_refuseJob_keeps hs

theorem Tile_start_keeps {t : Tile} {gateOn : Bool} (ht : Memory.wf t.mem = true) : Memory.wf (Tile.start t gateOn).mem = true := by
  unfold Tile.start
  dsimp only
  exact ht

theorem State_readMapped_keeps {s0 : State} {s : State} {c : Nat} {a : Nat} {n : Nat} (hs : Keeps s0 s) :
    Keeps s0 (State.readMapped s c a n).1 := by
  unfold State.readMapped
  exact State_takeLines_keeps hs

theorem State_startTel_keeps {s0 : State} {s : State} {c : Nat} (hs : Keeps s0 s) : Keeps s0 (State.startTel s c) := by
  unfold State.startTel
  extract_lets x2 x3
  split
  · exact hs
  · split
    rename_i y9 y10 y11 y12
    extract_lets x14 x15
    have h16 : Keeps s0 x15 := by
      unfold x15
      exact State_setTel_keeps (Keeps.of_fst (State_readMapped_keeps hs) y12)
    clear_value x15
    exact State_telWatch_keeps (State_telWrite_keeps h16)

theorem State_run_keeps {s0 : State} {s : State} {c : Nat} (hs : Keeps s0 s) : Keeps s0 (State.run s c) := by
  unfold State.run
  extract_lets x2 x3 x4 x5 x6 x7 x8 x9
  have h10 : Keeps s0 x4 := by
    unfold x4
    refine Keeps.foldl (fun x12 x13 h14 => ?_) ?_
    · refine Keeps.modTile ?_ (fun w18 x16 h17 => ?_)
      · exact h14
      · exact Tile_start_keeps h17
    · exact hs
  clear_value x4
  have h23 : Keeps s0 x5 := by
    unfold x5
    refine Keeps.foldl (fun x25 x26 h27 => ?_) ?_
    · exact State_modQueue_keeps h27
    · exact h10
  clear_value x5
  have h31 : Keeps s0 x6 := by
    unfold x6
    refine Keeps.foldl (fun x33 x34 h35 => ?_) ?_
    · exact State_setTset_keeps h35
    · exact h23
  clear_value x6
  have h39 : Keeps s0 x7 := by
    unfold x7
    exact State_setCtx_keeps h31
  clear_value x7
  have h42 : Keeps s0 x9 := by
    unfold x9
    exact State_setCp_keeps h39
  clear_value x9
  apply State_stateEvent_keeps
  refine Keeps.foldl (fun x47 x48 h49 => ?_) ?_
  · exact State_releaseGroup_keeps h49
  · exact State_startTel_keeps h42

theorem State_admitOk_keeps {s0 : State} {s : State} {c : Nat} (hs : Keeps s0 s) : Keeps s0 (State.admitOk s c) := by
  unfold State.admitOk
  split
  · exact State_complete_keeps (State_modCtx_keeps hs)
  · exact hs

theorem State_loadingComplete_keeps {s0 : State} {s : State} {c : Nat} (hs : Keeps s0 s) : Keeps s0 (State.loadingComplete s c) := by
  unfold State.loadingComplete
  split
  · exact State_raise_keeps hs
  · exact State_admitOk_keeps (State_run_keeps hs)

theorem execLoadingComplete_keeps {s0 : State} {ctx : Nat} {s : State} (hs : Keeps s0 s) : OutKeeps s0 (execLoadingComplete ctx s) := by
  unfold execLoadingComplete
  refine OutKeeps.whenever ?_ (fun h2 => ?_)
  · exact hs
  · exact State_loadingComplete_keeps hs

theorem Tile_cleared_keeps {t : Tile} (ht : Memory.wf t.mem = true) : Memory.wf (Tile.cleared t).mem = true := by
  unfold Tile.cleared
  dsimp only
  rfl

theorem State_clearSets_keeps {s0 : State} {s : State} {sets : List Nat} (hs : Keeps s0 s) : Keeps s0 (State.clearSets s sets) := by
  unfold State.clearSets
  refine Keeps.mkAll ?_ (fun w2 => ?_) (fun w2 => ?_) (fun w2 => ?_) ?_
  · exact hs
  · exact hs.hbm_wf w2
  · refine tilesWf_mvals (fun _ _ h6 => ?_) ?_
    · split
      · exact Tile_cleared_keeps h6
      · exact h6
    · exact hs.tiles_wf w2
  · exact hs.images_wf w2
  · exact hs.fuses

theorem State_releaseClaims_keeps {s0 : State} {s : State} {c : Nat} (hs : Keeps s0 s) : Keeps s0 (State.releaseClaims s c) := by
  unfold State.releaseClaims
  exact Keeps.mk' hs rfl rfl rfl

theorem State_releasePool_keeps {s0 : State} {s : State} (hs : Keeps s0 s) : Keeps s0 (State.releasePool s) := by
  unfold State.releasePool
  extract_lets x6
  split
  · exact hs
  · exact Keeps.mk' (State_clearSets_keeps hs) rfl rfl rfl

theorem State_freeQueue_keeps {s0 : State} {s : State} {n : Nat} (hs : Keeps s0 s) : Keeps s0 (State.freeQueue s n) := by
  unfold State.freeQueue
  exact Keeps.mk' (State_setQueue_keeps hs) rfl rfl rfl

theorem State_endTeardown_keeps {s0 : State} {s : State} {c : Nat} (hs : Keeps s0 s) : Keeps s0 (State.endTeardown s c) := by
  unfold State.endTeardown
  extract_lets x2 x3 x4 x5 x6 x7
  have h8 : Keeps s0 x3 := by
    unfold x3
    exact State_clearSets_keeps hs
  clear_value x3
  have h11 : Keeps s0 x4 := by
    unfold x4
    refine Keeps.foldl (fun x13 x14 h15 => ?_) ?_
    · exact State_setGroup_keeps h15
    · exact Keeps.mk' h8 rfl rfl rfl
  clear_value x4
  have h20 : Keeps s0 x5 := by
    unfold x5
    refine Keeps.foldl (fun x22 x23 h24 => ?_) ?_
    · exact State_freeQueue_keeps h24
    · exact h11
  clear_value x5
  have h28 : Keeps s0 x6 := by
    unfold x6
    exact State_setTel_keeps (State_setCp_keeps (State_releaseClaims_keeps h20))
  clear_value x6
  have h33 : Keeps s0 x7 := by
    unfold x7
    exact State_refreshEstimates_keeps (State_refreshTdoms_keeps (State_releasePool_keeps (State_setCtx_keeps h28)))
  clear_value x7
  refine Keeps.foldl (fun x40 x41 h42 => ?_) ?_
  · split
    · exact State_complete_keeps h42
    · exact h42
  · exact State_stateEvent_keeps h33

theorem execTeardownComplete_keeps {s0 : State} {ctx : Nat} {s : State} (hs : Keeps s0 s) : OutKeeps s0 (execTeardownComplete ctx s) := by
  unfold execTeardownComplete
  refine OutKeeps.whenever ?_ (fun h2 => ?_)
  · exact hs
  · exact State_endTeardown_keeps hs

end Sys2Proof.Machine
end

