-- ==== Sys2Proof/Laws/KeepsPower.lean ====
section
/-! SUPPORT. The operations of Machine/Power.lean keep what Keeps says. -/

namespace Sys2Proof.Machine

theorem State_closeInterval_keeps {s0 : State} {s : State} {u : Sys2Proof.LedgerIn} (hs : Keeps s0 s) :
    Keeps s0 (State.closeInterval s u) := by
  unfold State.closeInterval
  extract_lets x2 x3 x4 x5 x6 x7
  have h8 : Keeps s0 x5 := by
    unfold x5
    refine Keeps.foldl (fun x10 x11 h12 => ?_) ?_
    · exact State_setDom_keeps h12
    · exact hs
  clear_value x5
  have h16 : Keeps s0 x6 := by
    unfold x6
    refine Keeps.foldl (fun x18 x19 h20 => ?_) ?_
    · exact State_setCp_keeps h20
    · exact h8
  clear_value x6
  exact Keeps.mk' h16 rfl rfl rfl

theorem execLedgerInterval_keeps {s0 : State} {use : Sys2Proof.LedgerIn} {s : State} (hs : Keeps s0 s) :
    OutKeeps s0 (execLedgerInterval use s) := by
  unfold execLedgerInterval
  exact OutKeeps.guardWf (OutKeeps.next.2 (State_closeInterval_keeps hs))

theorem State_closeWindow_keeps {s0 : State} {s : State} {c : Nat} (hs : Keeps s0 s) : Keeps s0 (State.closeWindow s c) := by
  unfold State.closeWindow
  extract_lets x2 x3
  have h4 : Keeps s0 x3 := by
    unfold x3
    exact State_refreshTdoms_keeps (State_setCp_keeps hs)
  clear_value x3
  exact State_raiseAll_keeps h4

theorem execEnergyWindowClose_keeps {s0 : State} {ctx : Nat} {s : State} (hs : Keeps s0 s) : OutKeeps s0 (execEnergyWindowClose ctx s) := by
  unfold execEnergyWindowClose
  refine OutKeeps.whenever ?_ (fun h2 => ?_)
  · exact hs
  · exact State_closeWindow_keeps hs

theorem State_portsDark_keeps {s0 : State} {s : State} (hs : Keeps s0 s) : Keeps s0 (State.portsDark s) := by
  unfold State.portsDark
  exact Keeps.mk' hs rfl rfl rfl

theorem State_losePower_keeps {s0 : State} {s : State} {lo : Nat} (hs : Keeps s0 s) : Keeps s0 (State.losePower s lo) := by
  unfold State.losePower
  extract_lets x2 x3 x4 x5 x6
  have h7 : Keeps s0 x2 := by
    unfold x2
    refine Keeps.foldl (fun x9 x10 h11 => ?_) ?_
    · split
      · exact State_domTo_keeps h11
      · exact h11
    · exact hs
  clear_value x2
  have h19 : Keeps s0 x3 := by
    unfold x3
    exact State_loseDomain_keeps (State_loseDomain_keeps h7)
  clear_value x3
  have h23 : Keeps s0 x4 := by
    unfold x4
    refine Keeps.foldl (fun x25 x26 h27 => ?_) ?_
    · exact State_setTdom_keeps h27
    · exact h19
  clear_value x4
  exact Keeps.mk' (State_portsDark_keeps h23) rfl rfl rfl

theorem State_putTdom_keeps {s0 : State} {s : State} {k : Nat} {t : TDom} (hs : Keeps s0 s) : Keeps s0 (State.putTdom s k t) :=
  State_refreshTdom_keeps (State_setTdom_keeps hs)

theorem State_pollDomain_keeps {s0 : State} {u : Sys2Proof.TempsIn} {s : State} {k : Nat} (hs : Keeps s0 s) :
    Keeps s0 (State.pollDomain u s k) := by
  unfold State.pollDomain
  exact Keeps.ite (fun _ => State_raise_keeps (State_putTdom_keeps hs)) fun _ => State_putTdom_keeps hs

theorem State_pollStack_keeps {s0 : State} {s : State} {x : Nat × Nat} (hs : Keeps s0 s) : Keeps s0 (State.pollStack s x) := by
  unfold State.pollStack
  extract_lets x2 x3 x4
  have h5 : Keeps s0 x4 := by
    unfold x4
    exact Keeps.mk' hs rfl rfl rfl
  clear_value x4
  split
  · exact State_raise_keeps h5
  · exact h5

theorem State_readSensors_keeps {s0 : State} {s : State} {u : Sys2Proof.TempsIn} {die : Nat × Nat} {hbm : Nat × Nat} (hs : Keeps s0 s) :
    Keeps s0 (State.readSensors s u die hbm) := by
  unfold State.readSensors
  exact Keeps.mk' hs rfl rfl rfl

theorem State_thermalTrip_keeps {s0 : State} {s : State} {x : Nat × Nat} {stack : Bool} (hs : Keeps s0 s) :
    Keeps s0 (State.thermalTrip s x stack) := by
  unfold State.thermalTrip
  extract_lets x6 x7
  have h8 : Keeps s0 x6 := by
    unfold x6
    exact State_losePower_keeps (State_raise_keeps hs)
  clear_value x6
  exact State_out_keeps (Keeps.mk' h8 rfl rfl rfl)

theorem State_poll_keeps {s0 : State} {s : State} {u : Sys2Proof.TempsIn} (hs : Keeps s0 s) : Keeps s0 (State.poll s u) := by
  unfold State.poll
  extract_lets x2 x3 x4
  have h5 : Keeps s0 x4 := State_readSensors_keeps hs
  clear_value x2 x3 x4
  refine Keeps.ite (fun _ => h5) fun _ => Keeps.ite (fun _ => State_thermalTrip_keeps h5) fun _ =>
    Keeps.ite (fun _ => State_thermalTrip_keeps h5) fun _ => Keeps.ite (fun _ => h5) fun _ => ?_
  exact Keeps.foldl (fun _ _ h => State_pollStack_keeps h) (Keeps.foldl (fun _ _ h => State_pollDomain_keeps h) h5)

theorem execSensorPoll_keeps {s0 : State} {temps : Sys2Proof.TempsIn} {s : State} (hs : Keeps s0 s) :
    OutKeeps s0 (execSensorPoll temps s) := by
  unfold execSensorPoll
  refine OutKeeps.guardWf ?_
  exact State_poll_keeps hs

theorem State_cap_keeps {s0 : State} {s : State} {mw : Nat} (hs : Keeps s0 s) : Keeps s0 (State.cap s mw) := by
  unfold State.cap
  have h : ∀ on k, Keeps s0 ((List.range 12).foldl (fun s k => s.putTdom k ((s.tdom k).capped s.forceIvl on))
      ({ s with pwr := { s.pwr with pinW := k, capEpisode := on } } : State)) := fun _ _ =>
    Keeps.foldl (fun _ _ h => State_putTdom_keeps h) (Keeps.mk' hs rfl rfl rfl)
  exact Keeps.ite (fun _ => Keeps.mk' hs rfl rfl rfl) fun _ => Keeps.ite (fun _ => State_raise_keeps (h _ _)) fun _ => h _ _

theorem execPowerCap_keeps {s0 : State} {milliwatts : Nat} {s : State} (hs : Keeps s0 s) : OutKeeps s0 (execPowerCap milliwatts s) := by
  unfold execPowerCap
  refine OutKeeps.guardWf ?_
  exact State_cap_keeps hs

theorem execRailFault_keeps {s0 : State} {domain : Nat} {high : Bool} {s : State} (hs : Keeps s0 s) :
    OutKeeps s0 (execRailFault domain high s) := by
  unfold execRailFault
  exact OutKeeps.guardWf (OutKeeps.next.2 (State_losePower_keeps (State_raise_keeps hs)))

theorem State_domOff_keeps {s0 : State} {s : State} {d : Nat} (hs : Keeps s0 s) : Keeps s0 (State.domOff s d) := by
  unfold State.domOff
  extract_lets x2 x3 x4
  have h5 : Keeps s0 x2 := by
    unfold x2
    exact State_domTo_keeps hs
  clear_value x2
  split
  · exact Keeps.mk' h5 rfl rfl rfl
  · split
    · exact State_setTdom_keeps h5
    · exact h5

theorem State_powerDown_keeps {s0 : State} {s : State} {d : Nat} (hs : Keeps s0 s) : Keeps s0 (State.powerDown s d) := by
  unfold State.powerDown
  split
  · exact State_domainDown_keeps hs
  · split
    · exact hs
    · split
      · exact State_refusePower_keeps hs
      · split
        · exact hs
        · exact State_domOff_keeps hs

theorem execDomainPowerDown_keeps {s0 : State} {domain : Nat} {s : State} (hs : Keeps s0 s) :
    OutKeeps s0 (execDomainPowerDown domain s) := by
  unfold execDomainPowerDown
  exact OutKeeps.guardWf (OutKeeps.next.2 (State_powerDown_keeps hs))

end Sys2Proof.Machine
end

