-- ==== Sys2Proof/Laws/KeepsBoot.lean ====
section
/-! SUPPORT. The operations of Machine/Boot.lean keep what Keeps says. -/

namespace Sys2Proof.Machine

theorem State_bare_keeps {s0 : State} {s : State} (hs : Keeps s0 s) : Keeps s0 (State.bare s) := by
  exact ⟨hs.pending, hs.fuses, fun _ => rfl⟩

theorem State_warmBare_keeps {s0 : State} {s : State} (hs : Keeps s0 s) : Keeps s0 (State.warmBare s) := by
  unfold State.warmBare
  extract_lets x2 x3 x4
  have h5 : Keeps s0 x2 := by
    unfold x2
    exact State_bare_keeps hs
  clear_value x2
  exact Keeps.mk' h5 rfl rfl rfl

theorem State_powerOff_keeps {s0 : State} {s : State} (hs : Keeps s0 s) : Keeps s0 (State.powerOff s) := by
  unfold State.powerOff
  extract_lets x2 x3
  have h4 : Keeps s0 x2 := by
    unfold x2
    exact State_bare_keeps hs
  clear_value x2
  exact Keeps.mk' h4 rfl rfl rfl

theorem State_noteReset_keeps {s0 : State} {s : State} {cause : Nat} {path : Nat} {declined : Nat} {old : Pln} (hs : Keeps s0 s) :
    Keeps s0 (State.noteReset s cause path declined old) := by
  unfold State.noteReset
  extract_lets x2 x3
  have h4 : Keeps s0 x2 := by
    unfold x2
    exact State_auditGeneral_keeps hs
  clear_value x2
  exact Keeps.mk' h4 rfl rfl rfl

theorem State_auditChangeEnt_keeps {s0 : State} {s : State} {e : AuditEnt} (hs : Keeps s0 s) : Keeps s0 (State.auditChangeEnt s e) := by
  unfold State.auditChangeEnt
  exact Keeps.mk' hs rfl rfl rfl

theorem State_markChange_keeps {s0 : State} {s : State} {i : Nat} {done : Bool} (hs : Keeps s0 s) :
    Keeps s0 (State.markChange s i done) := by
  unfold State.markChange
  extract_lets x2 x3
  exact Keeps.mk' hs rfl rfl rfl

theorem State_bootMark_keeps {s0 : State} {s : State} {site : Nat} (hs : Keeps s0 s) : Keeps s0 (State.bootMark s site) := by
  unfold State.bootMark
  split
  · exact hs
  · extract_lets x6 x7
    exact Keeps.mk' hs rfl rfl rfl

theorem State_newGeneration_keeps {s0 : State} {s : State} {record : List (Nat × Bool)} {moved : List (Nat × Nat × Nat)} (hs : Keeps s0 s) :
    Keeps s0 (State.newGeneration s record moved) := by
  unfold State.newGeneration
  extract_lets x2 x3
  have h : Keeps s0 x3 := Keeps.foldl (fun _ _ h => State_bootMark_keeps h) hs
  clear_value x3
  refine h.update rfl ?_ id id id
  exact { FusesLe.refl x3.pln.fuses with gens := List.prefix_append _ _ }

theorem State_takeEffect_keeps {s0 : State} {s : State} {x : Limited} (hs : Keeps s0 s) : Keeps s0 (State.takeEffect s x) := by
  unfold State.takeEffect
  dsimp only
  split
  · exact State_newGeneration_keeps hs
  · refine hs.update rfl ?_ id id id
    exact { FusesLe.refl s.pln.fuses with reductions := Nat.le_succ _ }
  · refine hs.update rfl ?_ id id id
    exact { FusesLe.refl s.pln.fuses with cbtGens := Nat.le_succ _ }
  · refine hs.update rfl ?_ id id id
    exact { FusesLe.refl s.pln.fuses with floorSteps := Nat.le_succ _ }

theorem State_intent_keeps {s0 : State} {s : State} {m : Nat} {x : Limited} (hs : Keeps s0 s) : Keeps s0 (State.intent s m x) := by
  unfold State.intent
  extract_lets x2
  exact State_auditChangeEnt_keeps hs

theorem State_limited_keeps {s0 : State} {s : State} {m : Nat} {x : Limited} {cut : Nat} (hs : Keeps s0 s) :
    Keeps s0 (State.limited s m x cut) := by
  unfold State.limited
  extract_lets x2 x3 x4
  have h5 : Keeps s0 x3 := by
    unfold x3
    exact State_intent_keeps hs
  clear_value x3
  split
  · exact State_markChange_keeps (State_takeEffect_keeps h5)
  · apply State_powerOff_keeps
    exact Keeps.mk' h5 rfl rfl rfl

theorem State_recoverChange_keeps {s0 : State} {s : State} (hs : Keeps s0 s) : Keeps s0 (State.recoverChange s) := by
  unfold State.recoverChange
  split
  · exact hs
  · extract_lets x7 x8 x9
    have h10 : Keeps s0 x8 := by
      unfold x8
      exact Keeps.mk' hs rfl rfl rfl
    clear_value x8
    have h11 : Keeps s0 x9 := by
      unfold x9
      split
      · exact State_takeEffect_keeps h10
      · exact h10
    clear_value x9
    exact State_raise_keeps (State_markChange_keeps h11)

theorem State_rejectSlot_keeps {s0 : State} {s : State} {i : Nat} {r : Option Nat} (hs : Keeps s0 s) :
    Keeps s0 (State.rejectSlot s i r) := by
  unfold State.rejectSlot
  split
  · exact State_raise_keeps hs
  · exact hs

theorem State_noImage_keeps {s0 : State} {s : State} (hs : Keeps s0 s) : Keeps s0 (State.noImage s) := by
  unfold State.noImage
  extract_lets x7
  have h13 : Keeps s0 x7 := by
    unfold x7
    refine Keeps.foldl (fun x15 x16 h17 => ?_) hs
    split
    · exact h17
    · exact State_domTo_keeps h17
  clear_value x7
  exact Keeps.mk' h13 rfl rfl rfl

theorem State_pickImage_keeps {s0 : State} {s : State} {a b : Option Nat} (hs : Keeps s0 s) : Keeps s0 (State.pickImage s a b) := by
  unfold State.pickImage
  extract_lets p u
  have h9 : Keeps s0 u := State_rejectSlot_keeps (State_rejectSlot_keeps hs)
  clear_value u
  split
  · exact Keeps.mk' h9 rfl rfl rfl
  · split
    · exact Keeps.mk' h9 rfl rfl rfl
    · exact State_noImage_keeps h9

theorem State_selectImage_keeps {s0 : State} {s : State} (hs : Keeps s0 s) : Keeps s0 (State.selectImage s) := State_pickImage_keeps hs

theorem State_bindChannels_keeps {s0 : State} {s : State} {t : SMap Nat} (hs : Keeps s0 s) : Keeps s0 (State.bindChannels s t) := by
  unfold State.bindChannels
  exact Keeps.mk' hs rfl rfl rfl

theorem State_provision_keeps {s0 : State} {s : State} {b : BootIn} (hs : Keeps s0 s) : Keeps s0 (State.provision s b) := by
  unfold State.provision
  extract_lets x2
  split
  · exact State_bindChannels_keeps hs
  · split
    · apply State_raise_keeps
      exact Keeps.mk' hs rfl rfl rfl
    · split
      · exact State_bindChannels_keeps (State_limited_keeps hs)
      · exact State_limited_keeps hs

theorem State_bootFail_keeps {s0 : State} {s : State} {r : FaultRec} (hs : Keeps s0 s) : Keeps s0 (State.bootFail s r) := by
  unfold State.bootFail
  extract_lets x2 x3
  have h4 : Keeps s0 x2 := by
    unfold x2
    exact State_raise_keeps hs
  clear_value x2
  exact Keeps.mk' h4 rfl rfl rfl

theorem State_domsOn_keeps {s0 : State} {s : State} {ds : List Nat} (hs : Keeps s0 s) : Keeps s0 (State.domsOn s ds) := by
  unfold State.domsOn
  refine Keeps.foldl (fun x2 x3 h4 => ?_) ?_
  · exact State_domTo_keeps h4
  · exact hs

theorem State_bootPll_keeps {s0 : State} {b : BootIn} {s : State} (hs : Keeps s0 s) : Keeps s0 (State.bootPll b s) := by
  unfold State.bootPll
  extract_lets x2
  have h3 : Keeps s0 x2 := by
    unfold x2
    exact State_provision_keeps hs
  clear_value x2
  split
  · exact State_bootFail_keeps h3
  · exact h3

theorem State_bootPcie_keeps {s0 : State} {s : State} (hs : Keeps s0 s) : Keeps s0 (State.bootPcie s) := by
  unfold State.bootPcie
  extract_lets x2 x3
  have h4 : Keeps s0 x2 := by
    unfold x2
    exact State_domsOn_keeps hs
  clear_value x2
  exact Keeps.mk' h4 rfl rfl rfl

theorem State_spineProof_keeps {s0 : State} {s : State} {b : BootIn} {here : Nat → Bool} (hs : Keeps s0 s) :
    Keeps s0 (State.spineProof s b here) := by
  unfold State.spineProof
  split
  · split
    · exact State_bootFail_keeps hs
    · exact hs
  · exact hs

theorem State_bootSpine_keeps {s0 : State} {b : Sys2Proof.BootIn} {s : State} (hs : Keeps s0 s) : Keeps s0 (State.bootSpine b s) := by
  unfold State.bootSpine
  exact State_spineProof_keeps (State_domsOn_keeps hs)

theorem State_bootLinks_keeps {s0 : State} {b : BootIn} {s : State} (hs : Keeps s0 s) : Keeps s0 (State.bootLinks b s) := by
  unfold State.bootLinks
  apply State_spineProof_keeps
  refine Keeps.foldl (fun x2 a4 h3 => ?_) ?_
  · exact State_train_keeps h3
  · exact State_domsOn_keeps hs

theorem State_retireAgain_keeps {s0 : State} {s : State} {b : BootIn} (hs : Keeps s0 s) : Keeps s0 (State.retireAgain s b) := by
  unfold State.retireAgain
  extract_lets x2 x3 x4
  have h5 : Keeps s0 x4 := by
    unfold x4
    exact Keeps.mk' hs rfl rfl rfl
  clear_value x4
  refine Keeps.foldl (fun x6 a8 h7 => ?_) ?_
  · exact State_raise_keeps h7
  · exact h5

theorem State_mapSystem_keeps {s0 : State} {s : State} (hs : Keeps s0 s) : Keeps s0 (State.mapSystem s) := by
  unfold State.mapSystem
  extract_lets x2 x3
  have h4 : Keeps s0 x3 := by
    unfold x3
    exact Keeps.mk' hs rfl rfl rfl
  clear_value x3
  exact State_modCtx_keeps h4

theorem State_bootHbm_keeps {s0 : State} {b : BootIn} {s : State} (hs : Keeps s0 s) : Keeps s0 (State.bootHbm b s) := by
  unfold State.bootHbm
  extract_lets x2 x3 x4 x5 x6
  have h7 : Keeps s0 x2 := by
    unfold x2
    exact State_mapSystem_keeps (State_domsOn_keeps hs)
  clear_value x2
  have h8 : Keeps s0 x4 := by
    unfold x4
    exact Keeps.mk' h7 rfl rfl rfl
  clear_value x4
  have h9 : Keeps s0 x5 := by
    unfold x5
    split
    · exact State_retireAgain_keeps h8
    · exact h8
  clear_value x5
  split
  · exact h8
  · split
    · exact State_bootFail_keeps h8
    · exact Keeps.mk' h9 rfl rfl rfl

theorem State_commitMap_keeps {s0 : State} {s : State} {c : Cand} {cut : Nat} (hs : Keeps s0 s) : Keeps s0 (State.commitMap s c cut) := by
  unfold State.commitMap
  extract_lets x9 x10
  have h11 : Keeps s0 x10 := by
    unfold x10
    exact State_limited_keeps hs
  clear_value x10
  split
  · exact hs
  · split
    · exact State_limited_keeps hs
    · exact State_raise_keeps h11

theorem State_withhold_keeps {s0 : State} {failed : List Nat} {s : State} {x : Nat × Nat} (hs : Keeps s0 s) :
    Keeps s0 (State.withhold failed s x) := by
  unfold State.withhold
  extract_lets x2 x3 x4 x5 x6 x7 x8
  have h9 : Keeps s0 x3 := by
    unfold x3
    split
    · exact State_bootMark_keeps hs
    · exact hs
  clear_value x3
  have h16 : Keeps s0 x6 := by
    unfold x6
    split
    · exact h9
    · split
      · exact Keeps.mk' h9 rfl rfl rfl
      · exact Keeps.mk' h9 rfl rfl rfl
  clear_value x6
  split
  · exact h16
  · exact State_raise_keeps (Keeps.mk' h16 rfl rfl rfl)

theorem State_proofTransients_keeps {s0 : State} {b : Sys2Proof.BootIn} {s : State} (hs : Keeps s0 s) :
    Keeps s0 (State.proofTransients b s) := by
  unfold State.proofTransients
  refine Keeps.foldl (fun x2 x3 h4 => ?_) ?_
  · split
    · exact State_transient_keeps h4
    · exact h4
  · exact hs

theorem State_spareTransients_keeps {s0 : State} {b : BootIn} {c : Cand} {s : State} (hs : Keeps s0 s) :
    Keeps s0 (State.spareTransients s b c) := by
  unfold State.spareTransients
  exact Keeps.mk' hs rfl rfl rfl

theorem State_movedTransients_keeps {s0 : State} {b : BootIn} {c : Cand} {s : State} (hs : Keeps s0 s) :
    Keeps s0 (State.movedTransients s b c) := by
  unfold State.movedTransients
  exact Keeps.foldl (fun _ _ h => Keeps.foldl (fun _ _ h => State_transient_keeps h) h) hs

theorem State_bootBist_keeps {s0 : State} {b : BootIn} {s : State} (hs : Keeps s0 s) : Keeps s0 (State.bootBist b s) := by
  unfold State.bootBist
  extract_lets x2 x3 x4
  have h5 : Keeps s0 x3 := by
    unfold x3
    refine Keeps.foldl (fun x6 a8 h7 => ?_) ?_
    · exact State_raise_keeps h7
    · exact State_domsOn_keeps hs
  clear_value x3
  exact Keeps.mk' h5 rfl rfl rfl

theorem State_bootTiles_keeps {s0 : State} {b : BootIn} {s : State} (hs : Keeps s0 s) : Keeps s0 (State.bootTiles b s) := by
  unfold State.bootTiles
  extract_lets x2 x3 x4 x5 x6 x7
  have h8 : Keeps s0 x3 := by
    unfold x3
    refine Keeps.foldl (fun x9 a11 h10 => ?_) ?_
    · exact State_raise_keeps h10
    · exact State_domsOn_keeps hs
  clear_value x3
  have h12 : Keeps s0 x6 := by
    unfold x6
    refine Keeps.foldl (fun x13 a15 h14 => ?_) ?_
    · exact State_raise_keeps h14
    · exact State_spareTransients_keeps (State_proofTransients_keeps h8)
  clear_value x6
  exact Keeps.mk' h12 rfl rfl rfl

theorem State_bootReady_keeps {s0 : State} {s : State} (hs : Keeps s0 s) : Keeps s0 (State.bootReady s) := by
  unfold State.bootReady
  extract_lets x2 x3 x4
  have h2 : Keeps s0 x2 := by
    unfold x2
    generalize tileDomains = ds
    exact State_drawn_keeps (Keeps.foldl (fun _ _ h => State_domOff_keeps h) hs)
  clear_value x2
  have h4 : Keeps s0 x4 := Keeps.mk' h2 rfl rfl rfl
  clear_value x4
  exact State_raise_keeps (State_modCtx_keeps (State_setQueue_keeps h4))

theorem State_bootCommit_keeps {s0 : State} {b : BootIn} {s : State} (hs : Keeps s0 s) : Keeps s0 (State.bootCommit b s) := by
  unfold State.bootCommit
  extract_lets c cut s1 s2 p s3
  have h1 : Keeps s0 s1 := State_commitMap_keeps hs
  clear_value s1
  have h2 : Keeps s0 s2 := Keeps.foldl (fun _ _ h => State_withhold_keeps h) (State_movedTransients_keeps h1)
  clear_value s2
  have h3 : Keeps s0 s3 := Keeps.mk' h2 rfl rfl rfl
  clear_value s3
  split
  · exact h1
  · split
    · exact State_bootReady_keeps h3
    · exact h3

theorem State_runRow_keeps {s0 : State} {b : BootIn} {s : State} {x2 : BootPart} (hs : Keeps s0 s) : Keeps s0 (State.runRow b s x2) := by
  unfold State.runRow
  split
  · exact State_selectImage_keeps hs
  · exact State_bootPll_keeps hs
  · exact State_domsOn_keeps hs
  · exact State_bootPcie_keeps hs
  · exact State_bootSpine_keeps hs
  · exact State_bootLinks_keeps hs
  · exact State_bootHbm_keeps hs
  · exact State_bootBist_keeps hs
  · exact State_bootTiles_keeps hs
  · exact State_bootCommit_keeps hs

theorem State_runBeside_keeps {s0 : State} {b : BootIn} {s : State} {x : BootPart} (hs : Keeps s0 s) :
    Keeps s0 (State.runBeside b s x) := by
  unfold State.runBeside
  split
  · exact hs
  · extract_lets p t
    have h : Keeps s0 t := State_runRow_keeps (Keeps.mk' hs rfl rfl rfl)
    clear_value t
    exact Keeps.mk' h rfl rfl rfl

theorem State_runRows_keeps {s0 : State} {b : BootIn} {x2 : Nat} {x3 : State} (hx3 : Keeps s0 x3) : Keeps s0 (State.runRows b x2 x3) := by
  induction x2 generalizing b x3 with
  | zero =>
    unfold State.runRows
    exact hx3
  | succ k ih =>
    unfold State.runRows
    split
    · exact hx3
    · extract_lets t x11
      have h12 : Keeps s0 t := State_runRow_keeps hx3
      clear_value t
      split
      · exact hx3
      · split
        · exact Keeps.foldl (fun _ _ h => State_runBeside_keeps h) h12
        · split
          · exact h12
          · apply ih
            exact Keeps.mk' h12 rfl rfl rfl

theorem State_boot_keeps {s0 : State} {s : State} {b : BootIn} (hs : Keeps s0 s) : Keeps s0 (State.boot s b) := by
  unfold State.boot
  apply State_runRows_keeps
  exact Keeps.mk' hs rfl rfl rfl

theorem State_startPath_keeps {s0 : State} {s : State} {cause : Nat} {path : Nat} {declined : Nat} {old : Pln} (hs : Keeps s0 s) :
    Keeps s0 (State.startPath s cause path declined old) := by
  unfold State.startPath
  extract_lets x6 x7 x8
  have h9 : Keeps s0 x6 := by
    unfold x6
    exact State_noteReset_keeps hs
  clear_value x6
  apply State_recoverChange_keeps
  exact Keeps.mk' h9 rfl rfl rfl

theorem State_coldBoot_keeps {s0 : State} {s : State} {b : Sys2Proof.BootIn} (hs : Keeps s0 s) : Keeps s0 (State.coldBoot s b) := by
  unfold State.coldBoot
  apply State_boot_keeps
  split
  · exact State_startPath_keeps hs
  · exact hs

theorem execColdBoot_keeps {s0 : State} {found : Sys2Proof.BootIn} {s : State} (hs : Keeps s0 s) : OutKeeps s0 (execColdBoot found s) := by
  unfold execColdBoot
  refine OutKeeps.whenever ?_ (fun h2 => ?_)
  · exact hs
  · exact State_coldBoot_keeps hs

theorem State_warmStart_keeps {s0 : State} {s : State} {b : BootIn} {cause : Nat} {full : Bool} (hs : Keeps s0 s) :
    Keeps s0 (State.warmStart s b cause full) := by
  unfold State.warmStart
  extract_lets x2 x3
  have h4 : Keeps s0 x3 := by
    unfold x3
    exact State_startPath_keeps (State_warmBare_keeps hs)
  clear_value x3
  split
  · exact h4
  · exact State_raise_keeps h4

theorem State_warmBoot_keeps {s0 : State} {s : State} {b : Sys2Proof.BootIn} (hs : Keeps s0 s) : Keeps s0 (State.warmBoot s b) := by
  unfold State.warmBoot
  split
  · exact State_boot_keeps hs
  · exact State_boot_keeps (State_warmStart_keeps hs)

theorem execWarmBoot_keeps {s0 : State} {found : Sys2Proof.BootIn} {s : State} (hs : Keeps s0 s) : OutKeeps s0 (execWarmBoot found s) := by
  unfold execWarmBoot
  refine OutKeeps.whenever ?_ (fun h2 => ?_)
  · exact hs
  · exact State_warmBoot_keeps hs

theorem State_bladeGood_keeps {s0 : State} {s : State} {blade : Nat} (hs : Keeps s0 s) : Keeps s0 (State.bladeGood s blade) := by
  unfold State.bladeGood
  dsimp only
  split
  · refine (State_drawn_keeps (n := 1) hs).update rfl ?_ id id id
    dsimp only
    split <;> exact .refl _
  · refine hs.update rfl ?_ id id id
    dsimp only
    split <;> exact .refl _

theorem execBladePowerGood_keeps {s0 : State} {blade : Nat} {s : State} (hs : Keeps s0 s) : OutKeeps s0 (execBladePowerGood blade s) := by
  unfold execBladePowerGood
  exact OutKeeps.guardWf (OutKeeps.next.2 (State_bladeGood_keeps hs))

theorem execSecondBladeTimeout_keeps {s0 : State} {s : State} (hs : Keeps s0 s) : OutKeeps s0 (execSecondBladeTimeout s) := by
  unfold execSecondBladeTimeout
  refine OutKeeps.whenever ?_ (fun h2 => ?_)
  · exact hs
  · exact Keeps.mk' hs rfl rfl rfl

theorem execPowerRemoved_keeps {s0 : State} {s : State} (hs : Keeps s0 s) : OutKeeps s0 (execPowerRemoved s) := by
  unfold execPowerRemoved
  exact OutKeeps.guardWf (OutKeeps.next.2 (State_powerOff_keeps hs))

theorem State_lockOut_keeps {s0 : State} {s : State} {blade : Nat} (hs : Keeps s0 s) : Keeps s0 (State.lockOut s blade) := by
  unfold State.lockOut
  extract_lets p q s1
  have hq : q.fuses = s.pln.fuses := by unfold q; split <;> rfl
  have h1 : Keeps s0 s1 := hs.update rfl (by unfold s1; exact hq ▸ .refl _) id id id
  clear_value s1
  split
  · exact h1
  · exact State_powerOff_keeps h1

theorem State_inputVoltage_keeps {s0 : State} {s : State} {blade mv : Nat} (hs : Keeps s0 s) :
    Keeps s0 (State.inputVoltage s blade mv) := by
  unfold State.inputVoltage
  extract_lets x2 x3 x4
  have h3 : Keeps s0 x3 := Keeps.mk' hs rfl rfl rfl
  clear_value x3
  have h4 : Keeps s0 x4 := State_losePower_keeps (State_raise_keeps h3)
  clear_value x4
  split
  · exact State_lockOut_keeps h4
  · exact h4

theorem execInputVoltage_keeps {s0 : State} {blade : Nat} {millivolts : Nat} {s : State} (hs : Keeps s0 s) :
    OutKeeps s0 (execInputVoltage blade millivolts s) := by
  unfold execInputVoltage
  refine OutKeeps.whenever ?_ (fun h2 => ?_)
  · exact hs
  · exact State_inputVoltage_keeps hs

end Sys2Proof.Machine
end

