-- ==== Sys2Proof/Laws/KeepsReset.lean ====
section
/-! SUPPORT. The operations of Machine/Reset.lean keep what Keeps says. -/

namespace Sys2Proof.Machine

theorem State_requestReset_keeps {s0 : State} {s : State} {cause : Nat} {full : Bool} (hs : Keeps s0 s) :
    Keeps s0 (State.requestReset s cause full) := by
  unfold State.requestReset
  split
  · exact hs
  · exact Keeps.mk' hs rfl rfl rfl

theorem State_conventional_keeps {s0 : State} {s : State} {cause : Nat} (hs : Keeps s0 s) : Keeps s0 (State.conventional s cause) := by
  unfold State.conventional
  extract_lets x2 x3
  have h4 : Keeps s0 x2 := by
    unfold x2
    split
    · exact hs
    · exact State_raise_keeps hs
  clear_value x2
  exact State_requestReset_keeps (Keeps.mk' h4 rfl rfl rfl)

theorem execPerstAssert_keeps {s0 : State} {s : State} (hs : Keeps s0 s) : OutKeeps s0 (execPerstAssert s) := by
  unfold execPerstAssert
  refine OutKeeps.whenever ?_ (fun h2 => ?_)
  · exact hs
  · exact State_conventional_keeps hs

theorem execHotReset_keeps {s0 : State} {s : State} (hs : Keeps s0 s) : OutKeeps s0 (execHotReset s) := by
  unfold execHotReset
  refine OutKeeps.whenever ?_ (fun h2 => ?_)
  · exact hs
  · exact State_conventional_keeps hs

theorem execDlDown_keeps {s0 : State} {s : State} (hs : Keeps s0 s) : OutKeeps s0 (execDlDown s) := by
  unfold execDlDown
  refine OutKeeps.whenever ?_ (fun h2 => ?_)
  · exact hs
  · exact State_conventional_keeps hs

theorem State_linkUp_keeps {s0 : State} {s : State} {speed : Nat} {width : Nat} {flit : Bool} (hs : Keeps s0 s) :
    Keeps s0 (State.linkUp s speed width flit) := by
  unfold State.linkUp
  exact Keeps.mk' hs rfl rfl rfl

theorem execDlUp_keeps {s0 : State} {speed : Nat} {width : Nat} {flit : Bool} {s : State} (hs : Keeps s0 s) :
    OutKeeps s0 (execDlUp speed width flit s) := by
  unfold execDlUp
  refine OutKeeps.whenever ?_ (fun h2 => ?_)
  · exact hs
  · exact State_linkUp_keeps hs

theorem State_resetGo_keeps {s0 : State} {s : State} {full : Bool} (hs : Keeps s0 s) : Keeps s0 (State.resetGo s full) := by
  unfold State.resetGo
  extract_lets x2 x3
  have h4 : Keeps s0 x2 := by
    unfold x2
    exact State_requestReset_keeps hs
  clear_value x2
  exact Keeps.mk' h4 rfl rfl rfl

theorem execPlnResetGo_keeps {s0 : State} {master : Nat} {s : State} (hs : Keeps s0 s) : OutKeeps s0 (execPlnResetGo master s) := by
  unfold execPlnResetGo
  refine OutKeeps.whenever ?_ (fun h2 => ?_)
  · exact hs
  · exact State_resetGo_keeps (State_access_keeps hs)

theorem State_replyTo_keeps {s0 : State} {s : State} {m : Nat} {code : Nat} {result : Nat} {counter : Nat} (hs : Keeps s0 s) :
    Keeps s0 (State.replyTo s m code result counter) := by
  unfold State.replyTo
  extract_lets x2 x3
  split
  · exact hs
  · exact State_mailSend_keeps (State_setChan_keeps hs)

theorem State_askReset_keeps {s0 : State} {s : State} {m : Nat} {full : Nat} (hs : Keeps s0 s) : Keeps s0 (State.askReset s m full) := by
  unfold State.askReset
  split
  · exact State_replyTo_keeps hs
  · exact State_requestReset_keeps (State_replyTo_keeps hs)

theorem State_limitRefused_keeps {s0 : State} {s : State} {m : Nat} {code : Nat} {x : Limited} (hs : Keeps s0 s) :
    Keeps s0 (State.limitRefused s m code x) := by
  unfold State.limitRefused
  extract_lets x2 x3
  exact State_replyTo_keeps (State_raise_keeps (State_auditGeneral_keeps hs))

theorem State_change_keeps {s0 : State} {s : State} {m : Nat} {code : Nat} {x : Limited} {ok : Bool} {cut : Nat} (hs : Keeps s0 s) :
    Keeps s0 (State.change s m code x ok cut) := by
  unfold State.change
  extract_lets x2
  split
  · exact State_replyTo_keeps hs
  · split
    · exact State_limitRefused_keeps hs
    · split
      · exact State_replyTo_keeps hs
      · split
        · exact State_replyTo_keeps (State_limited_keeps hs)
        · exact State_limited_keeps hs

theorem State_handleRequest_keeps {s0 : State} {s : State} {m : Nat} {len : Nat} {msg : Nat} {cut : Nat} (hs : Keeps s0 s) :
    Keeps s0 (State.handleRequest s m len msg cut) := by
  unfold State.handleRequest
  extract_lets x2 x3 x4
  clear_value x2
  split
  · exact State_change_keeps hs
  · exact State_change_keeps hs
  · exact State_change_keeps hs
  · exact State_askReset_keeps hs
  · exact State_replyTo_keeps hs

theorem State_takeRequest_keeps {s0 : State} {s : State} {n : Nat} {cut : Nat} (hs : Keeps s0 s) :
    Keeps s0 (State.takeRequest s n cut) := by
  unfold State.takeRequest
  extract_lets x2
  split
  · exact State_handleRequest_keeps (State_mailAck_keeps hs)
  · exact hs

theorem State_sendRequest_keeps {s0 : State} {s : State} {m : Nat} {code : Nat} {value : Nat} {cut : Nat} (hs : Keeps s0 s) :
    Keeps s0 (State.sendRequest s m code value cut) := by
  unfold State.sendRequest
  extract_lets x7 x8 x9
  split
  · exact hs
  · exact State_takeRequest_keeps (State_mailSend_keeps (State_setChan_keeps hs))

theorem State_asked_keeps {s0 : State} {s t : State} {m : Nat} (hs : Keeps s0 s) (ht : Keeps s0 t) : Keeps s0 (State.asked s m t) :=
  Keeps.ite (fun _ => ht) fun _ => Keeps.ite (fun _ => State_unsupported_keeps hs) fun _ => hs

theorem execReset_keeps {s0 : State} {master : Nat} {full : Nat} {s : State} (hs : Keeps s0 s) : OutKeeps s0 (execReset master full s) := by
  unfold execReset
  exact OutKeeps.guardWf (OutKeeps.next.2 (State_asked_keeps hs (State_sendRequest_keeps hs)))

theorem execReduceCeiling_keeps {s0 : State} {master : Nat} {watts : Nat} {cut : Nat} {s : State} (hs : Keeps s0 s) :
    OutKeeps s0 (execReduceCeiling master watts cut s) := by
  unfold execReduceCeiling
  exact OutKeeps.guardWf (OutKeeps.next.2 (State_asked_keeps hs (State_sendRequest_keeps hs)))

theorem execAdvanceFirmwareFloor_keeps {s0 : State} {master : Nat} {svn : Nat} {cut : Nat} {s : State} (hs : Keeps s0 s) :
    OutKeeps s0 (execAdvanceFirmwareFloor master svn cut s) := by
  unfold execAdvanceFirmwareFloor
  exact OutKeeps.guardWf (OutKeeps.next.2 (State_asked_keeps hs (State_sendRequest_keeps hs)))

theorem execAdvanceVerjoFloor_keeps {s0 : State} {master : Nat} {floor : Nat} {cut : Nat} {s : State} (hs : Keeps s0 s) :
    OutKeeps s0 (execAdvanceVerjoFloor master floor cut s) := by
  unfold execAdvanceVerjoFloor
  exact OutKeeps.guardWf (OutKeeps.next.2 (State_asked_keeps hs (State_sendRequest_keeps hs)))

theorem State_putSend_keeps {s0 : State} {s : State} {m : Nat} {n : Nat} {v : Nat} (hs : Keeps s0 s) :
    Keeps s0 (State.putSend s m n v) := by
  unfold State.putSend
  split
  · exact State_mailboxSend_keeps hs
  · exact State_takeRequest_keeps (State_mailboxSend_keeps hs)

theorem execMailboxSend_keeps {s0 : State} {master : Nat} {chan : Nat} {value : Nat} {s : State} (hs : Keeps s0 s) :
    OutKeeps s0 (execMailboxSend master chan value s) := by
  unfold execMailboxSend
  refine OutKeeps.whenever ?_ (fun h2 => ?_)
  · exact hs
  · exact State_putSend_keeps (State_access_keeps hs)

theorem execMbxSend_keeps {s0 : State} {len : Nat} {data : Nat} {s : State} (hs : Keeps s0 s) : OutKeeps s0 (execMbxSend len data s) := by
  unfold execMbxSend
  exact OutKeeps.guardWf (OutKeeps.next.2 (State_vendor_keeps hs (State_takeRequest_keeps (State_bmcSend_keeps hs))))

theorem execPllLockLoss_keeps {s0 : State} {pll : Nat} {index : Nat} {s : State} (hs : Keeps s0 s) :
    OutKeeps s0 (execPllLockLoss pll index s) := by
  unfold execPllLockLoss
  refine OutKeeps.whenever ?_ (fun h2 => ?_)
  · exact hs
  · exact State_bootFail_keeps hs

theorem execSerdesRefclkLoss_keeps {s0 : State} {s : State} (hs : Keeps s0 s) : OutKeeps s0 (execSerdesRefclkLoss s) := by
  unfold execSerdesRefclkLoss
  refine OutKeeps.whenever ?_ (fun h2 => ?_)
  · exact hs
  · exact State_bootFail_keeps hs

theorem execPlinthLockstep_keeps {s0 : State} {detail : Nat} {s : State} (hs : Keeps s0 s) : OutKeeps s0 (execPlinthLockstep detail s) := by
  unfold execPlinthLockstep
  exact OutKeeps.guardWf (OutKeeps.next.2 (State_raise_keeps hs))

theorem execSetEndpointId_keeps {s0 : State} {eid : Nat} {s : State} (hs : Keeps s0 s) : OutKeeps s0 (execSetEndpointId eid s) := by
  unfold execSetEndpointId
  refine OutKeeps.whenever ?_ (fun h2 => ?_)
  · exact hs
  · exact Keeps.mk' hs rfl rfl rfl

theorem State_updateFirmware_keeps {s0 : State} {s : State} {i : ImageIn} (hs : Keeps s0 s) : Keeps s0 (State.updateFirmware s i) := by
  unfold State.updateFirmware
  refine hs.update rfl ?_ id id id
  dsimp only
  split <;> exact .refl _

theorem execFirmwareUpdate_keeps {s0 : State} {image : ImageIn} {s : State} (hs : Keeps s0 s) :
    OutKeeps s0 (execFirmwareUpdate image s) := by
  unfold execFirmwareUpdate
  refine OutKeeps.whenever ?_ (fun h2 => ?_)
  · exact hs
  · exact State_updateFirmware_keeps hs

theorem State_activate_keeps {s0 : State} {s : State} (hs : Keeps s0 s) : Keeps s0 (State.activate s) := by
  unfold State.activate
  split
  · exact hs
  · extract_lets x2 x3
    have h4 : Keeps s0 x2 := State_selectImage_keeps hs
    clear_value x2
    split
    · split
      · exact h4
      · exact Keeps.mk' h4 rfl rfl rfl
    · exact h4

theorem execActivateFirmware_keeps {s0 : State} {s : State} (hs : Keeps s0 s) : OutKeeps s0 (execActivateFirmware s) := by
  unfold execActivateFirmware
  refine OutKeeps.whenever ?_ (fun h2 => ?_)
  · exact hs
  · exact State_out_keeps (State_activate_keeps hs)

theorem State_smbusRequest_keeps {s0 : State} {s : State} {take : Bool} (hs : Keeps s0 s) : Keeps s0 (State.smbusRequest s take) := by
  unfold State.smbusRequest
  split
  · split
    · exact State_out_keeps hs
    · exact State_out_keeps (Keeps.mk' hs rfl rfl rfl)
  · split
    · exact State_out_keeps (Keeps.mk' hs rfl rfl rfl)
    · exact State_out_keeps hs

theorem execSmbusSegmentRequest_keeps {s0 : State} {take : Bool} {s : State} (hs : Keeps s0 s) :
    OutKeeps s0 (execSmbusSegmentRequest take s) := by
  unfold execSmbusSegmentRequest
  refine OutKeeps.whenever ?_ (fun h2 => ?_)
  · exact hs
  · exact State_smbusRequest_keeps hs

end Sys2Proof.Machine
end

