-- ==== Sys2Proof/Laws/KeepsFaultQueue.lean ====
section
/-! SUPPORT. The operations of Machine/FaultQueue.lean keep what Keeps says. -/

namespace Sys2Proof.Machine

theorem State_enableFrq_keeps {s0 : State} {s : State} (hs : Keeps s0 s) : Keeps s0 (State.enableFrq s) := by
  unfold State.enableFrq
  split
  · exact hs
  · refine Keeps.foldl (fun x6 x7 h8 => ?_) ?_
    · exact State_enterFrq_keeps h8
    · exact Keeps.mk' hs rfl rfl rfl

theorem execFrqEnable_keeps {s0 : State} {master : Nat} {s : State} (hs : Keeps s0 s) : OutKeeps s0 (execFrqEnable master s) := by
  unfold execFrqEnable
  refine OutKeeps.whenever ?_ (fun h2 => ?_)
  · exact hs
  · exact State_enableFrq_keeps (State_access_keeps hs)

theorem State_selectRecord_keeps {s0 : State} {s : State} {b : Nat} {q : Nat} (hs : Keeps s0 s) : Keeps s0 (State.selectRecord s b q) := by
  unfold State.selectRecord
  extract_lets x2 x3
  exact State_setBank_keeps hs

theorem State_frqSelect_keeps {s0 : State} {s : State} {m : Nat} {q : Nat} (hs : Keeps s0 s) : Keeps s0 (State.frqSelect s m q) := by
  unfold State.frqSelect
  split
  · exact State_selectRecord_keeps hs
  · exact hs

theorem execFrqSelect_keeps {s0 : State} {master : Nat} {seq : Nat} {s : State} (hs : Keeps s0 s) :
    OutKeeps s0 (execFrqSelect master seq s) := by
  unfold execFrqSelect
  refine OutKeeps.whenever ?_ (fun h2 => ?_)
  · exact hs
  · exact State_frqSelect_keeps (State_access_keeps hs)

theorem State_writeBank_keeps {s0 : State} {s : State} {b : Nat} {f : FrqBank → FrqBank} (hs : Keeps s0 s) :
    Keeps s0 (State.writeBank s b f) := by
  unfold State.writeBank
  extract_lets x2
  exact State_bmcAlert_keeps (State_setBank_keeps hs)

theorem State_clearAlerts_keeps {s0 : State} {s : State} {m : Nat} {v : Nat} (hs : Keeps s0 s) : Keeps s0 (State.clearAlerts s m v) := by
  unfold State.clearAlerts
  split
  · exact State_writeBank_keeps hs
  · exact hs

theorem execAlertStatusClear_keeps {s0 : State} {master : Nat} {value : Nat} {s : State} (hs : Keeps s0 s) :
    OutKeeps s0 (execAlertStatusClear master value s) := by
  unfold execAlertStatusClear
  refine OutKeeps.whenever ?_ (fun h2 => ?_)
  · exact hs
  · exact State_clearAlerts_keeps (State_access_keeps hs)

end Sys2Proof.Machine
end

