-- ==== Sys2Proof/Laws/KeepsShadow.lean ====
section
/-! SUPPORT. The operations of Machine/Shadow.lean keep what Keeps says. -/

namespace Sys2Proof.Machine

theorem State_setSample_keeps {s0 : State} {s : State} {x : Sample} (hs : Keeps s0 s) (hx : s0.memWf = true → Memory.wf x.image.mem = true) :
    Keeps s0 (State.setSample s x) := by
  refine hs.mkAll hs.hbm_wf hs.tiles_wf (fun w => imagesWf_map (fun y hy => ?_) (hs.images_wf w)) hs.fuses
  split
  · exact hx w
  · exact hy

theorem Sample_loadInto_keeps {x : Sample} {pool : Tile} (hx : Memory.wf x.image.mem = true) (hpool : Memory.wf pool.mem = true) :
    Memory.wf (Sample.loadInto x pool).mem = true := by
  unfold Sample.loadInto
  extract_lets x2 x3
  have h4 : Memory.wf x2.mem = true := by
    unfold x2
    exact hx
  clear_value x2
  dsimp only
  refine filter_wf ?_
  exact h4

theorem State_loadShadow_keeps {s0 : State} {s : State} {x : Sample} {pool : Nat} (hs : Keeps s0 s) (hx : s0.memWf = true → Memory.wf x.image.mem = true) :
    Keeps s0 (State.loadShadow s x pool) := by
  unfold State.loadShadow
  extract_lets x2
  have h3 : Keeps s0 x2 := by
    unfold x2
    refine Keeps.modTile ?_ (fun w7 x5 h6 => ?_)
    · exact hs
    · apply Sample_loadInto_keeps
      · exact hx w7
      · exact h6
  clear_value x2
  split
  · exact State_enterExchange_keeps h3
  · exact h3

theorem State_shadowLoad_keeps {s0 : State} {s : State} {i : Nat} {pool : Nat} (hs : Keeps s0 s) :
    Keeps s0 (State.shadowLoad s i pool) := by
  unfold State.shadowLoad
  split
  · exact hs
  · rename_i x e
    have hx (w : s0.memWf = true) : Memory.wf x.image.mem = true := sample_wf (hs.images_wf w) e
    split
    · exact State_loadShadow_keeps (State_setSample_keeps hs hx) hx
    · exact State_missSample_keeps hs

theorem execShadowLoad_keeps {s0 : State} {sample : Nat} {pool : Nat} {s : State} (hs : Keeps s0 s) :
    OutKeeps s0 (execShadowLoad sample pool s) := by
  unfold execShadowLoad
  refine OutKeeps.whenever ?_ (fun h2 => ?_)
  · exact hs
  · exact State_shadowLoad_keeps hs

theorem State_arbiterRun_keeps {s0 : State} {s : State} {i : Nat} {pool : Nat} (hs : Keeps s0 s) :
    Keeps s0 (State.arbiterRun s i pool) := by
  unfold State.arbiterRun
  split
  · exact hs
  · rename_i y5 y6 y7
    apply State_loadShadow_keeps
    · apply State_setSample_keeps
      · exact hs
      · intro x12
        dsimp only
        refine sample_wf ?_ y7
        exact hs.images_wf x12
    · intro x17
      refine sample_wf ?_ y7
      exact hs.images_wf x17

theorem execArbiterRun_keeps {s0 : State} {sample : Nat} {pool : Nat} {s : State} (hs : Keeps s0 s) :
    OutKeeps s0 (execArbiterRun sample pool s) := by
  unfold execArbiterRun
  refine OutKeeps.whenever ?_ (fun h2 => ?_)
  · exact hs
  · exact State_arbiterRun_keeps hs

theorem State_strike_keeps {s0 : State} {s : State} {t : Nat} {pool : Bool} (hs : Keeps s0 s) : Keeps s0 (State.strike s t pool) := by
  unfold State.strike
  extract_lets x2 x3
  have h4 : Keeps s0 x2 := by
    unfold x2
    refine Keeps.modTile ?_ (fun w8 x6 h7 => ?_)
    · exact hs
    · dsimp only
      exact h7
  clear_value x2
  split
  · exact Keeps.mk' h4 rfl rfl rfl
  · exact h4

theorem State_resolve_keeps {s0 : State} {s : State} {x : Sample} {matched : Bool} (hs : Keeps s0 s) (hx : s0.memWf = true → Memory.wf x.image.mem = true) :
    Keeps s0 (State.resolve s x matched) := by
  unfold State.resolve
  extract_lets x2 x3
  refine Keeps.mkAll ?_ (fun w5 => ?_) (fun w5 => ?_) (fun w5 => ?_) ?_
  · exact hs
  · exact hs.hbm_wf w5
  · exact hs.tiles_wf w5
  · dsimp only
    refine imagesWf_filter ?_
    exact hs.images_wf w5
  · exact hs.fuses

theorem State_shadowFinding_keeps {s0 : State} {s : State} {x : Sample} {code : Nat} {fatal : Bool} {own : Bool} {pool : Bool} (hs : Keeps s0 s) (hx : s0.memWf = true → Memory.wf x.image.mem = true) :
    Keeps s0 (State.shadowFinding s x code fatal own pool) := by
  unfold State.shadowFinding
  extract_lets x2 x3 x4 x5 x6 x7
  have h8 : Keeps s0 x2 := by
    unfold x2
    apply State_resolve_keeps
    · exact hs
    · intro x12
      exact hx x12
  clear_value x2
  have h14 : Keeps s0 x3 := by
    unfold x3
    split
    · exact State_strike_keeps h8
    · exact h8
  clear_value x3
  have h21 : Keeps s0 x4 := by
    unfold x4
    split
    · exact State_strike_keeps h14
    · exact h14
  clear_value x4
  have h28 : Keeps s0 x7 := by
    unfold x7
    refine Keeps.foldl (fun x30 x31 h32 => ?_) ?_
    · exact State_markTile_keeps h32
    · exact h21
  clear_value x7
  exact State_raiseAll_keeps h28

theorem State_compare_keeps {s0 : State} {s : State} {i : Nat} (hs : Keeps s0 s) : Keeps s0 (State.compare s i) := by
  unfold State.compare
  split
  · exact hs
  · rename_i y5 y6 y7
    split
    · split
      · apply State_shadowFinding_keeps
        · exact hs
        · intro x15
          refine sample_wf ?_ y7
          exact hs.images_wf x15
      · split
        · apply State_shadowFinding_keeps
          · exact hs
          · intro x24
            refine sample_wf ?_ y7
            exact hs.images_wf x24
        · apply State_shadowFinding_keeps
          · exact hs
          · intro x31
            refine sample_wf ?_ y7
            exact hs.images_wf x31
    · split
      · apply State_resolve_keeps
        · exact hs
        · intro x40
          refine sample_wf ?_ y7
          exact hs.images_wf x40
      · apply State_setSample_keeps
        · exact hs
        · intro x47
          dsimp only
          refine sample_wf ?_ y7
          exact hs.images_wf x47

theorem execDigestCompare_keeps {s0 : State} {sample : Nat} {s : State} (hs : Keeps s0 s) : OutKeeps s0 (execDigestCompare sample s) := by
  unfold execDigestCompare
  refine OutKeeps.whenever ?_ (fun h2 => ?_)
  · exact hs
  · exact State_compare_keeps hs

end Sys2Proof.Machine
end

