-- ==== Sys2Proof/Laws/KeepsRegisters.lean ====
section
/-! SUPPORT. The operations of Machine/Registers.lean keep what Keeps says. -/

namespace Sys2Proof.Machine

theorem State_putReset_keeps {s0 : State} {s : State} {v : Nat} (hs : Keeps s0 s) : Keeps s0 (State.putReset s v) := by
  unfold State.putReset
  extract_lets x2 x3
  have h4 : Keeps s0 x3 := by
    unfold x3
    exact Keeps.mk' hs rfl rfl rfl
  clear_value x3
  split
  · exact State_resetGo_keeps h4
  · exact h4

theorem State_putPln_keeps {s0 : State} {s : State} {m : Nat} {o : Nat} {v : Nat} (hs : Keeps s0 s) : Keeps s0 (State.putPln s m o v) := by
  unfold State.putPln
  split
  · split
    · exact State_putReset_keeps hs
    · exact hs
  · split
    · split
      · exact Keeps.mk' hs rfl rfl rfl
      · exact hs
    · split
      · split
        · exact State_enableFrq_keeps hs
        · exact hs
      · split
        · exact State_frqSelect_keeps hs
        · split
          · split
            · exact State_writeBank_keeps hs
            · exact hs
          · split
            · exact State_clearAlerts_keeps hs
            · exact hs

theorem State_putRingCtrl_keeps {s0 : State} {s : State} {f : Nat} {r : Nat} {v : Nat} (hs : Keeps s0 s) :
    Keeps s0 (State.putRingCtrl s f r v) := by
  unfold State.putRingCtrl
  extract_lets x2 x3 x4
  have h5 : Keeps s0 x3 := by
    unfold x3
    split
    · exact hs
    · exact State_modRing_keeps hs
  clear_value x3
  have h12 : Keeps s0 x4 := by
    unfold x4
    split
    · exact State_ringReset_keeps h5
    · exact h5
  clear_value x4
  split
  · exact h12
  · exact State_ringEnable_keeps h12

theorem State_putHif_keeps {s0 : State} {s : State} {m : Nat} {o : Nat} {v : Nat} (hs : Keeps s0 s) : Keeps s0 (State.putHif s m o v) := by
  unfold State.putHif
  extract_lets x2 x3 x4 x5 x6
  split
  · exact hs
  · split
    · exact State_setFn_keeps hs
    · split
      · split
        · split
          · exact hs
          · exact State_modRing_keeps hs
        · split
          · exact State_putRingCtrl_keeps hs
          · exact hs
      · exact hs

theorem State_putChannel_keeps {s0 : State} {s : State} {m : Nat} {n : Nat} {b : Nat} {v : Nat} (hs : Keeps s0 s) :
    Keeps s0 (State.putChannel s m n b v) := by
  unfold State.putChannel
  extract_lets x23
  split
  · split
    · exact State_denied_keeps hs
    · split
      · exact hs
      · exact State_setChan_keeps hs
  · split
    · exact State_putSend_keeps hs
    · split
      · split
        · exact State_setChan_keeps hs
        · exact hs
      · split
        · split
          · exact hs
          · exact State_mailboxAck_keeps hs
        · split
          · split
            · exact State_denied_keeps hs
            · exact State_setChan_keeps hs
          · exact hs

theorem State_putMbx_keeps {s0 : State} {s : State} {m : Nat} {o : Nat} {v : Nat} (hs : Keeps s0 s) : Keeps s0 (State.putMbx s m o v) := by
  unfold State.putMbx
  split
  · split
    · exact State_setChan_keeps hs
    · exact hs
  · split
    · split
      · exact Keeps.mk' hs rfl rfl rfl
      · exact hs
    · split
      · exact State_putChannel_keeps hs
      · exact hs

theorem State_ownBlocks_keeps {s0 : State} {s : State} {c : Nat} (hs : Keeps s0 s) : Keeps s0 (State.ownBlocks s c) := by
  unfold State.ownBlocks
  extract_lets x2 x3 x4
  exact Keeps.mk' hs rfl rfl rfl

theorem State_setWbank_keeps {s0 : State} {s : State} {b : Nat} {w : WBank} (hs : Keeps s0 s) : Keeps s0 (State.setWbank s b w) := by
  unfold State.setWbank
  exact Keeps.mk' hs rfl rfl rfl

theorem State_putWatch_keeps {s0 : State} {s : State} {b : Nat} {o : Nat} {v : Nat} (hs : Keeps s0 s) :
    Keeps s0 (State.putWatch s b o v) := by
  unfold State.putWatch
  extract_lets x2
  split
  · split
    · split
      · exact hs
      · exact State_submitWatch_keeps hs
    · exact State_setWbank_keeps hs
  · split
    · exact State_setWbank_keeps hs
    · exact State_setWbank_keeps hs

theorem State_putSyuCtx_keeps {s0 : State} {s : State} {o : Nat} {v : Nat} (hs : Keeps s0 s) : Keeps s0 (State.putSyuCtx s o v) := by
  unfold State.putSyuCtx
  split
  · extract_lets x4
    split
    · exact State_ownBlocks_keeps (State_modCtx_keeps hs)
    · exact hs
  · split
    · extract_lets x16
      split
      · exact State_ownBlocks_keeps (State_modCtx_keeps hs)
      · exact hs
    · exact hs

theorem State_putSyu_keeps {s0 : State} {s : State} {m : Nat} {core : Nat} {o : Nat} {v : Nat} (hs : Keeps s0 s) :
    Keeps s0 (State.putSyu s m core o v) := by
  unfold State.putSyu
  split
  · exact hs
  · split
    · exact Keeps.mk' hs rfl rfl rfl
    · split
      · split
        · exact State_putWatch_keeps hs
        · exact hs
      · split
        · exact State_putSyuCtx_keeps hs
        · exact hs

theorem State_putRmn_keeps {s0 : State} {s : State} {m : Nat} {core : Nat} {o : Nat} {v : Nat} (hs : Keeps s0 s) :
    Keeps s0 (State.putRmn s m core o v) := by
  unfold State.putRmn
  split
  · exact hs
  · split
    · exact Keeps.mk' hs rfl rfl rfl
    · split
      · split
        · exact State_modQueue_keeps hs
        · exact hs
      · split
        · split
          · exact State_modQueue_keeps hs
          · exact hs
        · split
          · split
            · split
              · exact State_queueReset_keeps (State_queueHold_keeps hs)
              · exact State_queueHold_keeps hs
            · exact hs
          · split
            · split
              · exact State_ringBytes_keeps hs
              · exact hs
            · exact hs

theorem State_putFm_keeps {s0 : State} {s : State} {n : Nat} {b : Nat} {v : Nat} (hs : Keeps s0 s) : Keeps s0 (State.putFm s n b v) := by
  unfold State.putFm
  extract_lets x2
  split
  · exact State_setFm_keeps hs
  · split
    · exact State_setFm_keeps hs
    · split
      · split
        · split
          · exact State_fmSubmit_keeps hs
          · exact hs
        · exact State_setFm_keeps hs
      · exact hs

theorem State_putHdom_keeps {s0 : State} {s : State} {x1 : Nat} {v : Nat} (hs : Keeps s0 s) : Keeps s0 (State.putHdom s x1 v) := by
  unfold State.putHdom
  split
  · exact hs
  · extract_lets x6
    have h7 : Keeps s0 x6 := by
      unfold x6
      split
      · exact State_domainDown_keeps hs
      · exact hs
    clear_value x6
    split
    · exact State_domainUp_keeps h7
    · exact h7

theorem State_putPwin_keeps {s0 : State} {s : State} {p : Nat} {v : Nat} (hs : Keeps s0 s) : Keeps s0 (State.putPwin s p v) := by
  unfold State.putPwin
  extract_lets x2 x3
  split
  · exact State_setPwin_keeps hs
  · exact State_setPwin_keeps hs

theorem State_reserveFrames_keeps {s0 : State} {s : State} {c : Nat} {half : Nat} {n : Nat} (hs : Keeps s0 s) :
    Keeps s0 (State.reserveFrames s c half n) := by
  unfold State.reserveFrames
  extract_lets x2 x3
  split
  · exact State_holdFrames_keeps hs
  · exact Keeps.mk' hs rfl rfl rfl

theorem State_reserve_keeps {s0 : State} {s : State} {c : Nat} {d4 : Nat} {d5 : Nat} (hs : Keeps s0 s) :
    Keeps s0 (State.reserve s c d4 d5) := by
  unfold State.reserve
  exact State_reserveFrames_keeps (State_reserveFrames_keeps (State_modCtx_keeps hs))

theorem State_putMem_keeps {s0 : State} {s : State} {m : Nat} {o : Nat} {v : Nat} (hs : Keeps s0 s) : Keeps s0 (State.putMem s m o v) := by
  unfold State.putMem
  split
  · exact State_putFm_keeps hs
  · split
    · exact hs
    · split
      · extract_lets x7
        split
        · exact hs
        · split
          · exact State_modCtx_keeps hs
          · exact State_reserve_keeps hs
      · split
        · exact State_putHdom_keeps hs
        · split
          · exact State_putPwin_keeps hs
          · exact hs

theorem State_putPort_keeps {s0 : State} {s : State} {k : Nat} {v : Nat} (hs : Keeps s0 s) : Keeps s0 (State.putPort s k v) := by
  unfold State.putPort
  split
  · exact hs
  · split
    · exact State_portDisable_keeps hs
    · extract_lets x11
      have h12 : Keeps s0 x11 := by
        unfold x11
        split
        · exact hs
        · exact State_portEnable_keeps hs
      clear_value x11
      split
      · exact State_retrain_keeps h12
      · exact h12

theorem State_putLnk_keeps {s0 : State} {s : State} {m : Nat} {o : Nat} {v : Nat} (hs : Keeps s0 s) : Keeps s0 (State.putLnk s m o v) := by
  unfold State.putLnk
  split
  · exact hs
  · split
    · split
      · exact Keeps.mk' hs rfl rfl rfl
      · exact hs
    · split
      · extract_lets x17 x18
        split
        · exact Keeps.mk' hs rfl rfl rfl
        · exact hs
      · split
        · exact State_putPort_keeps hs
        · exact hs

theorem State_putPwr_keeps {s0 : State} {s : State} {m : Nat} {o : Nat} {v : Nat} (hs : Keeps s0 s) : Keeps s0 (State.putPwr s m o v) := by
  unfold State.putPwr
  split
  · extract_lets x4 x5 x6
    split
    · exact hs
    · split
      · exact State_setCp_keeps hs
      · split
        · exact State_setCp_keeps hs
        · split
          · exact State_setCp_keeps hs
          · exact hs
  · exact hs

theorem State_putRas_keeps {s0 : State} {s : State} {m : Nat} {o : Nat} {v : Nat} (hs : Keeps s0 s) : Keeps s0 (State.putRas s m o v) := by
  unfold State.putRas
  extract_lets x2 x3
  split
  · exact hs
  · split
    · unfold x2
      exact Keeps.mk' hs rfl rfl rfl
    · split
      · split
        · exact hs
        · unfold x2
          exact Keeps.mk' hs rfl rfl rfl
      · split
        · split
          · exact hs
          · unfold x2
            exact Keeps.mk' hs rfl rfl rfl
        · split
          · unfold x2
            exact Keeps.mk' hs rfl rfl rfl
          · split
            · split
              · split
                · exact State_refreshEstimates_keeps (State_refreshTdoms_keeps
                    (State_releasePool_keeps (Keeps.mk' hs rfl rfl rfl)))
                · exact Keeps.mk' hs rfl rfl rfl
              · exact hs
            · exact hs

theorem State_putTel_keeps {s0 : State} {s : State} {m : Nat} {o : Nat} {v : Nat} (hs : Keeps s0 s) : Keeps s0 (State.putTel s m o v) := by
  unfold State.putTel
  extract_lets x2 x3
  split
  · exact hs
  · split
    · split
      · exact State_moveTail_keeps hs
      · exact hs
    · split
      · exact State_setTel_keeps hs
      · exact hs

theorem State_putCrt_keeps {s0 : State} {s : State} {m : Nat} {o : Nat} {v : Nat} (hs : Keeps s0 s) : Keeps s0 (State.putCrt s m o v) := by
  unfold State.putCrt
  split
  · exact hs
  · split
    · exact State_modCrt_keeps hs
    · split
      · exact State_modCrt_keeps hs
      · split
        · exact State_crtWrite_keeps hs
        · exact hs

theorem State_putArm_keeps {s0 : State} {s : State} {m : Nat} {core : Nat} {o : Nat} {v : Nat} (hs : Keeps s0 s) :
    Keeps s0 (State.putArm s m core o v) := by
  unfold State.putArm
  split
  · exact Keeps.mk' hs rfl rfl rfl
  · exact hs

theorem Tile_gateBanks_keeps {t : Tile} {v : Nat} (ht : Memory.wf t.mem = true) : Memory.wf (Tile.gateBanks t v).mem = true := by
  unfold Tile.gateBanks
  extract_lets x2 x3 x4
  dsimp only
  refine mdrop_wf ?_
  exact ht

theorem Tile_putCfg_keeps {t : Tile} {o : Nat} {v : Nat} (ht : Memory.wf t.mem = true) : Memory.wf (Tile.putCfg t o v).mem = true := by
  unfold Tile.putCfg
  split
  · dsimp only
    exact ht
  · split
    · exact Tile_gateBanks_keeps ht
    · split
      · dsimp only
        exact ht
      · split
        · dsimp only
          exact ht
        · split
          · dsimp only
            exact ht
          · exact ht

theorem State_putTile_keeps {s0 : State} {s : State} {m : Nat} {site : Nat} {o : Nat} {v : Nat} (hs : Keeps s0 s) :
    Keeps s0 (State.putTile s m site o v) := by
  unfold State.putTile
  split
  · exact hs
  · split
    · exact hs
    · split
      · split
        · refine Keeps.modTile ?_ (fun w19 x17 h18 => ?_)
          · exact hs
          · dsimp only
            exact h18
        · exact hs
      · split
        · refine Keeps.modTile ?_ (fun w31 x29 h30 => ?_)
          · exact hs
          · exact Tile_putCfg_keeps h30
        · exact hs

theorem State_putReg_keeps {s0 : State} {s : State} {m : Nat} {core : Nat} {off : Nat} {v : Nat} (hs : Keeps s0 s) :
    Keeps s0 (State.putReg s m core off v) := by
  unfold State.putReg
  extract_lets x2
  split
  · exact State_putTile_keeps hs
  · split
    · exact State_putPln_keeps hs
    · exact State_putHif_keeps hs
    · exact State_putMbx_keeps hs
    · exact State_putSyu_keeps hs
    · exact State_putRmn_keeps hs
    · exact State_putMem_keeps hs
    · exact State_putLnk_keeps hs
    · exact State_putPwr_keeps hs
    · exact State_putRas_keeps hs
    · exact State_putTel_keeps hs
    · exact State_putCrt_keeps hs
    · exact State_putArm_keeps hs
    · exact hs

theorem State_writeHalf_keeps {s0 : State} {s : State} {m : Nat} {core : Nat} {off : Nat} {v : Nat} (hs : Keeps s0 s) :
    Keeps s0 (State.writeHalf s m core off v) := by
  unfold State.writeHalf
  extract_lets x2 x3 x4
  have h5 : Keeps s0 x2 := by
    unfold x2
    exact State_access_keeps hs
  clear_value x2
  split
  · split
    · exact State_putReg_keeps h5
    · exact Keeps.mk' h5 rfl rfl rfl
  · exact Keeps.mk' h5 rfl rfl rfl

theorem State_regWrite_keeps {s0 : State} {s : State} {m : Nat} {core : Nat} {off : Nat} {size : Nat} {v : Nat} (hs : Keeps s0 s) :
    Keeps s0 (State.regWrite s m core off size v) := by
  unfold State.regWrite
  split
  · exact State_barWrite_keeps hs
  · split
    · exact State_access_keeps hs
    · split
      · split
        · exact State_putReg_keeps (State_access_keeps hs)
        · exact State_putReg_keeps (State_putReg_keeps (State_access_keeps hs))
      · split
        · split
          · exact State_writeHalf_keeps hs
          · exact State_putReg_keeps (State_access_keeps hs)
        · exact State_access_keeps hs

theorem State_fromStorage_keeps {s0 : State} {s fixed : State} {bad : Option FaultRec} {live : Nat} (hs : Keeps s0 s) (hf : Keeps s0 fixed) :
    Keeps s0 (State.fromStorage s bad live fixed).2 := by
  unfold State.fromStorage
  split
  · exact State_raise_keeps (State_drawn_keeps hs)
  · exact hf

theorem State_peek_keeps {s0 : State} {s : State} {m : Nat} {core : Nat} {base : Nat} {live : Nat} (hs : Keeps s0 s) :
    Keeps s0 (State.peek s m core base live).2 := by
  unfold State.peek
  split
  · exact State_fromStorage_keeps hs (State_counterFix_keeps hs)
  · exact State_fromStorage_keeps hs (State_rmnFix_keeps hs)
  · exact hs

theorem State_regRead_keeps {s0 : State} {s : State} {m : Nat} {core : Nat} {off : Nat} {size : Nat} (hs : Keeps s0 s) :
    Keeps s0 (State.regRead s m core off size).2 := by
  unfold State.regRead
  extract_lets x2 x3 x4 x5 x6 x7 x8
  have h9 : Keeps s0 x3.2 := by
    unfold x3
    exact State_peek_keeps hs
  clear_value x3
  have h10 : Keeps s0 x5 := by
    unfold x5
    exact State_access_keeps h9
  clear_value x5
  split
  · exact hs
  · split
    · exact h10
    · split
      · split
        · dsimp only
          exact Keeps.mk' h10 rfl rfl rfl
        · exact h10
      · split
        · exact h10
        · split
          · exact h10
          · dsimp only
            exact State_drawn_keeps h10

theorem execRegisterWrite_keeps {s0 : State} {master : Nat} {core : Nat} {offset : Nat} {size : Nat} {value : Nat} {s : State} (hs : Keeps s0 s) :
    OutKeeps s0 (execRegisterWrite master core offset size value s) := by
  unfold execRegisterWrite
  refine OutKeeps.whenever ?_ (fun h2 => ?_)
  · exact hs
  · exact State_regWrite_keeps hs

theorem State_bmcRead_keeps {s0 : State} {s : State} {off : Nat} (hs : Keeps s0 s) : Keeps s0 (State.bmcRead s off) := by
  unfold State.bmcRead
  split
  rename_i y2 y3 y4 y5
  exact State_out_keeps (Keeps.of_snd (State_regRead_keeps hs) y5)

theorem execRegRead_keeps {s0 : State} {offset : Nat} {s : State} (hs : Keeps s0 s) : OutKeeps s0 (execRegRead offset s) := by
  unfold execRegRead
  exact OutKeeps.guardWf (OutKeeps.next.2 (State_vendor_keeps hs (State_bmcRead_keeps hs)))

theorem State_bmcWrite_keeps {s0 : State} {s : State} {off : Nat} {v : Nat} (hs : Keeps s0 s) : Keeps s0 (State.bmcWrite s off v) := by
  unfold State.bmcWrite
  extract_lets x2
  have h3 : Keeps s0 x2 := by
    unfold x2
    exact State_regWrite_keeps hs
  clear_value x2
  split
  · exact State_out_keeps (State_drawn_keeps h3)
  · exact State_out_keeps h3

theorem execRegWrite_keeps {s0 : State} {offset : Nat} {value : Nat} {s : State} (hs : Keeps s0 s) :
    OutKeeps s0 (execRegWrite offset value s) := by
  unfold execRegWrite
  exact OutKeeps.guardWf (OutKeeps.next.2 (State_vendor_keeps hs (State_bmcWrite_keeps hs)))

end Sys2Proof.Machine
end

