-- ==== Sys2Proof/Laws/KeepsArmature.lean ====
section
/-! SUPPORT. The operations of Machine/Armature.lean keep what Keeps says. -/

namespace Sys2Proof.Machine

theorem State_poisonTrap_keeps {s0 : State} {s : State} {core : Nat} {c : Nat} {a : Nat} (hs : Keeps s0 s) :
    Keeps s0 (State.poisonTrap s core c a) := by
  unfold State.poisonTrap
  exact State_raise_keeps (State_trap_keeps hs)

theorem State_coreResult_keeps {s0 : State} {s : State} {core : Nat} {c : Nat} {a : Nat} {n : Nat} {base : Nat} {ls : List (Nat × Bool)} (hs : Keeps s0 s) :
    Keeps s0 (State.coreResult s core c a n base ls) := by
  unfold State.coreResult
  split
  · exact State_poisonTrap_keeps hs
  · exact State_out_keeps hs

theorem State_coreLoadHbm_keeps {s0 : State} {s : State} {core : Nat} {a : Nat} {n : Nat} (hs : Keeps s0 s) :
    Keeps s0 (State.coreLoadHbm s core a n) := by
  unfold State.coreLoadHbm
  extract_lets x2 x3 x4
  split
  · exact State_trap_keeps hs
  · split
    · exact State_raise_keeps (State_trap_keeps hs)
    · split
      rename_i y20 y21 y22 y23
      exact State_coreResult_keeps (Keeps.of_fst (State_takeLines_keeps hs) y23)

theorem State_coreLoadTile_keeps {s0 : State} {s : State} {core : Nat} {a : Nat} {n : Nat} (hs : Keeps s0 s) :
    Keeps s0 (State.coreLoadTile s core a n) := by
  unfold State.coreLoadTile
  extract_lets x2 x3
  split
  · exact State_trap_keeps hs
  · split
    · exact State_raise_keeps (State_trap_keeps hs)
    · exact State_coreResult_keeps hs

theorem State_coreLoadCounter_keeps {s0 : State} {s : State} {core : Nat} {a : Nat} {n : Nat} (hs : Keeps s0 s) :
    Keeps s0 (State.coreLoadCounter s core a n) := by
  unfold State.coreLoadCounter
  extract_lets x2 x3
  split
  · exact State_trap_keeps hs
  · split
    · exact State_raise_keeps (State_out_keeps (State_drawn_keeps hs))
    · exact State_out_keeps (State_counterFix_keeps hs)

theorem State_coreLoadReg_keeps {s0 : State} {s : State} {core : Nat} {a : Nat} {n : Nat} (hs : Keeps s0 s) :
    Keeps s0 (State.coreLoadReg s core a n) := by
  unfold State.coreLoadReg
  split
  · exact State_trap_keeps hs
  · split
    rename_i y7 y8 y9 y10
    exact State_out_keeps (Keeps.of_snd (State_regRead_keeps hs) y10)

theorem State_coreLoad_keeps {s0 : State} {s : State} {core : Nat} {a : Nat} {n : Nat} (hs : Keeps s0 s) :
    Keeps s0 (State.coreLoad s core a n) := by
  unfold State.coreLoad
  split
  · exact State_trap_keeps hs
  · split
    · exact State_coreLoadHbm_keeps hs
    · exact State_coreLoadTile_keeps hs
    · exact State_coreLoadCounter_keeps hs
    · exact State_coreLoadReg_keeps hs
    · exact State_trap_keeps hs

theorem execArmatureCoreLoad_keeps {s0 : State} {core : Nat} {addr : Nat} {bytes : Nat} {s : State} (hs : Keeps s0 s) :
    OutKeeps s0 (execArmatureCoreLoad core addr bytes s) := by
  unfold execArmatureCoreLoad
  refine OutKeeps.whenever ?_ (fun h2 => ?_)
  · exact hs
  · exact State_coreLoad_keeps hs

theorem State_issueParts_keeps {s0 : State} {s : State} {core : Nat} {c : Nat} {ps : List (Nat × Nat × Nat × Nat)} (hs : Keeps s0 s) :
    Keeps s0 (State.issueParts s core c ps) := by
  unfold State.issueParts
  exact Keeps.mk' hs rfl rfl rfl

theorem State_coreStoreHbm_keeps {s0 : State} {s : State} {core : Nat} {a : Nat} {n : Nat} {v : Nat} (hs : Keeps s0 s) :
    Keeps s0 (State.coreStoreHbm s core a n v) := by
  unfold State.coreStoreHbm
  exact Keeps.ite (fun _ => State_trap_keeps hs) fun _ => State_issueParts_keeps hs

theorem State_landBytes_keeps {s0 : State} {s : State} {t : Nat} {off : Nat} {n : Nat} {v : Nat} (hs : Keeps s0 s) :
    Keeps s0 (State.landBytes s t off n v) := by
  unfold State.landBytes
  split
  · exact State_landLine_keeps hs
  · extract_lets x7
    have h8 : Keeps s0 x7 := by
      unfold x7
      refine Keeps.modTile ?_ (fun w12 x10 h11 => ?_)
      · exact hs
      · exact Tile_putNarrow_keeps h11
    clear_value x7
    split
    · refine Keeps.foldl (fun x19 x20 h21 => ?_) ?_
      · exact State_logInput_keeps h21
      · exact h8
    · exact h8

theorem State_coreStoreTile_keeps {s0 : State} {s : State} {core : Nat} {a : Nat} {n : Nat} {v : Nat} (hs : Keeps s0 s) :
    Keeps s0 (State.coreStoreTile s core a n v) := by
  unfold State.coreStoreTile
  extract_lets x2
  split
  · exact State_trap_keeps hs
  · split
    · exact State_raise_keeps (State_trap_keeps hs)
    · exact State_landBytes_keeps hs

theorem State_coreStoreCounter_keeps {s0 : State} {s : State} {core : Nat} {a : Nat} {n : Nat} {v : Nat} (hs : Keeps s0 s) :
    Keeps s0 (State.coreStoreCounter s core a n v) := by
  unfold State.coreStoreCounter
  extract_lets x2
  split
  · exact State_trap_keeps hs
  · exact State_sendSyu_keeps hs

theorem State_coreStoreReg_keeps {s0 : State} {s : State} {core : Nat} {a : Nat} {n : Nat} {v : Nat} (hs : Keeps s0 s) :
    Keeps s0 (State.coreStoreReg s core a n v) := by
  unfold State.coreStoreReg
  split
  · exact State_trap_keeps hs
  · exact State_regWrite_keeps hs

theorem State_coreStore_keeps {s0 : State} {s : State} {core : Nat} {a : Nat} {n : Nat} {v : Nat} (hs : Keeps s0 s) :
    Keeps s0 (State.coreStore s core a n v) := by
  unfold State.coreStore
  split
  · exact State_trap_keeps hs
  · split
    · exact State_coreStoreHbm_keeps hs
    · exact State_coreStoreTile_keeps hs
    · exact State_coreStoreCounter_keeps hs
    · exact State_coreStoreReg_keeps hs
    · exact State_trap_keeps hs

theorem execArmatureCoreStore_keeps {s0 : State} {core : Nat} {addr : Nat} {bytes : Nat} {value : Nat} {s : State} (hs : Keeps s0 s) :
    OutKeeps s0 (execArmatureCoreStore core addr bytes value s) := by
  unfold execArmatureCoreStore
  refine OutKeeps.whenever ?_ (fun h2 => ?_)
  · exact hs
  · exact State_coreStore_keeps hs

theorem execArmatureCounterStore_keeps {s0 : State} {core : Nat} {addr : Nat} {value : Nat} {s : State} (hs : Keeps s0 s) :
    OutKeeps s0 (execArmatureCounterStore core addr value s) := by
  unfold execArmatureCounterStore
  refine OutKeeps.whenever ?_ (fun h2 => ?_)
  · exact hs
  · exact State_coreStore_keeps hs

end Sys2Proof.Machine
end

