-- ==== Sys2Proof/Laws/KeepsColl.lean ====
section
/-! SUPPORT. The operations of Machine/Coll.lean keep what Keeps says. -/

namespace Sys2Proof.Machine

theorem State_hbmRun_keeps {s0 : State} {s : State} {c : Nat} {va : Nat} {n : Nat} (hs : Keeps s0 s) :
    Keeps s0 (State.hbmRun s c va n).1 := by
  unfold State.hbmRun
  exact State_takeLines_keeps hs

theorem State_cStore_keeps {s0 : State} {s : State} {d : CDesc} {ls : List PLine} (hs : Keeps s0 s) : Keeps s0 (State.cStore s d ls) := by
  unfold State.cStore
  extract_lets x2 x3
  have h4 : Keeps s0 x3 := by
    unfold x3
    split
    · exact hs
    · exact State_issueMem_keeps hs
  clear_value x3
  split
  · refine Keeps.foldl (fun x14 x15 h16 => ?_) ?_
    · exact State_sendPeer_keeps h16
    · exact h4
  · exact h4

theorem State_cRun_keeps {s0 : State} {s : State} {d : CDesc} {f : Nat → List PLine → List PLine → DrfOut} (hs : Keeps s0 s) :
    Keeps s0 (State.cRun s d f) := by
  unfold State.cRun
  extract_lets x2
  split
  · exact State_cdescFault_keeps hs
  · split
    rename_i y12 y13 y14 y15
    split
    rename_i y17 y18 y19 y20
    extract_lets x22 x23 x24
    have h25 : Keeps s0 x24 := by
      unfold x24
      exact State_cStore_keeps (State_modCDesc_keeps (Keeps.of_fst (State_hbmRun_keeps (Keeps.of_fst (State_hbmRun_keeps hs) y15)) y20))
    clear_value x24
    split
    · exact h25
    · exact State_raise_keeps h25

theorem State_cStart_keeps {s0 : State} {s : State} {u : Nat} {q : Nat} {run : State → CDesc → State} (hs : Keeps s0 s) (hfrun : ∀ y0 y1, Keeps s0 y0 → Keeps s0 (run y0 y1)) :
    Keeps s0 (State.cStart s u q run) := by
  unfold State.cStart
  split
  · exact hs
  · extract_lets x9 x10 x11 x12 x13 x14 x15
    have h16 : Keeps s0 x13 := by
      unfold x13
      exact Keeps.mk' hs rfl rfl rfl
    clear_value x13
    have h19 : Keeps s0 x15 := by
      unfold x15
      exact State_eccRead_keeps h16
    clear_value x15
    split
    · exact State_cdescFault_keeps h16
    · split
      · exact State_cdescFault_keeps h19
      · split
        · exact State_cdescFault_keeps h19
        · apply hfrun
          exact h19

theorem execCollectiveExpmax_keeps {s0 : State} {unit : Nat} {queue : Nat} {s : State} (hs : Keeps s0 s) :
    OutKeeps s0 (execCollectiveExpmax unit queue s) := by
  unfold execCollectiveExpmax
  refine OutKeeps.whenever ?_ (fun h2 => ?_)
  · exact hs
  · apply State_cStart_keeps
    · exact hs
    · intro x7
      intro x9
      intro x11
      exact State_cRun_keeps x11

theorem execCollectiveEncode_keeps {s0 : State} {unit : Nat} {queue : Nat} {s : State} (hs : Keeps s0 s) :
    OutKeeps s0 (execCollectiveEncode unit queue s) := by
  unfold execCollectiveEncode
  refine OutKeeps.whenever ?_ (fun h2 => ?_)
  · exact hs
  · apply State_cStart_keeps
    · exact hs
    · intro x7
      intro x9
      intro x11
      exact State_cRun_keeps x11

theorem execCollectiveAdd_keeps {s0 : State} {unit : Nat} {queue : Nat} {s : State} (hs : Keeps s0 s) :
    OutKeeps s0 (execCollectiveAdd unit queue s) := by
  unfold execCollectiveAdd
  refine OutKeeps.whenever ?_ (fun h2 => ?_)
  · exact hs
  · apply State_cStart_keeps
    · exact hs
    · intro x7
      intro x9
      intro x11
      exact State_cRun_keeps x11

theorem execCollectiveDecode_keeps {s0 : State} {unit : Nat} {queue : Nat} {s : State} (hs : Keeps s0 s) :
    OutKeeps s0 (execCollectiveDecode unit queue s) := by
  unfold execCollectiveDecode
  refine OutKeeps.whenever ?_ (fun h2 => ?_)
  · exact hs
  · apply State_cStart_keeps
    · exact hs
    · intro x7
      intro x9
      intro x11
      exact State_cRun_keeps x11

theorem State_hashRanges_keeps {s0 : State} {s : State} {c : Nat} {acc : Nat × Nat} {bad : Bool} {x4 : List (Nat × Nat)} (hs : Keeps s0 s) :
    Keeps s0 (State.hashRanges s c acc bad x4).1 := by
  induction x4 generalizing s acc bad with
  | nil => exact hs
  | cons x xs ih => exact ih (State_hbmRun_keeps hs)

theorem State_sendDigest_keeps {s0 : State} {s : State} {c : Nat} {x : DigestRec} (hs : Keeps s0 s) :
    Keeps s0 (State.sendDigest s c x) := by
  unfold State.sendDigest
  extract_lets x2
  exact State_out_keeps hs

theorem State_digestResult_keeps {s0 : State} {s : State} {d : CDesc} {own : Nat × Bool} {twin : Nat × Bool} {notHeld : Bool} (hs : Keeps s0 s) :
    Keeps s0 (State.digestResult s d own twin notHeld) := by
  unfold State.digestResult
  extract_lets x2 x3 x4 x5
  have h6 : Keeps s0 x5 := by
    unfold x5
    exact State_cStore_keeps (State_modCDesc_keeps hs)
  clear_value x5
  split
  · exact State_raise_keeps h6
  · exact h6

theorem State_ownDigest_keeps {s0 : State} {s : State} {d : CDesc} {digest : Nat} {bad : Bool} (hs : Keeps s0 s) :
    Keeps s0 (State.ownDigest s d digest bad) := by
  unfold State.ownDigest
  extract_lets x2 x3 x4 x5
  have h6 : Keeps s0 x4 := by
    unfold x4
    exact State_modCDesc_keeps (State_sendDigest_keeps (Keeps.mk' hs rfl rfl rfl))
  clear_value x4
  split
  · exact State_digestResult_keeps (Keeps.mk' h6 rfl rfl rfl)
  · assumption

theorem State_cDigestRun_keeps {s0 : State} {s : State} {d : CDesc} (hs : Keeps s0 s) : Keeps s0 (State.cDigestRun s d) := by
  unfold State.cDigestRun
  extract_lets x2
  split
  · exact State_cdescFault_keeps hs
  · split
    rename_i y12 y13 y14 y15
    extract_lets x17
    split
    · exact State_cdescFault_keeps (Keeps.of_fst (State_hbmRun_keeps hs) y15)
    · split
      · exact State_cdescFault_keeps (Keeps.of_fst (State_hbmRun_keeps hs) y15)
      · split
        · exact State_cdescFault_keeps (Keeps.of_fst (State_hbmRun_keeps hs) y15)
        · split
          · exact State_cdescFault_keeps (Keeps.of_fst (State_hbmRun_keeps hs) y15)
          · split
            rename_i y53 y54 y55 y56 y57
            exact State_ownDigest_keeps (Keeps.of_fst (State_hashRanges_keeps (Keeps.of_fst (State_hbmRun_keeps hs) y15)) y57)

theorem execCollectiveDigest_keeps {s0 : State} {unit : Nat} {queue : Nat} {s : State} (hs : Keeps s0 s) :
    OutKeeps s0 (execCollectiveDigest unit queue s) := by
  unfold execCollectiveDigest
  refine OutKeeps.whenever ?_ (fun h2 => ?_)
  · exact hs
  · apply State_cStart_keeps
    · exact hs
    · intro x7
      intro x9
      intro x11
      exact State_cDigestRun_keeps x11

theorem State_digestArrives_keeps {s0 : State} {s : State} {peerCtx : Nat} {tag : Nat} {label : Nat} {digest : Nat} {poisoned : Bool} {ask : Bool} {notHeld : Bool} (hs : Keeps s0 s) :
    Keeps s0 (State.digestArrives s peerCtx tag label digest poisoned ask notHeld) := by
  unfold State.digestArrives
  extract_lets x2 x3
  split
  · exact State_raise_keeps (State_nak_keeps hs)
  · split
    · exact State_nak_keeps hs
    · split
      · exact State_sendDigest_keeps hs
      · split
        · exact State_digestResult_keeps hs
        · exact Keeps.mk' hs rfl rfl rfl

theorem execDigestReceive_keeps {s0 : State} {peerCtx : Nat} {tag : Nat} {label : Nat} {digest : Nat} {poisoned : Bool} {ask : Bool} {notHeld : Bool} {s : State} (hs : Keeps s0 s) :
    OutKeeps s0 (execDigestReceive peerCtx tag label digest poisoned ask notHeld s) := by
  unfold execDigestReceive
  refine OutKeeps.whenever ?_ (fun h2 => ?_)
  · exact hs
  · exact State_digestArrives_keeps hs

theorem State_cdescDone_keeps {s0 : State} {s : State} {d : Nat} (hs : Keeps s0 s) : Keeps s0 (State.cdescDone s d) := by
  unfold State.cdescDone
  split
  · exact hs
  · extract_lets x9 x10 x11
    have h12 : Keeps s0 x10 := by
      unfold x10
      exact Keeps.mk' hs rfl rfl rfl
    clear_value x10
    have h15 : Keeps s0 x11 := by
      unfold x11
      split
      · exact State_incCounter_keeps h12
      · exact h12
    clear_value x11
    exact State_releaseRecord_keeps h15

theorem execCollectiveDescriptorComplete_keeps {s0 : State} {desc : Nat} {s : State} (hs : Keeps s0 s) :
    OutKeeps s0 (execCollectiveDescriptorComplete desc s) := by
  unfold execCollectiveDescriptorComplete
  refine OutKeeps.whenever ?_ (fun h2 => ?_)
  · exact hs
  · exact State_cdescDone_keeps hs

end Sys2Proof.Machine
end

