-- ==== Sys2Proof/Laws/KeepsControl.lean ====
section
/-! SUPPORT. The operations of Machine/Control.lean keep what Keeps says. -/

namespace Sys2Proof.Machine

theorem regEffect_keeps {s0 : State} {f : Op → RegSet → RegSet} {s : State} {o : Op} (hs : Keeps s0 s) : (regEffect f s o).Keeps s0 := by
  unfold regEffect
  exact Eff.keeps_done.2 (State_modRegs_keeps hs)

theorem execNop_keeps {s0 : State} {tile : Nat} {thread : Nat} {w : BitVec 128} {s : State} (hs : Keeps s0 s) :
    OutKeeps s0 (execNop tile thread w s) := by
  unfold execNop
  apply runOp_keeps
  · intro x3
    intro x5
    intro x7
    dsimp only [nopSpec]
    exact Eff.keeps_done.2 x7
  · exact hs

theorem execSetk_keeps {s0 : State} {tile : Nat} {thread : Nat} {w : BitVec 128} {s : State} (hs : Keeps s0 s) :
    OutKeeps s0 (execSetk tile thread w s) := by
  unfold execSetk
  apply runOp_keeps
  · intro x3
    intro x5
    intro x7
    dsimp only [setkSpec]
    exact regEffect_keeps x7
  · exact hs

theorem ldkEffect_keeps {s0 : State} {s : State} {o : Op} (hs : Keeps s0 s) : (ldkEffect s o).Keeps s0 := by
  unfold ldkEffect
  extract_lets x2
  split
  · trivial
  · exact Eff.keeps_done.2 (State_modRegs_keeps hs)

theorem execLdk_keeps {s0 : State} {tile : Nat} {thread : Nat} {w : BitVec 128} {s : State} (hs : Keeps s0 s) :
    OutKeeps s0 (execLdk tile thread w s) := by
  unfold execLdk
  apply runOp_keeps
  · intro x3
    intro x5
    intro x7
    dsimp only [ldkSpec]
    exact ldkEffect_keeps x7
  · exact hs

theorem loopEffect_keeps {s0 : State} {s : State} {o : Op} (hs : Keeps s0 s) : (loopEffect s o).Keeps s0 := by
  unfold loopEffect
  extract_lets x2 x3
  have h4 : Keeps s0 x3 := by
    unfold x3
    exact State_modRegs_keeps hs
  clear_value x3
  split
  · exact Eff.keeps_done.2 (State_advance_keeps h4)
  · exact Eff.keeps_done.2 (State_advance_keeps (State_modRegs_keeps h4))

theorem execLoop_keeps {s0 : State} {tile : Nat} {thread : Nat} {w : BitVec 128} {s : State} (hs : Keeps s0 s) :
    OutKeeps s0 (execLoop tile thread w s) := by
  unfold execLoop
  apply runOp_keeps
  · intro x3
    intro x5
    intro x7
    dsimp only [loopSpec]
    exact loopEffect_keeps x7
  · exact hs

theorem execPseti_keeps {s0 : State} {tile : Nat} {thread : Nat} {w : BitVec 128} {s : State} (hs : Keeps s0 s) :
    OutKeeps s0 (execPseti tile thread w s) := by
  unfold execPseti
  apply runOp_keeps
  · intro x3
    intro x5
    intro x7
    dsimp only [psetiSpec]
    exact regEffect_keeps x7
  · exact hs

theorem execPsetk_keeps {s0 : State} {tile : Nat} {thread : Nat} {w : BitVec 128} {s : State} (hs : Keeps s0 s) :
    OutKeeps s0 (execPsetk tile thread w s) := by
  unfold execPsetk
  apply runOp_keeps
  · intro x3
    intro x5
    intro x7
    dsimp only [psetkSpec]
    exact regEffect_keeps x7
  · exact hs

theorem execPsetm_keeps {s0 : State} {tile : Nat} {thread : Nat} {w : BitVec 128} {s : State} (hs : Keeps s0 s) :
    OutKeeps s0 (execPsetm tile thread w s) := by
  unfold execPsetm
  apply runOp_keeps
  · intro x3
    intro x5
    intro x7
    dsimp only [psetmSpec]
    exact Eff.keeps_done.2 (State_modRegs_keeps x7)
  · exact hs

theorem execPlog_keeps {s0 : State} {tile : Nat} {thread : Nat} {w : BitVec 128} {s : State} (hs : Keeps s0 s) :
    OutKeeps s0 (execPlog tile thread w s) := by
  unfold execPlog
  apply runOp_keeps
  · intro x3
    intro x5
    intro x7
    dsimp only [plogSpec]
    exact regEffect_keeps x7
  · exact hs

theorem execPstat_keeps {s0 : State} {tile : Nat} {thread : Nat} {w : BitVec 128} {s : State} (hs : Keeps s0 s) :
    OutKeeps s0 (execPstat tile thread w s) := by
  unfold execPstat
  apply runOp_keeps
  · intro x3
    intro x5
    intro x7
    dsimp only [pstatSpec]
    exact regEffect_keeps x7
  · exact hs

theorem execAli_keeps {s0 : State} {tile : Nat} {thread : Nat} {w : BitVec 128} {s : State} (hs : Keeps s0 s) :
    OutKeeps s0 (execAli tile thread w s) := by
  unfold execAli
  apply runOp_keeps
  · intro x3
    intro x5
    intro x7
    dsimp only [aliSpec]
    exact regEffect_keeps x7
  · exact hs

theorem execAadd_keeps {s0 : State} {tile : Nat} {thread : Nat} {w : BitVec 128} {s : State} (hs : Keeps s0 s) :
    OutKeeps s0 (execAadd tile thread w s) := by
  unfold execAadd
  apply runOp_keeps
  · intro x3
    intro x5
    intro x7
    dsimp only [aaddSpec]
    exact regEffect_keeps x7
  · exact hs

theorem execAaddk_keeps {s0 : State} {tile : Nat} {thread : Nat} {w : BitVec 128} {s : State} (hs : Keeps s0 s) :
    OutKeeps s0 (execAaddk tile thread w s) := by
  unfold execAaddk
  apply runOp_keeps
  · intro x3
    intro x5
    intro x7
    dsimp only [aaddkSpec]
    exact regEffect_keeps x7
  · exact hs

theorem ldaEffect_keeps {s0 : State} {s : State} {o : Op} (hs : Keeps s0 s) : (ldaEffect s o).Keeps s0 := by
  unfold ldaEffect
  extract_lets x2
  split
  · trivial
  · exact Eff.keeps_done.2 (State_modRegs_keeps hs)

theorem execLda_keeps {s0 : State} {tile : Nat} {thread : Nat} {w : BitVec 128} {s : State} (hs : Keeps s0 s) :
    OutKeeps s0 (execLda tile thread w s) := by
  unfold execLda
  apply runOp_keeps
  · intro x3
    intro x5
    intro x7
    dsimp only [ldaSpec]
    exact ldaEffect_keeps x7
  · exact hs

theorem execSta_keeps {s0 : State} {tile : Nat} {thread : Nat} {w : BitVec 128} {s : State} (hs : Keeps s0 s) :
    OutKeeps s0 (execSta tile thread w s) := by
  unfold execSta
  apply runOp_keeps
  · intro x3
    intro x5
    intro x7
    dsimp only [staSpec]
    exact Eff.keeps_done.2 (State_opNarrow_keeps x7)
  · exact hs

theorem execStk_keeps {s0 : State} {tile : Nat} {thread : Nat} {w : BitVec 128} {s : State} (hs : Keeps s0 s) :
    OutKeeps s0 (execStk tile thread w s) := by
  unfold execStk
  apply runOp_keeps
  · intro x3
    intro x5
    intro x7
    dsimp only [stkSpec]
    exact Eff.keeps_done.2 (State_opNarrow_keeps x7)
  · exact hs

theorem copyLines_keeps {s0 : State} {o : Op} {src : Nat} {dst : Nat} {x3 : Nat} {x4 : State} (hx4 : Keeps s0 x4) :
    Keeps s0 (copyLines o src dst x3 x4) := by
  induction x3 generalizing x4 src dst with
  | zero => exact hx4
  | succ n ih => exact ih (State_opLine_keeps hx4)

theorem execMovl_keeps {s0 : State} {tile : Nat} {thread : Nat} {w : BitVec 128} {s : State} (hs : Keeps s0 s) :
    OutKeeps s0 (execMovl tile thread w s) := by
  unfold execMovl
  apply runOp_keeps
  · intro x3
    intro x5
    intro x7
    dsimp only [movlSpec]
    exact Eff.keeps_done.2 (copyLines_keeps x7)
  · exact hs

theorem execZero_keeps {s0 : State} {tile : Nat} {thread : Nat} {w : BitVec 128} {s : State} (hs : Keeps s0 s) :
    OutKeeps s0 (execZero tile thread w s) := by
  unfold execZero
  apply runOp_keeps
  · intro x3
    intro x5
    intro x7
    dsimp only [zeroSpec]
    exact Eff.keeps_done.2 (State_opLines_keeps x7)
  · exact hs

theorem execHrd_keeps {s0 : State} {tile : Nat} {thread : Nat} {w : BitVec 128} {s : State} (hs : Keeps s0 s) :
    OutKeeps s0 (execHrd tile thread w s) := by
  unfold execHrd
  apply runOp_keeps
  · intro x3
    intro x5
    intro x7
    dsimp only [hrdSpec]
    refine Eff.keeps_done.2 ?_
    split
    · exact State_takeTicket_keeps x7
    · exact State_issueMem_keeps (State_takeTicket_keeps x7)
  · exact hs

theorem execHwr_keeps {s0 : State} {tile : Nat} {thread : Nat} {w : BitVec 128} {s : State} (hs : Keeps s0 s) :
    OutKeeps s0 (execHwr tile thread w s) := by
  unfold execHwr
  apply runOp_keeps
  · intro x3
    intro x5
    intro x7
    dsimp only [hwrSpec]
    refine Eff.keeps_done.2 ?_
    split
    · exact State_asyncTicket_keeps (State_outside_keeps x7)
    · exact State_issueMem_keeps (State_asyncTicket_keeps (State_outside_keeps x7))
  · exact hs

end Sys2Proof.Machine
end

