-- ==== Sys2Proof/Laws/KeepsFirmwareDma.lean ====
section
/-! SUPPORT. The operations of Machine/FirmwareDma.lean keep what Keeps says. -/

namespace Sys2Proof.Machine

theorem foldl_snd_keeps {α β : Type} {s0 : State} {f : β × State → α → β × State}
    (hf : ∀ x a, Keeps s0 x.2 → Keeps s0 (f x a).2) : ∀ {l : List α} {x : β × State}, Keeps s0 x.2 → Keeps s0 (l.foldl f x).2
  | [], _, h => h
  | _ :: l, _, h => foldl_snd_keeps hf (l := l) (hf _ _ h)

theorem State_readRegs_keeps {s0 : State} {s : State} {off : Nat} (hs : Keeps s0 s) : Keeps s0 (State.readRegs s off).2 := by
  unfold State.readRegs
  generalize List.range 8 = ls
  refine foldl_snd_keeps (x := (0, s)) (fun _ _ h => ?_) hs
  exact State_regRead_keeps h

theorem State_writeRegs_keeps {s0 : State} {s : State} {off : Nat} {v : Nat} (hs : Keeps s0 s) : Keeps s0 (State.writeRegs s off v) := by
  unfold State.writeRegs
  generalize List.range 8 = ls
  exact Keeps.foldl (fun _ _ h => State_regWrite_keeps h) hs

theorem State_flushRegs_keeps {s0 : State} {s : State} {d : Nat} (hs : Keeps s0 s) : Keeps s0 (State.flushRegs s d) := by
  unfold State.flushRegs
  split
  · exact hs
  · rename_i x _
    extract_lets x2
    have h : Keeps s0 x2 := by
      unfold x2
      generalize x.regLines = ls
      exact Keeps.foldl (fun _ _ h => State_writeRegs_keeps h) hs
    clear_value x2
    exact State_modDesc_keeps h

theorem State_moveReg_keeps {s0 : State} {s : State} {d i : Nat} (hs : Keeps s0 s) : Keeps s0 (State.moveReg s d i) := by
  unfold State.moveReg
  split
  · exact hs
  · split
    · exact hs
    · split
      rename_i v x1 e
      exact State_flushRegs_keeps (State_dmaStore_keeps (State_modDesc_keeps (Keeps.of_snd (State_readRegs_keeps hs) e)))

theorem State_moveRegs_keeps {s0 : State} {s : State} {d lines : Nat} (hs : Keeps s0 s) : Keeps s0 (State.moveRegs s d lines) := by
  unfold State.moveRegs
  exact Keeps.foldl (fun _ _ h => State_moveReg_keeps h) hs

theorem State_runRegs_keeps {s0 : State} {s : State} {d : Nat} (hs : Keeps s0 s) : Keeps s0 (State.runRegs s d) := by
  unfold State.runRegs
  split
  · exact hs
  · split
    · exact State_moveRegs_keeps hs
    · exact State_flushRegs_keeps hs

theorem execDmaDescriptorComplete_keeps {s0 : State} {descriptor : Nat} {s : State} (hs : Keeps s0 s) :
    OutKeeps s0 (execDmaDescriptorComplete descriptor s) := by
  unfold execDmaDescriptorComplete
  refine OutKeeps.whenever ?_ (fun _ => ?_)
  · exact hs
  · split
    · exact State_runRegs_keeps hs
    · exact State_descDone_keeps hs

end Sys2Proof.Machine
end

