-- ==== Sys2Proof/Tests/Slice0.lean ====
section
/-! SUPPORT. Tests on small states: for each statement of Certificates/Slice0/Obligations.lean a state and operands that meet its hypotheses,
clause by clause, with what the command then answers; and an ill-formed command for each check of WellFormed. Every expected result is written
from the rule that the statement cites. -/

open Sys2Proof Sys2Proof.Machine

namespace Sys2Proof.Tests

set_option Elab.async false

/-- The outcome is a next state, and `p` holds of it. -/
def after (o : Host.Outcome State Fault Refusal) (p : State → Bool) : Bool :=
  match o with
  | .next t => p t
  | _ => false

/-- The outcome is the next state `t`. -/
def isAfter (o : Host.Outcome State Fault Refusal) (t : State) : Bool := after o fun u => decide (u = t)

/-- An operation word: class, OP, FMT, OPD, OPA, OPB, LEN and AUX, with what else is set in its low word. -/
def word (cls op fmt d a b len : Nat) (aux : Nat := 0) (low : Nat := 0) : BitVec 128 :=
  BitVec.ofNat 128 (cls + op * 2 ^ 4 + low + fmt * 2 ^ 28 + d * 2 ^ 32 + a * 2 ^ 56 + b * 2 ^ 80 + len * 2 ^ 104 + aux * 2 ^ 120)

/-- NONE, the line `l` from a0 on, and the base register `r` with POSTINC, as operand fields; TKTEN with ticket 0. -/
def non : Nat := 0x30
def at_ (l : Nat) : Nat := 256 * l
def inc (r : Nat) : Nat := 0x10 + r
def tk0 : Nat := 2 ^ 27

/-- A thread that issues, with a1 to a3 at lines 8, 16 and 24 of tile memory. -/
def tThread : Thread := { st := .issuing, main := { a := [(1, 512), (2, 1024), (3, 1536)] } }

/-- A tile whose threads and agents may do everything with all of its memory. -/
def tTile : Tile :=
  { cfg := { bankPwr := 0xFFFFFFFF, regions := [(0, 32768 * 2 ^ 16 + 0x1FFF * 2 ^ 32)] }
    threads := [(0, tThread), (1, tThread), (2, tThread), (3, tThread)] }

/-- Context 0 runs on tile set 0, in group 0, with one block of counters and two frames. -/
def tState : State :=
  { State.reset with
    tsets := [(0, { owner := 0, group := 0, st := .running })], tiles := [(0, tTile)]
    ctxs := [(0, { st := .running, groups := [0], tableValid := true, blocks := 1, fmFrames := 2 })], groups := [(0, { owner := 0 })]
    pwr := { State.reset.pwr with domains := (List.range 20).map fun d => (d, { st := 2 }) } }

/-- The operation issues and passes every check on the tile `t`, and answers a next state. -/
def tileGoes (c : BitVec 128 → Instr) (w : BitVec 128) (sp : OpSpec) (t : Tile := tTile) : Bool :=
  let s := { tState with tiles := [(0, t)] }
  s.goes (c w) 0 0 w sp && s.calm 0 && isNext (exec (c w) s)

/-- Thread 0 of tile 0, with ticket 0. -/
def tWho : Who := { tile := 0, thread := 0, fill := false, tk := some 0, opIndex := 0 }

/-- A binding of context 0 with context 3 of the peer, and a port that is Up. -/
def bBind (st : Nat) : Binding := { st := st, peerCtx := 3, tag := 77, peerId := 5 }
def upPort : Port := { st := .up, peerId := 5, version := 2 }

/-- A channel of the mailboxes, in place of channel 7. -/
def chanState (x : Channel) : State :=
  { tState with
    hif := { tState.hif with configReady := true, dlUp := true }, mbx := { tState.mbx with channels := mset {} tState.mbx.channels 7 x }, now := 1000000 }
def chanSent (x : Channel) (len : Nat) : Channel := { x with full := true, len := len, seq := x.seq + 1, armed := 10, since := 1000000 }

/-- The device has booted from slot `slot` (0: not), both blades are up and the host's link too. -/
def upState (slot : Nat) : State :=
  { tState with
    hif := { tState.hif with configReady := true, dlUp := true }, pln := { tState.pln with slot := slot, pb0 := true, pb1 := true } }

namespace TileOps

theorem witness_registerOperations :
    tileGoes (.nop 0 0) (word 0 0 0 non non non 0) nopSpec ∧
    tileGoes (.setk 0 0) (word 0 1 0 7 non non 0xFFFF 0xFF) setkSpec ∧
    tileGoes (.pseti 0 0) (word 1 0 0 7 non non 1) psetiSpec ∧ tileGoes (.pseti 0 0) (word 1 0 0 0 non non 0) psetiSpec ∧
    tileGoes (.psetk 0 0) (word 1 1 3 1 7 non 0xFFFF) psetkSpec ∧
    tileGoes (.plog 0 0) (word 1 3 3 7 1 2 0) plogSpec ∧
    tileGoes (.pstat 0 0) (word 1 4 0 1 non non 0 3) pstatSpec ∧
    tileGoes (.ali 0 0) (word 2 0 0 15 0xFFFFFF 0xFFFFFF 0xFF) aliSpec ∧ tileGoes (.ali 0 0) (word 2 0 0 0 1 0 0) aliSpec ∧
    tileGoes (.aadd 0 0) (word 2 1 0 15 1 non 0xFFFF 0xFF) aaddSpec ∧
    tileGoes (.aaddk 0 0) (word 2 2 0 1 1 7 1) aaddkSpec := by decide +kernel

def k7 (t : Tile) : Tile := { t with mem := [(512, 7)], threads := (mset {} t.threads 0 { tThread with main := { tThread.main with k := [(1, 9)] } }) }
theorem witness_memoryRegisterOperations :
    tileGoes (.ldk 0 0) (word 0 2 0 7 (inc 1) non 7) ldkSpec (k7 tTile) ∧
    memRead (k7 tTile).mem 512 4 ≤ wImm (word 0 2 0 7 (inc 1) non 7).toNat ∧
    tileGoes (.psetm 0 0) (word 1 2 2 1 (inc 1) non 7) psetmSpec ∧
    tileGoes (.lda 0 0) (word 2 3 0 15 (inc 1) non 0) ldaSpec ∧ bits (memRead (k7 tTile).mem 512 8) 56 8 = 0 ∧
    tileGoes (.sta 0 0) (word 2 4 0 (inc 2) 1 non 0) staSpec ∧
    tileGoes (.stk 0 0) (word 2 5 0 (at_ 32767) 7 non 0) stkSpec ∧
    tileGoes (.loop 0 0) (word 0 3 0 1 non non 0xFFFF) loopSpec (k7 tTile) ∧
    tileGoes (.loop 0 0) (word 0 3 0 2 non non 1) loopSpec (k7 tTile) := by decide +kernel

theorem witness_lineOperations :
    tileGoes (.movl 0 0) (word 3 0 0 (inc 1) (inc 2) non 2) movlSpec ∧ tileGoes (.zero 0 0) (word 3 1 0 (at_ 32767) non non 1) zeroSpec ∧
    (let w := word 3 0 0 (at_ 10) (at_ 8) non 4
     let t := { tTile with mem := [(512, 7), (576, 9)], poison := [(9, true)] }
     tileGoes (.movl 0 0) w movlSpec t ∧
     after (exec (.movl 0 0 w) { tState with tiles := [(0, t)] }) (fun u =>
       decide ([10, 11, 12, 13].map (u.tile 0).line = [7, 9, 7, 9]) && decide ([10, 11, 12, 13].map (u.tile 0).poisoned = [false, true, false, true]))) := by
  decide +kernel

theorem witness_hbmOperations :
    tileGoes (.hrd 0 0) (word 3 2 0 (inc 1) (inc 2) non 2 0 tk0) hrdSpec ∧
    tileGoes (.hwr 0 0) (word 3 3 0 (inc 1) (inc 2) non 2 0 tk0) hwrSpec ∧
    tileGoes (.hwr 0 0) (word 3 3 0 (inc 1) (inc 2) non 2 0 tk0) hwrSpec
      { tTile with threads := [(0, { tThread with suppressOut := 1 })] } := by decide +kernel

theorem witness_matrixOperations :
    tileGoes (.mzero 0 0) (word 4 0 1 3 non non 0xFFFF) mzeroSpec ∧
    tileGoes (.mma 0 0) (word 4 1 0 3 (inc 1) (inc 2) 1 0) mmaSpec ∧
    tileGoes (.msf64 0 0) (word 4 2 0 0 (inc 1) (inc 2) 1) msf64Spec ∧
    tileGoes (.mrd 0 0) (word 4 3 0 (inc 1) 3 non 16 2) mrdSpec ∧
    tileGoes (.msave 0 0) (word 4 4 0 (inc 1) 3 non 80) msaveSpec ∧
    tileGoes (.mrestore 0 0) (word 4 5 0 0 (inc 1) non 80 1) mrestoreSpec ∧
    tileGoes (.mrestore 0 0) (word 4 5 0 0 (inc 1) non 80) mrestoreSpec ∧
    (∀ n < 4, (tTile.block n).sound = true) ∧ tTile.err.mxeUpset = none := by decide +kernel

end TileOps

namespace Detections

/-- The operation would execute on the tile `t`, and ends as a detection of this kind and place. -/
def seen (c : BitVec 128 → Instr) (w : BitVec 128) (sp : OpSpec) (t : Tile) (k : DetKind) (place : Nat) : Bool :=
  let s := { tState with tiles := [(0, t)] }
  s.goes (c w) 0 0 w sp && isAfter (exec (c w) s) ((s.issueState 0 0).detect 0 ((s.opOf 0 0 w).det k place))
/-- Entry 0 of block `b` disagrees with its residue; a mismatch waits in stage `k` of the MXE; of the VXE, where the tile commits an update;
entry `n` of the operand cache disagrees with its parity. -/
def unsound (b : Nat) : Tile := { tTile with blocks := [(b, { res := [(0, 1)] })] }
def mUpset (k : Nat) : Tile := { tTile with err := { tTile.err with mxeUpset := some k } }
def vUpset (k : Nat) : Tile := { tTile with gate := .commit, err := { tTile.err with vxeUpset := some k } }
/-- Partial 0 of norm accumulator `n` disagrees with its residue. -/
def badNorm (n : Nat) : Tile := { tTile with gate := .commit, norms := [(n, { res := [(0, 1)] })] }
def badEntry (n : Nat) : Tile := { tTile with gate := .commit, err := { tTile.err with badCache := [(n, true)] } }

theorem witness_matrixDetections :
    (let mma := word 4 1 0 3 (inc 1) (inc 2) 1 0
     seen (.mma 0 0) mma mmaSpec (unsound 3) (.residue false 7) 0 && seen (.mma 0 0) mma mmaSpec (mUpset 4) (.residue false 4) 0) ∧
    (let msf := word 4 2 0 0 (inc 1) (inc 2) 1
     seen (.msf64 0 0) msf msf64Spec (unsound 0) (.residue false 7) 0 && seen (.msf64 0 0) msf msf64Spec (mUpset 3) (.residue false 3) 0) ∧
    (let mrd := word 4 3 0 (inc 1) 3 non 16 2
     seen (.mrd 0 0) mrd mrdSpec (unsound 3) (.residue false 7) 0 && seen (.mrd 0 0) mrd mrdSpec (mUpset 6) (.residue false 6) 0) ∧
    (let msave := word 4 4 0 (inc 1) 3 non 80
     seen (.msave 0 0) msave msaveSpec (unsound 3) (.residue false 7) 0 && seen (.msave 0 0) msave msaveSpec (mUpset 7) (.residue false 7) 0) ∧
    (let mrestore := word 4 5 0 0 (inc 1) non 80 1
     seen (.mrestore 0 0) mrestore mrestoreSpec (unsound 0) (.residue false 7) 0 &&
       seen (.mrestore 0 0) mrestore mrestoreSpec (mUpset 4) (.residue false 4) 0) ∧
    seen (.mrestore 0 0) (word 4 5 0 0 (inc 1) non 80) mrestoreSpec (mUpset 7) (.residue false 7) 0 := by decide +kernel

theorem witness_vectorStageDetections :
    (let stage (k : Nat) (c : BitVec 128 → Instr) (w : BitVec 128) (sp : OpSpec) : Bool := seen c w sp (vUpset k) (.residue true k) 0
     stage 5 (.vew 0 0) (word 5 0 0 (inc 1) (inc 2) (at_ 9) 2 0x10) vewSpec ∧ stage 2 (.vfma 0 0) (word 5 1 1 (inc 1) (inc 2) (at_ 9) 1 1) vfmaSpec ∧
     stage 1 (.vcvt 0 0) (word 5 2 0 (inc 1) (inc 2) non 1 2) vcvtSpec ∧ stage 2 (.vred 0 0) (word 5 3 0 (inc 1) (inc 2) non 2 0) vredSpec ∧
     stage 1 (.vnormAcc 0 0) (word 5 4 0 non (inc 1) non 1 3) vnormAccSpec ∧
     stage 5 (.vnormRead 0 0) (word 5 4 1 (inc 1) non non 1 3) vnormReadSpec ∧
     stage 6 (.vopt 0 0) (word 5 5 0 (inc 1) (inc 2) (inc 3) 1) voptSpec ∧
     stage 7 (.vgrn 0 0) (word 5 6 0 (inc 1) non 15 1) vgrnSpec) := by decide +kernel

theorem witness_normDetections :
    seen (.vew 0 0) (word 5 0 0 (inc 1) (inc 2) (at_ 9) 2 0x10) vewSpec (badNorm 0) (.residue true 5) 0 ∧
    seen (.vnormAcc 0 0) (word 5 4 0 non (inc 1) non 1 3) vnormAccSpec (badNorm 3) (.residue true 5) 0 ∧
    seen (.vnormRead 0 0) (word 5 4 1 (inc 1) non non 1 3) vnormReadSpec (badNorm 3) (.residue true 5) 0 ∧
    (let w := word 5 8 0 (inc 1) 15 non 1
     tileGoes (.vocs 0 0) w vocsSpec (vUpset 2)) := by decide +kernel

theorem witness_cacheDetections :
    seen (.vew 0 0) (word 5 0 4 (inc 1) 15 (at_ 9) 2 0x10) vewSpec (badEntry 15) .cache 15 ∧
    seen (.vew 0 0) (word 5 0 8 (inc 1) (inc 2) 15 2 0x10) vewSpec (badEntry 15) .cache 15 ∧
    seen (.vfma 0 0) (word 5 1 (1 + 8) (inc 1) (inc 2) 15 1 1) vfmaSpec (badEntry 15) .cache 15 ∧
    seen (.vcvt 0 0) (word 5 2 0 (inc 1) (inc 2) 3 1 (2 + 2 * 16)) vcvtSpec (badEntry 3) .cache 3 ∧
    seen (.vopt 0 0) (word 5 5 0 (inc 1) (inc 2) (inc 3) 1) voptSpec (badEntry 0) .cache 0 ∧
    seen (.vgrn 0 0) (word 5 6 0 (inc 1) non 15 1) vgrnSpec (badEntry 15) .cache 15 ∧
    seen (.vocs 0 0) (word 5 8 0 (inc 1) 15 non 1) vocsSpec (badEntry 15) .cache 15 := by decide +kernel

end Detections

namespace EngineOps

theorem witness_vectorOperations :
    tileGoes (.vew 0 0) (word 5 0 0 (inc 1) (inc 2) (at_ 9) 2 0x10) vewSpec ∧
    tileGoes (.vfma 0 0) (word 5 1 1 (inc 1) (inc 2) (at_ 9) 1 1) vfmaSpec ∧
    tileGoes (.vcvt 0 0) (word 5 2 0 (inc 1) (inc 2) non 1 2) vcvtSpec ∧
    tileGoes (.vcvt 0 0) (word 5 2 0 (inc 1) (inc 2) 3 1 (2 + 2 * 16)) vcvtSpec ∧
    tileGoes (.vred 0 0) (word 5 3 0 (inc 1) (inc 2) non 2 0) vredSpec := by decide +kernel

theorem witness_normGrainCacheOperations :
    tileGoes (.vnormAcc 0 0) (word 5 4 0 non (inc 1) non 1 3) vnormAccSpec ∧
    tileGoes (.vnormRead 0 0) (word 5 4 1 (inc 1) non non 1 3) vnormReadSpec ∧
    tileGoes (.vnormClear 0 0) (word 5 4 2 non non non 0 3) vnormClearSpec ∧
    tileGoes (.vgrn 0 0) (word 5 6 0 (inc 1) non 15 1) vgrnSpec ∧
    tileGoes (.vocl 0 0) (word 5 7 0 15 (inc 1) non 1) voclSpec ∧
    tileGoes (.vocs 0 0) (word 5 8 0 (inc 1) 15 non 1) vocsSpec := by decide +kernel

/-- FP32 infinities in the gradient line. -/
def infTile (g : GateSt) : Tile := { tTile with gate := g, mem := [(1026, 0x80), (1027, 0x7F)] }

theorem witness_optimiserUpdate :
    tileGoes (.vopt 0 0) (word 5 5 0 (inc 1) (inc 2) (inc 3) 1) voptSpec { tTile with gate := .commit } ∧
    tileGoes (.vopt 0 0) (word 5 5 0 (inc 1) (inc 2) (inc 3) 1) voptSpec { tTile with gate := .skip } ∧
    tileGoes (.vopt 0 0) (word 5 5 0 (inc 1) (inc 2) (inc 3) 1) voptSpec (infTile .skip) ∧
    (((infTile .skip).velems 0 16 1).map fun g => rnd fp32 (fMul (hyperOf 0).gam g)).any FVal.nonFinite = true ∧
    (let w := word 5 5 0 (inc 1) (inc 2) (inc 3) 1
     tileGoes (.vopt 0 0) w voptSpec (infTile .commit) ∧
     after (exec (.vopt 0 0 w) { tState with tiles := [(0, infTile .commit)] }) (fun u =>
       decide (u.pln.hold.map (fun r => (r.code, r.addr, r.locValid)) = [(0x0404, tileAddr 0 1024, true)]) && decide ((u.tile 0).mem = (infTile .commit).mem))) := by
  decide +kernel

/-- With eta and gamma 1, momentum coefficients 0 and a gradient of 1: a weight of `hi` × 2^16 less 1, a state of 1, and the norms with TAP. -/
def optTile (hi : Memory) : Tile :=
  { tTile with gate := .commit, cache := [(0, 0x3F800000 + 0x3F800000 * 2 ^ 288)], mem := List.append hi [(1026, 0x80), (1027, 0x3F)] }

theorem witness_optimiserWrites :
    (let w := word 5 5 0 (inc 1) (inc 2) (inc 3) 1 16
     let one := decodeF fp32 0x3F800000
     let run (x : Tile) := exec (.vopt 0 0 w) { tState with tiles := [(0, x)] }
     tileGoes (.vopt 0 0) w voptSpec (optTile []) ∧ tileGoes (.vopt 0 0) w voptSpec { optTile [] with gate := .off } ∧
     after (run (optTile [])) (fun t => let o := tState.opOf 0 0 w
       decide ((t.tile 0).mem = [(514, 0x80), (515, 0xBF), (1026, 0x80), (1027, 0x3F), (1538, 0x80), (1539, 0x3F)]) &&
       !((t.tile 0).thread 0).main.flags.nonfinite &&
       decide ((t.tile 0).norm o 0 = (tTile.norm o 0).taps 0 (List.replicate 16 fPosZero)) &&
       decide ((t.tile 0).norm o 1 = (tTile.norm o 1).taps 0 (one :: List.replicate 15 fPosZero)) &&
       decide ((t.tile 0).norm o 2 = (tTile.norm o 2).taps 0 (one :: List.replicate 15 fPosZero))) ∧
     after (run (optTile [(514, 0x80), (515, 0x7F)])) (fun t => ((t.tile 0).thread 0).main.flags.nonfinite)) := by decide +kernel

/-- The three other threads stand in state `st`. -/
def othersAt (st : ThreadSt) : Tile :=
  { tTile with threads := [(0, tThread), (1, { tThread with st := st }), (2, { tThread with st := st }), (3, { tThread with st := .halted })] }
def halfAt (st : ThreadSt) : Tile := { tTile with threads := [(0, tThread), (1, { st := st }), (2, { st := st }), (3, { st := st })] }

theorem witness_barrierOperations :
    tileGoes (.tbar 0 0) (word 0 4 0 non non non 0) tbarSpec ∧ tileGoes (.tbar 0 0) (word 0 4 0 non non non 0) tbarSpec (othersAt .atBarrier) ∧
    tileGoes (.halt 0 0) (word 0 5 0 non non non 0) haltSpec ∧ tileGoes (.halt 0 0) (word 0 5 0 non non non 0) haltSpec (othersAt .atBarrier) ∧
    tileGoes (.halt 0 0) (word 0 5 0 non non non 0) haltSpec (othersAt .atExchange) ∧
    tileGoes (.halt 0 0) (word 0 5 0 non non non 0) haltSpec (othersAt .halted) ∧
    tileGoes (.expt 0 0) (word 6 0 0 non (inc 1) (at_ 16) 1 1) exptSpec ∧
    tileGoes (.expt 0 0) (word 6 0 0 non non non 0) exptSpec (othersAt .atExchange) ∧
    tileGoes (.expt 0 0) (word 6 0 0 non non non 0) exptSpec (halfAt .atBarrier) := by decide +kernel

/-- A queue of tile 0 at line 100, and the handles of a router and of none in lines 16 and 24. -/
def qState : State :=
  let t := { tTile with mem := [(1044, 1), (1538, 0x40), (1539, 0x18), (1556, 1)], threads := [(0,
    { tThread with main := { a := [(1, 512), (2, 1024), (3, 1536), (4, BitVec.ofNat 56 (tileAddr 0 6400))] } })] }
  { tState with tiles := [(0, t)], rmn := { tState.rmn with queues := [(5, { addr := tileAddr 0 6400, ctx := 0, state := 2, listed := 2 })] } }

def qGoes (c : BitVec 128 → Instr) (w : BitVec 128) (sp : OpSpec) : Bool := qState.goes (c w) 0 0 w sp && isNext (exec (c w) qState)

theorem witness_messageOperations :
    qGoes (.mopenConnect 0 0) (word 7 0 0 (inc 1) 4 non 0 0 tk0) mopenConnectSpec ∧
    qGoes (.mopenListen 0 0) (word 7 0 1 non 4 non 0 0 tk0) mopenListenSpec ∧
    qGoes (.msend 0 0) (word 7 1 0 (inc 1) (at_ 16) (at_ 9) 32 0 tk0) msendSpec ∧ hValid ((qState.tile 0).line 16) ∧ hRoute ((qState.tile 0).line 16) < 0x1840 ∧
    qGoes (.msend 0 0) (word 7 1 0 (inc 1) (at_ 24) (at_ 9) 1 0 tk0) msendSpec ∧ hRoute ((qState.tile 0).line 24) = 0x1840 ∧
    qGoes (.mpop 0 0) (word 7 2 0 non 4 non 2) mpopSpec ∧
    qGoes (.mcloseRelease 0 0) (word 7 3 0 non (at_ 16) non 0) mcloseReleaseSpec ∧
    qGoes (.mcloseRelease 0 0) (word 7 3 0 non (at_ 24) non 0) mcloseReleaseSpec ∧
    qGoes (.mcloseClose 0 0) (word 7 3 1 non 4 non 0) mcloseCloseSpec := by decide +kernel

/-- An item of the tile is still on its way to the decision point of its own queue. -/
def qBehind : State :=
  { qState with rmn := { qState.rmn with items := [{
      id := 1, src := .tile 0, dest := qState.routeOf (qState.queue 5), hostCmd := none, ctx := 0, who := none, kind := 0, body := .release 5 0 }] } }

theorem witness_messageOperationsBehind :
    qState.ownBehind 0 (qState.routeOf (qState.queue 5)) = false ∧ qBehind.ownBehind 0 (qBehind.routeOf (qBehind.queue 5)) = true ∧
    (∀ i ∈ [(Instr.mopenListen 0 0 (word 7 0 1 non 4 non 0 0 tk0), OwnChange.listen, word 7 0 1 non 4 non 0 0 tk0, mopenListenSpec),
        (.mcloseClose 0 0 (word 7 3 1 non 4 non 0), .close, word 7 3 1 non 4 non 0, mcloseCloseSpec)],
      qBehind.goes i.1 0 0 i.2.2.1 i.2.2.2 = true ∧
      after (exec i.1 qBehind) (fun t => decide (t.rmn.queues = qBehind.rmn.queues) &&
        decide ((t.rmn.items.drop 1).map (fun x => (x.dest, x.ctx, x.who.isSome, x.body)) =
          [(qBehind.routeOf (qBehind.queue 5), 0, decide (i.2.1 = .listen), .own 5 i.2.1)])) = true) := by decide +kernel

end EngineOps

namespace CounterOps

/-- On the tile only threads and digests differ from `b`. -/
def regsOnly (b t : State) : Bool :=
  decide (t = { b with tiles := t.tiles }) &&
    decide (t.tile 0 = { b.tile 0 with threads := (t.tile 0).threads, digest := (t.tile 0).digest })
def cState (gate : GateSt) : State :=
  { tState with
    lnk := { tState.lnk with binds := [(0, { st := 2, peerCtx := 3, tag := 77 })] }
    ctxs := [(0, { tState.ctx 0 with timerOwned := true })]
    tels := [(0, { gateCfg := 255 })]
    tiles := [(0, { tTile with gate := gate, mem := [(512, 9)], threads := [(0, { tThread with main := { a := [(1, 512),
      (4, BitVec.ofNat 56 (3 * 2 ^ 52 + 8 * 254)), (5, BitVec.ofNat 56 (3 * 2 ^ 52 + 8 * 255)), (6, BitVec.ofNat 56 (2 * 2 ^ 52 + 3 * 2 ^ 44 + 8 * 7))] } })] })] }
def cGoes (g : GateSt) (c : BitVec 128 → Instr) (w : BitVec 128) (sp : OpSpec) (b : State → State) (p : State → Op → Bool) : Bool :=
  let s := cState g
  s.goes (c w) 0 0 w sp && s.calm 0 &&
    after (exec (c w) s) fun t =>
      regsOnly (b s) { t with syu := s.syu, nextId := s.nextId, outbox := s.outbox, lnk := s.lnk } && p t (s.opOf 0 0 w)
/-- Nothing left the block, and `n` numbers were drawn. -/
def quiet (t : State) (n : Nat) : Bool := decide (t.nextId = n) && decide (t.outbox = []) && decide (t.lnk = (cState .off).lnk)
def item_ (o : Op) (id : Nat) (b : SyuBody) : SyuItem :=
  { id := id, src := .tile 0, ctx := o.ctx, who := some o.who, hostCmd := none, tag := 0, body := b }

theorem witness_counterOperations :
    (cGoes .off (.cinc 0 0) (word 8 0 0 4 non non 16 0 tk0) cincSpec id fun t o =>
      quiet t 2 && decide (t.syu = { (cState .off).syu with inbound := [item_ o 1 (.inc 254 16)] }) : Bool) ∧
    (cGoes .commit (.cinc 0 0) (word 8 0 0 5 non non 1) cincSpec (fun s => s.modTile 0 fun y => { y with gate := .wait, gateStep := 1 }) fun t o =>
      quiet t 2 && decide (t.syu = { (cState .off).syu with inbound := [item_ o 1 (.inc 255 1)] }) : Bool) ∧
    (cGoes .commit (.cinc 0 0) (word 8 0 0 6 non non 1) cincSpec id fun t o => 
      let s := cState .commit
      let sent := s.sendLink (s.lnk.wire 0) 0 s.stampNow (headOf 4 o.ctx 3 1 0 (bits o.d 0 40 + 3 * 2 ^ 52) 2 77 1)
      decide (t.nextId = 3) && decide (t.syu = s.syu) && decide (t.outbox = sent.outbox) && decide (t.lnk = { sent.lnk with
        waiting := [{ token := 2, port := 0, ctx := o.ctx, src := .tile 0, since := 0, use := .inc (some o.who) o.d }] }) : Bool) ∧
    (cGoes .commit (.cwatch 0 0) (word 8 1 1 (at_ 20) 4 1 0 31 tk0) cwatchSpec (fun s => s.modTile 0 fun y => { y with timers := [(1, 2 ^ 31)] }) fun t o =>
      quiet t 2 && decide (t.syu = { (cState .off).syu with inbound := [
        item_ o 1 (.reg { ctx := o.ctx, vid := 254, cmp := 1, t := 31, dest := .cwatch o.who 20, bank := none, hostCmd := none, expect := 9 })] }) : Bool) ∧
    (cGoes .commit (.cwatch 0 0) (word 8 1 4 (at_ 20) 4 1 5 0 tk0) cwatchSpec id fun t o =>
      quiet t 2 && decide (t.syu = { (cState .off).syu with inbound := [
        item_ o 1 (.reg { ctx := o.ctx, vid := 254, cmp := 0, t := 0, dest := .cwatch o.who 20, bank := none, hostCmd := none, expect := 5 })] }) : Bool) ∧
    (cGoes .commit (.cread 0 0) (word 8 2 0 (at_ 20) 4 non 2 0 tk0) creadSpec (fun s => s.modTile 0 fun y => { y with pendingLines := [(1, 0, 20)] }) fun t o =>
      quiet t 4 && decide (t.syu = { (cState .off).syu with
        creads := [{ id := 1, who := o.who, line := 20, n := 2, vals := [], served := 0 }]
        inbound := [item_ o 2 (.read 254 1 0), item_ o 3 (.read 255 1 1)] }) : Bool) := by decide +kernel

end CounterOps

namespace Exchanges

/-- Tile 1 beside tile 0; both compute, or both exchange. Tile 0 sends line 8 to line 9 of tile 1. -/
def xTile (ph : Phase) (l : List XEnt) : Tile := { tTile with phase := ph, xLoaded := true, xList := l }
def recvEnt (st : XEntSt) (len line : Nat) : XEnt := { send := false, len := len, line := line, dest := 0, peer := 0, route := 0, st := st }
def sendEnt (st : XEntSt) : XEnt := { send := true, len := 1, line := 8, dest := 576, peer := 1, route := tState.pln.siteOf 1, st := st }
def xSend (stage : XStage) (lines : List (Nat × Bool)) : XSend :=
  { id := 40, sender := 0, ent := 0, dstTile := 1, route := tState.pln.siteOf 1, len := 1, offset := 576, recv := 0, receiver := 1,
    lines := lines, landed := 0, meshBad := true, stage := stage }
def xState (ph : Phase) (recv : XEnt) (y : XSend) : State :=
  { tState with tiles := [(0, xTile .exchange [sendEnt .active]), (1, xTile ph [recv])], xsends := [y] }

theorem witness_exchangeRequest :
    isAfter (exec (.exchangeRequest 40) (xState .compute (recvEnt .waiting 1 9) { xSend .request [] with route := 5 }))
      (xState .compute (recvEnt .waiting 1 9) { xSend .refusal [] with route := 5 }) ∧
    after (exec (.exchangeRequest 40) (xState .compute (recvEnt .waiting 1 9) (xSend .request []))) (fun t => decide ((t.tile 1).held = [40])) ∧
    isAfter (exec (.exchangeRequest 40) (xState .exchange (recvEnt .waiting 1 9) (xSend .request [])))
      (xState .exchange (recvEnt .active 1 9) (xSend .grant [])) ∧
    after (exec (.exchangeRequest 40) (xState .exchange (recvEnt .waiting 2 9) (xSend .request []))) (fun t => decide (t.pln.hold.map FaultRec.detail = [65536])) ∧
    after (exec (.exchangeRequest 40) (xState .exchange (recvEnt .waiting 1 8) (xSend .request []))) (fun t => decide (t.pln.hold.map FaultRec.detail = [131072])) ∧
    after (exec (.exchangeRequest 40) (xState .exchange (sendEnt .active) (xSend .request []))) (fun t => decide (t.pln.hold.map FaultRec.code = [0x0203])) := by
  decide +kernel

/-- The destination awaits its rerun, which stops its exchange port: the request is held. -/
theorem witness_exchangeRequestHeld :
    (let x := xState .exchange (recvEnt .waiting 1 9) (xSend .request [])
     let s := { x with tiles := [(0, x.tile 0), (1, { x.tile 1 with rerun := { pending := true } })] }
     (s.tile 1).portMatches = false ∧ after (exec (.exchangeRequest 40) s) (fun t => decide ((t.tile 1).held = [40]))) := by decide +kernel

theorem witness_exchangeEvents :
    isAfter (exec (.exchangeGrant 40) (xState .exchange (recvEnt .active 1 9) (xSend .grant [])))
      (xState .exchange (recvEnt .active 1 9) (xSend .data [(0, false)])) ∧
    after (exec (.exchangeDataArrival 40 false) (xState .exchange (recvEnt .active 1 9) (xSend .data [(7, false), (8, false)]))) (fun t =>
      decide ((t.tile 1).line 9 = 7) && decide (t.xsends = [{ xSend .data [(8, false)] with landed := 1 }])) ∧
    after (exec (.exchangeDataArrival 40 true) (xState .exchange (recvEnt .active 1 9) (xSend .data [(7, false), (8, false)]))) (fun t =>
      (t.tile 1).poisoned 9) ∧
    after (exec (.exchangeDataArrival 40 false) (xState .exchange (recvEnt .active 1 9) (xSend .data [(7, true)]))) (fun t =>
      decide ((t.tile 1).xList = [recvEnt .done 1 9]) && decide (t.xsends = [{ xSend .receipt [] with landed := 1 }])) ∧
    isAfter (exec (.exchangeReceipt 40) (xState .exchange (recvEnt .done 1 9) (xSend .receipt [])))
      { xState .exchange (recvEnt .done 1 9) (xSend .receipt []) with
        xsends := [], tiles := [(0, xTile .exchange [sendEnt .done]), (1, xTile .exchange [recvEnt .done 1 9])] } ∧
    after (exec (.exchangeReceipt 40) (xState .exchange (recvEnt .done 1 9) (xSend .refusal []))) (fun t => decide (t.pln.hold.map FaultRec.code = [0x0202])) ∧
    after (exec (.exchangeShort 1 0)
      { tState with tiles := [(0, xTile .signalled []), (1, xTile .exchange [recvEnt .waiting 1 9])] })
      (fun t => decide (t.pln.hold.map (fun r => (r.code, r.tile)) = [(0x0205, 1)])) := by decide +kernel

/-- R51: the data of one SEND wait behind the request of another between the same tiles. R273: a record that is no fill operation's clears IN_FILL. -/
theorem witness_exchangeOrder :
    (let s (y : XSend) : State := { xState .exchange (recvEnt .active 1 9) (xSend .data [(7, false)]) with
       xsends := [{ xSend .request [] with id := 39, offset := 640 }, y] }
     isAfter (exec (.exchangeDataArrival 40 false) (s (xSend .data [(7, false)]))) (s (xSend .data [(7, false)])) ∧
     after (exec (.exchangeGrant 40) (s (xSend .grant []))) (fun t => decide (t.xsends.map XSend.stage = [.request, .data]))) ∧
    (let s := xState .exchange (recvEnt .done 1 9) (xSend .refusal [])
     let s := { s with tiles := [(0, { s.tile 0 with threads := [(0, { inFill := true })] })] }
     after (exec (.exchangeReceipt 40) s) fun t => decide (t.pln.hold.map FaultRec.code = [0x0202]) && !(t.thread 0 0).inFill) := by decide +kernel

theorem witness_tileSignal :
    after (exec (.tileSignal 0) { tState with tiles := [(0, xTile .exchange [sendEnt .done])] }) (fun t =>
      decide (t = { tState with tiles := [(0, xTile .signalled [sendEnt .done])] })) ∧
    after (exec (.tileSignal 0) { tState with tiles := [(0, { xTile .exchange [] with
      rerun := { current := some { kind := .parity, place := 1, thread := 0, opIndex := 0, fill := false } } })] }) (fun t =>
      decide ((t.tile 0).phase = .signalled)) := by decide +kernel

/-- Tile set 0 alone in group 0, every tile at the end of its superstep, its threads in state `st`. -/
def gState (st : ThreadSt) (others : List (Nat × Group)) : State :=
  { tState with
    now := 1000
    ctxs := [(0, { tState.ctx 0 with groups := 0 :: others.map Prod.fst })]
    groups := (0, { owner := 0, superstep := 6, releasedAt := 400 }) :: others
    tiles := (List.range 48).map fun n => (n, { tTile with
      phase := .signalled, xLoaded := true, threads := (List.range 4).map fun k => (k, { tThread with st := st }) }) }
def gTimes : Group := { (gState .halted []).group 0 with superstepNs := ns32 600, exchangeNs := ns32 1000 }

theorem witness_synchronisationComplete :
    after (exec (.synchronisationComplete 0) { gState .atExchange [] with ctxPwr := [(0, { gRef := 5 })] }) (fun t =>
      decide (t.group 0 = { gTimes with superstep := 7, releasedAt := 1000 }) && decide ((t.tile 47).phase = .compute) &&
      decide ((t.tile 47).xList = []) && decide (((t.tile 47).thread 3).st = .issuing) && decide (((t.tile 47).thread 3).saved.regs = tThread.main) &&
      decide (t = { gState .atExchange [] with tiles := t.tiles, groups := t.groups, ctxPwr := t.ctxPwr })) ∧
    (let s := gState .halted [(1, { owner := 0 })]
     isAfter (exec (.synchronisationComplete 0) s) (s.setGroup 0 { gTimes with complete := true })) ∧
    (let s := gState .halted [(1, { owner := 0, complete := true })]
     isAfter (exec (.synchronisationComplete 0) s)
      (((s.setGroup 0 { gTimes with complete := true }).modCtx 0 fun y => { y with complete := true }).startTeardown 0 none)) := by decide +kernel

def rTile (fill : Bool) : Tile :=
  { tTile with
    phase := .exchange
    rerun := { pending := true, fillOnly := fill, current := if fill then none else some { kind := .parity, place := 1, thread := 0, opIndex := 0, fill := false } }
    cfg := { tTile.cfg with regions := [(0, 32768 * 2 ^ 16 + 0x7FF * 2 ^ 32)] }
    threads := (List.range 4).map fun k => (k, { tThread with saved := { regs := { pos := 5 }, halted := decide (k = 3) }, outOps := 2, suppressOut := 1 }) }

theorem witness_superstepRerun :
    isAfter (exec (.superstepRerun 0) { tState with tiles := [(0, rTile true)] })
      { tState with tiles := [(0, { rTile true with rerun := { count := 1 } })] } ∧
    after (exec (.superstepRerun 0) { tState with tiles := [(0, rTile false)] }) (fun t =>
      decide (t = { tState with tiles := t.tiles }) && decide ((t.tile 0).phase = .compute) && decide ((t.tile 0).rerun.count = 1) &&
      decide (((t.tile 0).thread 2).main = { pos := 5 }) && decide (((t.tile 0).thread 3).st = .halted) && decide (((t.tile 0).thread 2).st = .issuing) &&
      decide (((t.tile 0).thread 2).suppressOut = 3) && !(t.tile 0).rerun.pending) ∧
    (let x : Tile := { rTile true with
       cache := [(15, 9)], err := { (rTile true).err with badCache := [(15, true)] }
       threads := [(0, { tThread with saved := { regs := {}, halted := false, cache := [(15, 8)] } })]
       rerun := { pending := true, fillOnly := true, current := some { kind := .cache, place := 15, thread := 0, opIndex := 0, fill := true } } }
     after (exec (.superstepRerun 0) { tState with tiles := [(0, x)] }) fun t =>
       decide ((t.tile 0).entry 15 = 8) && !mget false (t.tile 0).err.badCache 15 && !(t.tile 0).rerun.pending) := by decide +kernel

end Exchanges

namespace Sync

def inItem (id : Nat) (b : SyuBody) : SyuItem := { id := id, src := .arm 0, ctx := 0, who := none, hostCmd := none, tag := 0, body := b }
/-- One item on its way to the SYU, and one accepted. -/
def inState (b : SyuBody) : State := { tState with nextId := 60, syu := { tState.syu with inbound := [inItem 50 b] } }
def acState (b : SyuBody) (ws : List Watch) : State :=
  { tState with
    nextId := 60
    syu := { tState.syu with
      accepted := [inItem 50 b], watches := ws, counters := [(255, 7)]
      creads := [{ id := 12, who := tWho, line := 9, n := 1, vals := [], served := 0 }] } }
def tReg (x t : Nat) (d : WDest) : WReg := { ctx := 0, vid := 255, cmp := 0, expect := x, t := t, dest := d, bank := none, hostCmd := none }
def tWatch (x t : Nat) (d : WDest) : Watch := { slot := 3, item := 8, phys := 255, reg := tReg x t d, since := 0 }
def acAfter (s : State) (f : Syu → Syu) (ids : Nat := 0) : State :=
  { s with nextId := 60 + ids, syu := f { s.syu with accepted := [] } }

theorem witness_incrementArrival :
    isAfter (exec (.incrementArrival 50) (inState (.inc 255 16)))
      { inState (.inc 255 16) with syu := { tState.syu with accepted := [inItem 50 (.inc 255 16)] } } ∧
    isAfter (exec (.incrementArrival 50) (inState (.inc 256 1)))
      ({ inState (.inc 256 1) with syu := tState.syu }.raise (counterInvalid (inItem 50 (.inc 256 1)) true)) ∧
    isAfter (exec (.incrementArrival 50) (inState (.read 256 1 0))) { inState (.read 256 1 0) with syu := tState.syu } := by decide +kernel

theorem witness_updateWindow :
    (let s := acState (.inc 255 16) [tWatch 24 0 .host]
     isAfter (exec (.updateWindow 255) s) (acAfter s fun y => { y with counters := [(255, 23)] })) ∧
    (let s := acState (.inc 255 16) [tWatch 23 0 .host]
     isAfter (exec (.updateWindow 255) s) (acAfter s (fun y => { y with
       counters := [(255, 23)], watches := []
       notifs := [{ id := 60, item := 8, reg := tReg 23 0 .host, slot := 3, observed := 23, timeout := false }] }) 1)) ∧
    (let s := { acState (.reg (tReg 7 0 .tel)) [] with ctxs := [(0, { tState.ctx 0 with watchLimit := 1 })] }
     isAfter (exec (.updateWindow 255) s) (acAfter s (fun y => { y with
       notifs := [{ id := 60, item := 50, reg := tReg 7 0 .tel, slot := 0, observed := 7, timeout := false }] }) 1)) ∧
    (let s := { acState (.reg (tReg 8 0 .tel)) [] with ctxs := [(0, { tState.ctx 0 with watchLimit := 1 })] }
     isAfter (exec (.updateWindow 255) s) (acAfter s fun y => { y with
       watches := [{ slot := 0, item := 50, phys := 255, reg := tReg 8 0 .tel, since := 0 }] })) ∧
    (let s := acState (.read 255 12 0) []
     isAfter (exec (.updateWindow 255) s) (acAfter s (fun y => { y with
       creads := [{ id := 12, who := tWho, line := 9, n := 1, vals := [(0, 7)], served := 1, packets := [(0, 60)] }] }) 1)) ∧
    (let s := acState (.tmo 255 8) [tWatch 24 1 .host]
     isAfter (exec (.updateWindow 255) s) (acAfter s (fun y => { y with
       watches := []
       notifs := [{ id := 60, item := 8, reg := tReg 24 1 .host, slot := 3, observed := 7, timeout := true }] }) 1)) := by decide +kernel

/-- Counter 255 has a single-bit error: it is corrected and counted. An uncorrectable one: the window ends with the record. -/
theorem witness_updateWindowErrors :
    (let s (bad : Bool) : State := { acState (.inc 255 16) [tWatch 24 0 .host] with syu := { (acState (.inc 255 16) [tWatch 24 0 .host]).syu with badCounters := [(255, some bad)] } }
     isAfter (exec (.updateWindow 255) (s false)) (acAfter (s false) fun y => { y with counters := [(255, 23)], badCounters := [], secded := 1 }) ∧
     isAfter (exec (.updateWindow 255) (s true)) ((s true).raise (syuBad 0 255 0))) := by decide +kernel

def noState (d : WDest) : State :=
  { tState with nextId := 60, syu := { tState.syu with notifs := [{ id := 21, item := 8, reg := tReg 24 0 d, slot := 3, observed := 7, timeout := false }] } }
/-- A CREAD whose one value is on its way. -/
def tRead : CReadOp := { id := 12, who := tWho, line := 9, n := 1, vals := [(0, 7)], served := 1, packets := [(0, 30)] }
def tRecord : Nat := 7 + 24 * 2 ^ 64 + 2 ^ 128 + 255 * 2 ^ 160 + 3 * 2 ^ 192

theorem witness_watchNotification :
    after (exec (.watchNotification 21) (noState (.cwatch tWho 9))) (fun t => decide ((t.tile 0).line 9 = tRecord) && decide (t.syu = tState.syu)) ∧
    (let s := noState (.global 0x1FFC0)
     isAfter (exec (.watchNotification 21) s) ({ s with syu := tState.syu }.issueMem (.notif 255) .syu 0 0x1FFC0 true false [(tRecord, false)])) ∧
    (let s := noState (.global (tileAddr 0 576))
     isAfter (exec (.watchNotification 21) s) ({ s with syu := tState.syu }.landLine 0 9 tRecord false false)) ∧
    (let s := noState .tel
     isAfter (exec (.watchNotification 21) s) ({ s with syu := tState.syu }.setTel 0 { s.tel 0 with gateMet := true, watching := false })) := by decide +kernel

theorem witness_syncTimers :
    (let s := { tState with syu := { tState.syu with creads := [tRead] } }
     after (exec (.creadResult 12) s) fun t => decide ((t.tile 0).line 9 = 7) && decide (t.syu.creads = [])) ∧
    (let s := { tState with nextId := 60, tiles := [(0, { tTile with timers := [(8, 0)] })], syu := { tState.syu with watches := [tWatch 24 31 (.cwatch tWho 9)] } }
     isAfter (exec (.watchTimeout 0 8) s) { s with
       nextId := 61, tiles := tState.tiles
       syu := { s.syu with
         inbound := [{ id := 60, src := .tile 0, ctx := 0, who := none, hostCmd := none, tag := 0, body := .tmo 255 8 }] } }) ∧
    (let s := { tState with now := 2, nextId := 60, syu := { tState.syu with watches := [tWatch 24 1 .host] } }
     isAfter (exec (.managementWatchTimeout 3) s) { s with
       nextId := 61
       syu := { s.syu with
         accepted := [{ id := 60, src := .syu, ctx := 0, who := none, hostCmd := none, tag := 0, body := .tmo 255 8, stamp := 2 }] } }) ∧
    (let s := { tState with now := 10000000000, syu := { tState.syu with watches := [tWatch 24 0 .host] } }
     isAfter (exec (.deadlockWatchdog 3) s) (s.raise { code := 0x0501, ctxFatal := true, ctx := 0, addr := counterAddr 255, detail := 24 })) ∧
    (let v := 2 ^ 31 + 255 + 2 ^ 21
     let b := 15
     let u := tState.access 2 0x300010
     isAfter (exec (.managementWatchRegistration b v) tState) { u with
      nextId := 2
      syu := { u.syu with
        banks := [(15, { cfg := bits v 0 28, busy := some 1 })]
        inbound := [{
          id := 1, src := .arm 15, ctx := 0, who := none, hostCmd := none, tag := 0
          body := .reg { ctx := 0, vid := 255, cmp := 1, expect := 0, t := 0, dest := .global 0, bank := some b, hostCmd := none } }] } }) := by decide +kernel

/-- The deadlock of a thread's watch is noted as its fault, outside the fill. -/
theorem witness_deadlockNoted :
    (let s := { tState with
       now := 10000000000, tiles := [(0, { tTile with threads := [(0, { tThread with inFill := true })] })]
       syu := { tState.syu with watches := [tWatch 24 0 (.cwatch tWho 9)] } }
     after (exec (.deadlockWatchdog 3) s) fun t => decide (t.pln.hold.map FaultRec.code = [0x0501]) && !(t.thread 0 0).inFill) := by decide +kernel

/-- R51: a packet of a slice of the SYU does not pass an earlier one to the same tile; the second notification, and a CREAD's value behind a
notification, wait. -/
theorem witness_syuOrder :
    (let no (n : Nat) : Notif := { id := n, item := 8, reg := tReg 24 0 (.cwatch tWho 9), slot := 3, observed := 7, timeout := false }
     let s := { tState with syu := { tState.syu with notifs := [no 22, no 21], creads := [tRead] } }
     isAfter (exec (.watchNotification 22) s) s ∧ isAfter (exec (.creadResult 12) s) s ∧
     after (exec (.watchNotification 21) s) (fun t => decide (t.syu.notifs = [no 22]))) := by decide +kernel

/-- Items of the firmware system context whose window meets an uncorrectable error, and the outcome of a management registration. -/
theorem witness_bankRegistrations :
    (let sys (b : SyuBody) (bad : List (Nat × Option Bool)) : State := { tState with
       nextId := 60, ctxs := [(0, { tState.ctx 0 with watchLimit := 1 })]
       syu := { tState.syu with
         accepted := [{ inItem 50 b with ctx := 16 }], owners := [(0, 16)], badCounters := bad, banks := [(2, { busy := some 50 })] } }
     let reg (c : Nat) (d : WDest) : WReg := { ctx := c, vid := 0, cmp := 0, expect := 24, t := 0, dest := d, bank := some 2, hostCmd := none }
     let bad := [(0, some true)]
     after (exec (.updateWindow 0) (sys (.reg (reg 16 .tel)) bad)) (fun t => decide (mget {} t.syu.banks 2 = { result := 5 * 2 ^ 16 })) ∧
     after (exec (.updateWindow 0) (sys (.inc 0 1) bad)) (fun t => decide (t.pln.head + t.pln.hold.length = 2) && decide (t.syu.accepted = [])) ∧
     after (exec (.updateWindow 0) (sys (.tmo 0 8) bad)) (fun t => decide (t.pln.hold.length = 1) && decide (t.syu.accepted = [])) ∧
     (let s (lim : Nat) (valid : Bool) (d : WDest) : State := { tState with
        ctxs := [(0, { tState.ctx 0 with watchLimit := lim, tableValid := valid })], syu := { tState.syu with
          accepted := [inItem 50 (.reg (reg 0 d))], banks := [(2, { busy := some 50 })] } }
      let told (t : State) : Nat := (mget {} t.syu.banks 2).result / 2 ^ 16
      after (exec (.updateWindow 0) (s 1 true .tel)) (fun t => decide (told t = 1) && decide (t.syu.watches.length = 1)) ∧
      after (exec (.updateWindow 0) (s 0 true .tel)) (fun t => decide (told t = 3)) ∧
      after (exec (.updateWindow 0) (s 1 false .tel)) (fun t => decide (told t = 5)) ∧
      after (exec (.updateWindow 0) (s 1 true (.global 1))) (fun t => decide (told t = 4)))) := by decide +kernel

end Sync

namespace Messages

/-- A queue of tile 0 at line 100 with number 5, and a packet for it. -/
def mQueue : Queue := { addr := tileAddr 0 6400, ctx := 0, state := 2 }
def mSite : Nat := tState.pln.siteOf 0
def mItem (b : RmnBody) (dest : Nat := mSite) : RmnItem :=
  { id := 31, src := .tile 0, dest := dest, hostCmd := none, ctx := 0, who := some { tWho with tk := none }, kind := 0, body := b }
def mState (q : Queue) (b : RmnBody) : State :=
  { tState with nextId := 60, rmn := { tState.rmn with queues := [(5, q)], items := [mItem b] } }
/-- The packet is gone, and the queue is `q`. -/
def mGone (s : State) (q : Queue) : State := { s with rmn := { s.rmn with items := [], queues := [(5, q)] } }
def mWho : Who := { tWho with tk := none }

theorem witness_connectRequest :
    (let s := mState mQueue (.connect 64 512)
     isAfter (exec (.connectRequest 31) s) ((mGone s mQueue).sendReply 31 0 mSite 0 mWho true 512 (64 * 2 ^ 64 + 6 * 2 ^ 128) 6)) ∧
    (let s := mState mQueue (.connect mQueue.addr 512)
     isAfter (exec (.connectRequest 31) s) ((mGone s { mQueue with conns := 1 }).sendReply 31 0 mSite 0 mWho true 512
       (handleLine 5 mSite 0 mQueue.addr 32) 0)) ∧
    (let s := mState { mQueue with state := 1, hold := true } (.connect mQueue.addr 512)
     isAfter (exec (.connectRequest 31) s) ((mGone s { mQueue with state := 1, hold := true }).sendReply 31 0 mSite 0 mWho true 512
       (mQueue.addr * 2 ^ 64 + 4 * 2 ^ 128) 4)) ∧
    (let s := mState { mQueue with hold := true } (.connect mQueue.addr 512)
     isAfter (exec (.connectRequest 31) s) ((mGone s { mQueue with hold := true }).sendReply 31 0 mSite 0 mWho true 512
       (mQueue.addr * 2 ^ 64 + 1 * 2 ^ 128) 1)) := by decide +kernel

theorem witness_queueReleaseArrival :
    (let s := mState { mQueue with conns := 4, epoch := 9 } (.release 5 9)
     isAfter (exec (.queueReleaseArrival 31) s) (mGone s { mQueue with conns := 3, epoch := 9 })) ∧
    (let s := mState { mQueue with conns := 4, epoch := 9 } (.release 5 8)
     isAfter (exec (.queueReleaseArrival 31) s) (mGone s { mQueue with conns := 4, epoch := 9 })) := by decide +kernel

/-- The release of a queue of another context does nothing, and the change of the tile's own queue behind it is then applied. -/
theorem witness_ownChangeBehind :
    (let own : RmnItem := { mItem (.own 5 .close) with id := 32, kind := 1 }
     let s := { mState { mQueue with ctx := 7 } (.release 5 0) with rmn := { tState.rmn with
       queues := [(5, { mQueue with ctx := 7 })], items := [mItem (.release 5 0), own] } }
     isAfter (exec (.queueReleaseArrival 31) s) (mGone s { mQueue with ctx := 7, state := 1 })) := by decide +kernel

/-- The head of a message of `n` lines for queue `m` with this epoch is refused with `res`, and counted if `c`. -/
def headRefused (q : Queue) (m epoch n res : Nat) (c : Bool) : Bool :=
  let s := mState q (.message m mSite epoch (List.replicate n (7, false)) 520)
  isAfter (exec (.messageHead 31) s)
    ((mGone s (if c then { q with refused := 1, refusedReset := 1 } else q)).sendReply 31 0 mSite 0 mWho false 520 (statusWord res q.epoch) res)

theorem witness_messageHead :
    headRefused mQueue 32768 0 1 6 false ∧ headRefused mQueue 6 0 1 6 false ∧ headRefused mQueue 5 1 1 5 true ∧
    headRefused { mQueue with state := 1 } 5 0 1 4 true ∧ headRefused { mQueue with hold := true } 5 0 1 1 true ∧
    headRefused { mQueue with maxLines := 1 } 5 0 2 8 true ∧ headRefused { mQueue with wr := 4096 } 5 0 1 2 true ∧
    headRefused { mQueue with wr := 4032, rd := 64 } 5 0 1 3 true ∧
    (let s := mState mQueue (.message 5 mSite 0 [(7, false), (8, true)] 520)
     isAfter (exec (.messageHead 31) s) { mGone s (mQueue.record 0 0 192 2 none) with
       nextId := 61
       rmn := { (mGone s (mQueue.record 0 0 192 2 none)).rmn with
         placing := [mQueue.placing 5 60 0 0 (mItem (.message 5 mSite 0 [] 0)) [(7, false), (8, true)] 520] } }) := by decide +kernel

def pState : State :=
  { tState with
    nextId := 61
    rmn := { tState.rmn with
      queues := [(5, mQueue.record 0 0 128 1 none)]
      placing := [mQueue.placing 5 60 0 0 (mItem (.message 5 mSite 0 [] 0)) [(7, false)] 520] } }
def replyOf (mopen : Bool) : RmnReply :=
  { id := 70, source := some mSite, who := mWho, ctx := 0, mopen := mopen, at_ := 520, value := 5 + 3 * 2 ^ 32, result := 5 }

theorem witness_messagePlaced :
    after (exec (.messagePlaced 60 0) pState) (fun t =>
      decide (t.rmn.queues = [(5, (mQueue.record 0 0 128 1 none).finish (mQueue.placing 5 60 0 0 (mItem (.message 5 mSite 0 [] 0)) [(7, false)] 520))]) &&
      decide (t.rmn.placing = []) &&
      decide (t.rmn.replies = [{ id := 61, source := some mSite, who := mWho, ctx := 0, mopen := false, at_ := 520, value := 0, result := 0, item := 31 }])) ∧
    (let s := { tState with rmn := { tState.rmn with replies := [replyOf true] } }
     isAfter (exec (.mopenReply 70) s) (tState.landLine 0 8 (5 + 3 * 2 ^ 32) false false)) ∧
    (let s := { tState with rmn := { tState.rmn with replies := [replyOf false] } }
     isAfter (exec (.msendReply 70) s) (tState.modTile 0 fun t => { t.putNarrow 520 8 (5 + 3 * 2 ^ 32) with msgRefused := 1 })) ∧
    (let s := { tState with tiles := [(0, { tTile with phase := .exchange })], rmn := { tState.rmn with replies := [replyOf false] } }
     isAfter (exec (.msendReply 70) s) ({ s with rmn := tState.rmn }.modTile 0 fun t =>
       { t.putNarrow 520 8 (5 + 3 * 2 ^ 32) with msgRefused := 1 })) := by decide +kernel

/-- Core 15 of the Armature cluster has selected queue 5. -/
def selState (q : Queue) : State := { tState with rmn := { tState.rmn with queues := [(5, q)], sel := [(15, 5)] } }
def selAt (q q' : Queue) (off : Nat) : State := { (selState q).access 2 off with rmn := { (selState q).rmn with queues := [(5, q')] } }

theorem witness_queueControl :
    isAfter (exec (.queueHold 15 true) (selState mQueue)) (selAt mQueue { mQueue with hold := true } 0x400040) ∧
    isAfter (exec (.queueReset 15) (selState { mQueue with state := 0, epoch := 2 ^ 32 - 1 }))
      (selAt { mQueue with state := 0, epoch := 2 ^ 32 - 1 } { mQueue with state := 0 } 0x400040) ∧
    isAfter (exec (.queueReset 15) (selState mQueue)) (selAt mQueue { mQueue with epoch := 1, resetPending := true } 0x400040) ∧
    (let q := { mQueue with addr := 6400, ownerKind := 1, ownerId := 15, wr := 128, rd := 64 }
     isAfter (exec (.queueReset 15) (selState q)) ((selAt q { q with epoch := 1, wr := 0, rd := 0, state := 1 } 0x400040).hbmHeader 5) ∧
     isAfter (exec (.rmnQRelease 15 65) (selState q)) (selAt q q 0x400048) ∧
     isAfter (exec (.rmnQRelease 15 64) (selState q)) (selAt q { q with rd := 128 } 0x400048)) := by decide +kernel

/-- The descriptor has a single-bit error, which is corrected, or an uncorrectable one. -/
theorem witness_queueControlErrors :
    (let s (bad : Bool) : State := { selState mQueue with rmn := { (selState mQueue).rmn with badQueues := [(5, some bad)] } }
     let r : FaultRec := { code := 0x0B08, ctxFatal := true, ctx := 0, detail := 5 }
     isAfter (exec (.queueHold 15 true) (s true)) (((s true).access 2 0x400040).raise r) ∧
     isAfter (exec (.queueReset 15) (s true)) (((s true).access 2 0x400040).raise r) ∧
     isAfter (exec (.queueHold 15 true) (s false))
       { selAt mQueue { mQueue with hold := true } 0x400040 with ras := { tState.ras with secdedRmn := 1 } }) := by decide +kernel

end Messages

namespace Slices

/-- Frame 1 of context 0 is entry 1: physical frame 40000; frame 50000 is in its reserve. An access of tile 0 to its line 2. -/
def hEntry : FEntry := { valid := true, rd := true, wr := true, ctx := 0, pframe := 40000 }
def hAcc (write : Bool) (stage : AStage) : Access :=
  { id := 31, src := .tile 0, ctx := 0, op := 30, idx := 0, vaddr := 65536 + 128, write := write, data := 9, poison := false, snap := false,
    phys := if stage = .toSlice then 0 else 40000 * 65536 + 128, stage := stage }
def hOp (kind : MemOpKind) (left : Nat) : MemOp :=
  { id := 30, kind := kind, src := .tile 0, ctx := 0, write := false, left := left, refused := none, meshBad := false }
def hState (e : FEntry) (accs : List Access) (o : MemOp) : State :=
  { tState with
    ctxs := [(0, { tState.ctx 0 with cowD4 := 3 })]
    hbm := { tState.hbm with fmap := [(1, e)], frames := [(40000, .held 0 false), (50000, .held 0 true)], accs := accs, ops := [o] } }
def hMoved (e : FEntry) (a a' : Access) : State := hState e [a'] (hOp (.hwr tWho) a.idx)

theorem witness_sliceAccess :
    (let s := hState hEntry [hAcc true .toSlice] (hOp (.hwr tWho) 2)
     isAfter (exec (.sliceAccess 31 false) { s with hbm := { s.hbm with copies := [{ entry := 1, frame := 7 }] } })
       { s with hbm := { s.hbm with copies := [{ entry := 1, frame := 7 }], accs := [{ hAcc true .toSlice with stage := .held }] } } ∧
     isAfter (exec (.sliceAccess 31 true) s) ({ s with hbm := { s.hbm with accs := [] } }.countUncorrectable.raise { code := 0x030B, devFatal := true, detail := 0 }) ∧
     isAfter (exec (.sliceAccess 31 false) s) { s with hbm := { s.hbm with accs := [hAcc true .toChan] } }) ∧
    (let two := [hAcc true .toSlice, { hAcc true .toSlice with id := 32, vaddr := 65536 + 192 }]
     let refusedWith (e : FEntry) (code detail : Nat) : Bool :=
       let s := hState e two (hOp (.hwr tWho) 2)
       isAfter (exec (.sliceAccess 31 false) s)
         { s with hbm := { s.hbm with accs := two.drop 1, ops := [(hOp (.hwr tWho) 2).refuse (65536 + 128) code detail] } }
     refusedWith { hEntry with valid := false } 0x0301 ((Src.tile 0).memCode + 2 ^ 4 + tState.memQueue (.hwr tWho) * 2 ^ 5) ∧
     refusedWith { hEntry with ctx := 7 } 0x0302 ((Src.tile 0).memCode + 2 ^ 4 + 7 * 2 ^ 5) ∧
     refusedWith { hEntry with wr := false } 0x0303 ((Src.tile 0).memCode + 2 ^ 4 + tState.memQueue (.hwr tWho) * 2 ^ 5)) ∧
    (let s := hState { hEntry with snap := true } [hAcc true .toSlice] (hOp (.hwr tWho) 2)
     after (exec (.sliceAccess 31 false) s) fun t => decide ((t.ctx 0).cowD4 = 2) && decide (t.hbm = { s.hbm with
       accs := [{ hAcc true .toSlice with stage := .held }], copies := [{ entry := 1, frame := 50000 }]
       frames := [(40000, .held 0 false), (50000, .held 0 false)] })) := by decide +kernel

/-- The snapshot view without a snapshot, a domain that is not On, and a reserve that is exhausted. -/
theorem witness_refusedLaterTests :
    let two (snap : Bool) := [{ hAcc (!snap) .toSlice with snap := snap }, { hAcc true .toSlice with id := 32, vaddr := 65536 + 192 }]
    let refused (s : State) (code detail : Nat) : Bool := isAfter (exec (.sliceAccess 31 false) s)
      { s with hbm := { s.hbm with accs := s.hbm.accs.drop 1, ops := [(hOp (.hwr tWho) 2).refuse (65536 + 128) code detail] } }
    let s := hState hEntry (two false) (hOp (.hwr tWho) 2)
    refused (hState hEntry (two true) (hOp (.hwr tWho) 2)) 0x0304 (tState.memQueue (.hwr tWho)) ∧
    refused (s.setDom 4 { st := 0 }) 0x0305 ((Src.tile 0).memCode + 2 ^ 4) ∧
    refused ({ hState { hEntry with snap := true } (two false) (hOp (.hwr tWho) 2) with ctxs := tState.ctxs }) 0x0306 1 := by decide +kernel

/-- The last line of an operation is refused: the operation ends with its record, a NAK, or the fault of its descriptor. -/
theorem witness_refusedEnds :
    let q (k : MemOpKind) : Nat := (Src.tile 0).memCode + 2 ^ 4 + tState.memQueue k * 2 ^ 5
    let at31 (k : MemOpKind) : State := hState { hEntry with wr := false } [hAcc true .toSlice] (hOp k 1)
    let ended (s : State) : State := { s with hbm := { s.hbm with accs := [], ops := [] } }
    (let s := at31 (.hwr tWho)
     isAfter (exec (.sliceAccess 31 false) s) (((ended s).noteWho tWho).raise
       { code := 0x0303, ctxFatal := true, locValid := true, ctx := 0, tile := 0, superstep := s.superstepOf 0, addr := 65536 + 128
         opIndex := 0, detail := q (.hwr tWho) })) ∧
    (let s := at31 (.peer 2 9)
     isAfter (exec (.sliceAccess 31 false) s)
       (((ended s).nakPeer 30 4).raise { code := 0x0303, ctx := 0, addr := 65536 + 128, detail := q (.peer 2 9) })) ∧
    (let d : Desc := { id := 12, engine := 0, queue := 5, ctx := 0, raw := 0, lines := 1, acked := 0, hostPoison := 0, hostCmd := none, meshBad := false, faulted := false }
     let s := { at31 (.dma 12) with hbm := { (at31 (.dma 12)).hbm with descs := [d] } }
     isAfter (exec (.sliceAccess 31 false) s)
       ((ended s).descFault d { code := 0x0303, ctxFatal := true, ctx := 0, addr := 65536 + 128, detail := (Src.tile 0).memCode + 2 ^ 4 + 5 * 2 ^ 5 })) ∧
    (let s := at31 (.core 6)
     isAfter (exec (.sliceAccess 31 false) s) (((ended s).trap 6).raise
       { code := 0x0303, ctxFatal := true, ctx := 0, addr := 65536 + 128, detail := q (.core 6) })) := by decide +kernel

/-- One write is held behind the copy: it goes on to the new frame. -/
theorem witness_heldGoesOn :
    let s := hState { hEntry with snap := true } [{ hAcc true .toSlice with stage := .held }] (hOp (.hwr tWho) 2)
    isAfter (exec (.cowCopyComplete 1) { s with hbm := { s.hbm with copies := [{ entry := 1, frame := 50000 }] } })
      { s with hbm := { s.hbm with
          fmap := [(1, { hEntry with scopied := true, sframe := 40000, pframe := 50000 })]
          accs := [{ hAcc true .toSlice with stage := .toChan, phys := 50000 * 65536 + 128 }] } } = true := by decide +kernel

theorem witness_cowCopyComplete :
    let s := hState { hEntry with snap := true, poison := 2 } [] (hOp (.hwr tWho) 2)
    let s1 := { s with hbm := { s.hbm with copies := [{ entry := 1, frame := 50000 }], mem := [(40000 * 65536 + 5, 9)] } }
    isAfter (exec (.cowCopyComplete 1) s1) { s with hbm := { s.hbm with
      mem := [(40000 * 65536 + 5, 9), (50000 * 65536 + 5, 9)]
      fmap := [(1, { hEntry with poison := 2, scopied := true, sframe := 40000, pframe := 50000 })] } } = true := by decide +kernel

theorem witness_hbmEvents :
    (let s := hState hEntry [hAcc true .toChan] (hOp (.hwr tWho) 2)
     isAfter (exec (.hbmWriteAccept 31 false) s) { s with hbm := { s.hbm with mem := [(40000 * 65536 + 128, 9)], accs := [hAcc true .acked] } }) ∧
    (let s := hState hEntry [{ hAcc true .toChan with poison := true }] (hOp (.hwr tWho) 2)
     after (exec (.hbmWriteAccept 31 false) s) fun t => t.hbmPoisoned (40000 * 1024 + 2) && decide (t.hbm.mem = []) &&
       decide (t.hbm.fmap = [(1, hEntry.markGranule (40000 * 1024 + 2))])) ∧
    (let s := hState hEntry [hAcc true .acked] (hOp (.hwr tWho) 1)
     isAfter (exec (.writeAcknowledgement 31) s) ({ s with hbm := { s.hbm with accs := [], ops := [] } }.freeTicket tWho false)) ∧
    (let s := hState hEntry [hAcc true .acked] (hOp (.hwr tWho) 2)
     isAfter (exec (.writeAcknowledgement 31) s) { s with hbm := { s.hbm with accs := [], ops := [hOp (.hwr tWho) 1] } }) ∧
    (let s := hState hEntry [hAcc false .toChan] (hOp (.hrd tWho 9) 1)
     isAfter (exec (.hbmReadReturn 31) s) { s with hbm := { s.hbm with accs := [{ hAcc false .data with data := 0 }] } }) ∧
    (let s := hState hEntry [hAcc false .data] (hOp (.hrd tWho 9) 1)
     isAfter (exec (.readDataArrival 31 false) s)
       (({ s with hbm := { s.hbm with accs := [], ops := [] } }.landLine 0 9 9 false true).freeTicket tWho true)) ∧
    (let s := hState hEntry [hAcc false .data] (hOp (.hrd tWho 9) 2)
     isAfter (exec (.readDataArrival 31 false) s)
       ({ s with hbm := { s.hbm with accs := [], ops := [hOp (.hrd tWho 9) 1] } }.landLine 0 9 9 false true)) := by decide +kernel

/-- R51: an acknowledgement waits behind a line that the same controller sends to the same tile. -/
theorem witness_backOrder :
    (let s (a : Access) : State := { hState hEntry [] (hOp (.hwr tWho) 1) with hbm := { (hState hEntry [] (hOp (.hwr tWho) 1)).hbm with
       accs := [a, hAcc true .acked] } }
     let other : Access := { hAcc false .data with id := 33, op := 29 }
     isAfter (exec (.writeAcknowledgement 31) (s other)) (s other) ∧
     after (exec (.writeAcknowledgement 31) (s { other with src := .tile 1 })) (fun t => decide (t.hbm.accs.length = 1))) := by decide +kernel

def badState (l : Nat) (b : Option Bool) : State := { tState with hbm := { tState.hbm with bad := [(l, b)], mem := [(64 * l, 3)] } }

theorem witness_errorCheckAndScrub :
    isAfter (exec (.errorCheckAndScrub 0) tState) tState ∧ isAfter (exec (.errorCheckAndScrub (1024 * 9437184 - 1)) tState) tState ∧
    isAfter (exec (.errorCheckAndScrub 5) (badState 5 (some false)))
      { tState with hbm := { tState.hbm with mem := [(320, 3)], corrected := 1 } } ∧
    isAfter (exec (.errorCheckAndScrub (4096 * 1024 - 1)) (badState (4096 * 1024 - 1) (some true)))
      ((badState (4096 * 1024 - 1) (some true)).countUncorrectable.raise { code := 0x030B, devFatal := true, detail := 4096 * 1024 - 1 }) ∧
    (let l := 4096 * 1024
     isAfter (exec (.errorCheckAndScrub l) (badState l (some true)))
       ({ tState with hbm := { tState.hbm with poison := [(l, true)], suspect := [(4096, true)], uncorrectable := 1 } }.raise
         (tState.hbmUncorrectable l true))) := by decide +kernel

end Slices

namespace Frames

/-- Register set 0 asks for frames 0 and 1 of context 0, entries 64 and 65; physical frames from 40000 on are held by the context. -/
def fSet : FmSet := { arg := 2 * 2 ^ 24, pframe := 40000 }
def fState (e : FEntry) (held : FrameSt) : State :=
  { tState with
    ctxs := [(0, { tState.ctx 0 with fmBase := 64 })]
    hbm := { tState.hbm with
      poison := [(40000 * 1024 + 16 * 3, true)]
      fm := [(0, fSet), (1, fSet)], frames := [(40000, held), (40001, held)]
      fmap := if e = {} then [] else [(64, { e with pframe := 40000 }), (65, { e with pframe := 40001 })] } }
/-- GO with an opcode for context 0, RD and PEER set. -/
def fGo (op : Nat) : Nat := 2 ^ 31 + op + 2 ^ 9 + 2 ^ 11
def fCmd (op : Nat) : Nat := bits (fGo op) 0 12
def fRefused (s : State) (n op reason : Nat) : State :=
  let u := s.access (n + 1) (0x600310 + 0x40 * n)
  { u with hbm := { u.hbm with fm := mset {} s.hbm.fm n { fSet with cmd := fCmd op, status := 3, reason := reason } } }
/-- The command of set 0 is taken: its entries become `e0` and `e1`, its frames stand at `f`, and `g` is the rest. -/
def fTaken (s : State) (op : Nat) (e0 e1 : FEntry) (f : FrameSt) (g : State → State) (t : State) : Bool :=
  let u := g (s.access 1 0x600310)
  decide (t = { u with hbm := { u.hbm with
    fm := [(0, { fSet with cmd := fCmd op, status := 1 }), (1, fSet)]
    fmap := mset {} (mset {} s.hbm.fmap 64 e0) 65 e1, frames := mset .pool (mset .pool s.hbm.frames 40000 f) 40001 f } })
def fE (wr : Bool) : FEntry := { valid := true, rd := true, wr := wr, ctx := 0 }

theorem witness_frameMapRefusals :
    isAfter (exec (.map 1 (fGo 1)) (fState {} .pool)) (fRefused (fState {} .pool) 1 1 1) ∧
    isAfter (exec (.unmap 1 (fGo 2)) (fState {} .pool)) (fRefused (fState {} .pool) 1 2 1) ∧
    isAfter (exec (.setperm 1 (fGo 3)) (fState {} .pool)) (fRefused (fState {} .pool) 1 3 1) ∧
    (let s := { fState {} .pool with ctxs := [(0, { tState.ctx 0 with fmBase := 64, fmFrames := 1 })] }
     isAfter (exec (.snapshot 1 (fGo 4)) s) (fRefused s 1 4 2) ∧ isAfter (exec (.releaseSnapshot 0 (fGo 5)) s) (fRefused s 0 5 2) ∧
     isAfter (exec (.clearPoison 0 (fGo 6)) s) (fRefused s 0 6 2) ∧ isAfter (exec (.map 0 (fGo 1)) s) (fRefused s 0 1 2) ∧
     isAfter (exec (.unmap 0 (fGo 2)) s) (fRefused s 0 2 2) ∧ isAfter (exec (.setperm 0 (fGo 3)) s) (fRefused s 0 3 2)) ∧
    (let s := fState (fE true) .pool
     isAfter (exec (.map 0 (fGo 1)) s) (fRefused s 0 1 3)) ∧
    (let s := fState { fE true with scopied := true } .pool
     isAfter (exec (.snapshot 1 (fGo 4)) s) (fRefused s 1 4 3)) ∧
    (let s := fState {} .pool
     isAfter (exec (.unmap 0 (fGo 2)) s) (fRefused s 0 2 3) ∧ isAfter (exec (.setperm 0 (fGo 3)) s) (fRefused s 0 3 3) ∧
     isAfter (exec (.snapshot 0 (fGo 4)) s) (fRefused s 0 4 3) ∧ isAfter (exec (.releaseSnapshot 1 (fGo 5)) s) (fRefused s 1 5 3) ∧
     isAfter (exec (.clearPoison 1 (fGo 6)) s) (fRefused s 1 6 3)) ∧
    isAfter (exec (.map 0 (fGo 1)) (fState {} (.zeroing none))) (fRefused (fState {} (.zeroing none)) 0 1 4) := by decide +kernel

/-- Entry 64 is being copied: a command for it reads busy, and is not complete before the copy is done. -/
theorem witness_frameMapBehindCopy :
    (let s := { fState (fE true) (.held 0 false) with hbm := { (fState (fE true) (.held 0 false)).hbm with copies := [{ entry := 64, frame := 7 }] } }
     s.fmCopying 0 (fGo 2) = true ∧
     ([(Instr.map 0 (fGo 1), 1), (.unmap 0 (fGo 2), 2), (.setperm 0 (fGo 3), 3), (.snapshot 0 (fGo 4), 4), (.releaseSnapshot 0 (fGo 5), 5),
       (.clearPoison 0 (fGo 6), 6)].all fun p => isAfter (exec p.1 s)
        { s.access 1 0x600310 with hbm := { s.hbm with
            fm := [(0, { fSet with cmd := fCmd p.2, status := 1, behindCopy := some (fGo p.2) }), (1, fSet)] } }) = true) := by decide +kernel

def fMapped (f : Nat) : FEntry := { valid := true, rd := true, wr := false, peer := true, ctx := 0, pframe := f }

theorem witness_frameMapCommands :
    (let s := fState {} .pool
     after (exec (.map 0 (fGo 1)) s) (fTaken s 1 (fMapped 40000) (fMapped 40001) (.held 0 false) id)) ∧
    (let s := fState { fE true with sframe := 50000, scopied := true } .pool
     after (exec (.unmap 0 (fGo 2)) s) fun t => decide (t.entry 64 = {}) && decide (t.entry 65 = {}) &&
       decide (t.hbm.frames = [(40000, .zeroing none), (40001, .zeroing none), (50000, .zeroing none)]) && decide ((t.fm 0).status = 1)) ∧
    (let s := fState (fE true) (.held 0 false)
     after (exec (.setperm 0 (fGo 3)) s) (fTaken s 3 { fE false with peer := true, pframe := 40000 } { fE false with peer := true, pframe := 40001 } (.held 0 false) id)) ∧
    (let s := fState (fE true) (.held 0 false)
     after (exec (.snapshot 0 (fGo 4)) s) (fTaken s 4 { fE true with snap := true, pframe := 40000 } { fE true with snap := true, pframe := 40001 } (.held 0 false) id)) ∧
    (let s := fState { fE true with sframe := 50000, scopied := true } (.held 0 false)
     let s1 := { s with hbm := { s.hbm with fm := [(0, { fSet with arg := 2 ^ 24 })] } }
     after (exec (.releaseSnapshot 0 (fGo 5)) s1) fun t => decide (t.entry 64 = { fE true with pframe := 40000 }) &&
       decide (mget .pool t.hbm.frames 50000 = .zeroing (some 0)) && decide ((t.ctx 0).cowD4 = 1)) ∧
    (let s := fState { fE true with poison := 15 } (.held 0 false)
     after (exec (.clearPoison 0 (fGo 6)) s) (fTaken s 6 { fE true with poison := 8, pframe := 40000 } { fE true with pframe := 40001 } (.held 0 false) id)) ∧
    (let s := { tState with hbm := { tState.hbm with fm := [(1, { fSet with status := 1, waits := [7] })] } }
     isAfter (exec (.frameMapCommandComplete 1) s) { tState with hbm := { tState.hbm with fm := [(1, { fSet with status := 2 })] } }) := by decide +kernel

def zState (back : Option Nat) (bad : Bool) : State :=
  { tState with hbm := { tState.hbm with frames := [(40000, .zeroing back)], mem := [(40000 * 65536 + 7, 9), (40001 * 65536, 8)], suspect := if bad then [(40000, true)] else [] } }
def zClean (f : SMap FrameSt) : State := { tState with hbm := { tState.hbm with mem := [(40001 * 65536, 8)], frames := f } }

theorem witness_frameZeroed :
    isAfter (exec (.frameZeroed 40000 false) (zState none true)) (zClean []) ∧ isAfter (exec (.frameZeroed 40000 true) (zState none false)) (zClean []) ∧
    isAfter (exec (.frameZeroed 40000 false) (zState (some 0) false)) (zClean [(40000, .held 0 true)]) ∧
    isAfter (exec (.frameZeroed 40000 true) (zState none true)) ((zClean [(40000, .retired)]).raise { code := 0x030C, detail := 40000 }) := by decide +kernel

/-- Everything is On but domain `4 + h`, which stands at `st`. -/
def dState (h st : Nat) : State :=
  { tState with
    tsets := [], ctxs := []
    hbm := { tState.hbm with mem := [(65536 * 1, 5), (65536 * 9000000, 6)] }
    pwr := { tState.pwr with domains := mset {} tState.pwr.domains (4 + h) { st := st } } }
def dAfter (t : State) (h st : Nat) (x : Hdom) (mem : Memory) : State :=
  { t with pwr := { t.pwr with domains := mset {} t.pwr.domains (4 + h) { st := st } }
           hbm := { t.hbm with hdom := mset {} t.hbm.hdom h x, mem := mem } }

/-- A partner window over the first two frames of the upper half, bound for context 0: (window, its registers). -/
def dWin : Nat × PWin := (1, { ctx := 0, first := 4718592, frames := 2 })

/-- The fence loses the partner windows of its domain; at On the held frames of contexts are in the pool again, those of windows and retired
ones stay, and the granules of the log are poisoned. -/
theorem witness_domainReturns :
    (let s := dState 1 3
     let s := { s with hbm := { s.hbm with hdom := [(1, { down := true, confirmed := [1] })], pwin := [dWin] } }
     after (exec (.hbmDomainFence 1) s) fun t => (t.pwin 1).lost && decide ((t.pwin 1).first = 4718592) && decide ((t.dom 5).st = 0)) ∧
    (let s := dState 0 1
     let s := { s with hbm := { s.hbm with
       hdom := [(0, { up := true, log := [3] })], frames := [(9, .held 2 false), (11, .retired), (9000000, .held 2 false)] } }
     after (exec (.hbmDomainOn 0) s) fun t => decide ((t.dom 4).st = 2) && decide (t.hdom 0 = {}) &&
       decide (t.hbm.frames = [(11, .retired), (9000000, .held 2 false)]) && t.hbmPoisoned 48 && t.hbmPoisoned 63 && !t.hbmPoisoned 47 &&
       !t.hbmPoisoned 64) ∧
    (let s := dState 1 1
     let s := { s with hbm := { s.hbm with
       hdom := [(1, { up := true, logOverflow := true })], pwin := [dWin], frames := [(4718592, .held 0 false), (4718594, .held 0 false)] } }
     (s.dom 5).st = 1 ∧ s.pwinsIn 1 = [1] ∧ s.darkGranules 1 = (List.range 128).map (fun g => 64 * 4718592 + g) ∧
       (s.framesBack 1).hbm.frames = [(4718592, .held 0 false)]) := by decide +kernel

theorem witness_hbmDomains :
    (let s := dState 1 2
     isAfter (exec (.hbmDomainDown 1) s) (dAfter (s.access 1 0x600410) 1 3 { down := true } s.hbm.mem)) ∧
    (let s := { dState 0 2 with tsets := tState.tsets }
     isAfter (exec (.hbmDomainDown 0) s) ((s.access 1 0x600400).refusePower 4 0)) ∧
    (let s := { dState 1 3 with hbm := { (dState 1 3).hbm with hdom := [(1, { down := true })] } }
     isAfter (exec (.hbmDomainFence 1) s) (dAfter s 1 0 { fenced := true } [(65536, 5)])) ∧
    (let s := { dState 0 3 with hbm := { (dState 0 3).hbm with
       hdom := [(0, { down := true })], fmap := [(7, { valid := true, ctx := 5, pframe := 9000000 })], frames := [(5000, .zeroing none)] } }
     after (exec (.hbmDomainFence 0) s) fun t => decide (t.hbm.fmap = []) && decide (t.hbm.frames = [(9000000, .zeroing none)]) &&
       decide (t.hbm.mem = [(65536 * 9000000, 6)]) && t.pln.hbmLost && !t.pln.trainPowered && decide ((t.dom 4).st = 0)) ∧
    (let s := dState 0 0
     isAfter (exec (.hbmDomainUp 0) s) (dAfter (s.access 1 0x600400) 0 1 { up := true } s.hbm.mem)) ∧
    (let s := { dState 0 0 with pwr := { tState.pwr with domains := [(0, { st := 2 }), (18, { st := 2 })] } }
     isAfter (exec (.hbmDomainUp 0) s) ((s.access 1 0x600400).refusePower 4 1)) ∧
    (let s := dState 0 1
     isAfter (exec (.hbmDomainOn 0) s) (dAfter s 0 2 {} [(65536 * 9000000, 6)])) := by decide +kernel

end Frames

namespace Copies

/-- A DMA queue of engine 15 in frame 0 of context 0, with one descriptor `raw`, stored with poison or not. -/
def dRaw (opcode flags lines src dst pattern counter amount : Nat) : Nat :=
  opcode + 2 ^ 8 + flags * 2 ^ 16 + lines * 2 ^ 32 + src * 2 ^ 64 + dst * 2 ^ 128 + pattern * 2 ^ 192 + counter * 2 ^ 256 + amount * 2 ^ 320
def dQueue : Queue :=
  { addr := 0, ownerKind := 2, ownerId := 15, ctx := 0, state := 2, wr := 128
    recs := [{ seq := 0, bytes := 128, pad := false, pos := 0, complete := true, hostCmd := none }] }
def dState (raw : Nat) (poison : Bool) : State :=
  { tState with
    nextId := 60
    rmn := { tState.rmn with queues := [(5, dQueue)] }
    hbm := { tState.hbm with
      fmap := [(0, { valid := true, rd := true, wr := true, ctx := 0, pframe := 40000 })]
      mem := memWrite [] (40000 * 65536 + 128) 64 raw, poison := if poison then [(40000 * 1024 + 2, true)] else [] } }
def dDesc (raw n : Nat) : Desc :=
  { id := 60, engine := 15, queue := 5, ctx := 0, raw := raw, lines := n, acked := 0, hostPoison := 0, hostCmd := none, meshBad := false, faulted := false }
def dTaken (s : State) (raw n : Nat) : State := { s with nextId := 61, hbm := { s.hbm with descs := [dDesc raw n], nextQueue := [(15, 6)] } }

theorem witness_dmaFill :
    (let r := dRaw 2 0 2 0 0x10000 9 0 0
     let s := dState r true
     isAfter (exec (.dmaFill 15 5) s) ((dTaken s r 2).descFault (dDesc r 2) (descPoison 0 128))) ∧
    (let r := dRaw 2 0 2 0 0x10001 9 0 0
     let s := dState r false
     (s.dmaCheck 0 5 r).any fun rec => isAfter (exec (.dmaFill 15 5) s) ((dTaken s r 2).descFault (dDesc r 2) rec)) ∧
    (let r := dRaw 2 0 2 0 0x10000 9 0 0
     let s := dState r false
     isAfter (exec (.dmaFill 15 5) s)
       ((dTaken s r 2).issueMem (.dma 60) (.dma 15) 0 0x10000 true false (List.replicate 2 (fillLine 9, false)))) ∧
    (let r := dRaw 2 0 2 0 (tileAddr 0 512) 9 0 0
     let s := dState r false
     after (exec (.dmaFill 15 5) s) fun t =>
       decide ((t.tile 0).lines 8 3 = [(fillLine 9, false), (fillLine 9, false), (0, false)]) && decide (t.hbm.descs = [{ dDesc r 2 with acked := 2 }])) := by
  decide +kernel

theorem witness_dmaCopy :
    (let r := dRaw 1 0 1 (tileAddr 0 512) 0x10000 9 0 0
     let s := dState r false
     (s.dmaCheck 0 5 r).any fun rec => isAfter (exec (.dmaCopy 15 5) s) ((dTaken s r 1).descFault (dDesc r 1) rec)) ∧
    (let r := dRaw 1 0 1 (tileAddr 0 512) 0x10000 0 0 0
     let s := dState r false
     isAfter (exec (.dmaCopy 15 5) s) ((dTaken s r 1).issueMem (.dma 60) (.dma 15) 0 0x10000 true false [(0, false)])) ∧
    (let r := dRaw 1 1 1 64 0x10000 0 0 0
     let s := dState r false
     let s1 := { s with hif := { s.hif with fns := [(1, { busMaster := true })] } }
     isAfter (exec (.dmaCopy 15 5) s1) ((dTaken s1 r 1).askHost (dDesc r 1) 1 0) ∧
     isAfter (exec (.dmaCopy 15 5) s) ((dTaken s r 1).descFault (dDesc r 1) (hostAbort 0 4))) := by decide +kernel

def doneState (raw hostPoison : Nat) : State :=
  { tState with
    nextId := 61, rmn := { tState.rmn with queues := [(5, dQueue)] }
    hbm := { tState.hbm with descs := [{ dDesc raw 2 with acked := 2, hostPoison := hostPoison }] } }
def doneAfter (raw hostPoison : Nat) : State :=
  let s := doneState raw hostPoison
  { s with hbm := { s.hbm with descs := [], completed := [(15, 1)] } }
def dFreed (t : State) : State := t.setQueue 5 ((t.queue 5).release 1)

theorem witness_dmaDescriptorComplete :
    (let r := dRaw 2 0 2 0 0x10000 9 0 0
     isAfter (exec (.dmaDescriptorComplete 60) (doneState r 0)) (dFreed (doneAfter r 0)) ∧
     isAfter (exec (.dmaDescriptorComplete 60) (doneState r 1))
       (dFreed ((doneAfter r 1).raise { code := 0x0A02, ctx := 0, detail := 1 + 2 ^ 8 }))) ∧
    (let r := dRaw 2 8 2 0 0x10000 9 (counterAddr 255) 16
     let t := doneAfter r 0
     isAfter (exec (.dmaDescriptorComplete 60) (doneState r 0)) (dFreed { t with
       nextId := 62
       syu := { t.syu with inbound := [{
         id := 61, src := .dma 15, ctx := 0, who := none, hostCmd := none, tag := 0, body := .inc 255 16 }] } })) := by decide +kernel

/-- The firmware's context has its host queue at descriptor 32,767; a descriptor stores line 3 of a register window. -/
theorem witness_firmwareDma :
    (let r := dRaw 1 0 1 (tileAddr 0 512) (15 * 2 ^ 52 + 0xE00100) 0 0 0
     let d := { dDesc r 1 with queue := 32767, ctx := 16, regLines := [(0, 5)] }
     let s := { doneState r 0 with hbm := { (doneState r 0).hbm with descs := [d] } }
     isAfter (exec (.dmaDescriptorComplete 60) s) (s.flushRegs 60) ∧ ((s.flushRegs 60).desc 60).map Desc.acked = some 1 ∧
     (s.flushRegs 60).pln.coreTags ≠ s.pln.coreTags) := by decide +kernel

end Copies

namespace Ports

/-- Port 6 in state `st`, with context 0 bound on it. -/
def pPort (st : PortSt) : Port := { st := st, expected := 7, signal := true, version := 2, ackedSeq := 3, partials := [], rx := [] }
def pState (p : Port) : State :=
  { tState with lnk := { tState.lnk with ports := [(6, p)], binds := [(96, { st := 2, peerCtx := 3, tag := 77 })] } }
/-- A flit with SEQ, ACK, RETRY_REQ and IDLE, and slot 0 with its tag; `good` sets the right CRC. -/
def flit (seq ack retry idle tag slot : Nat) (good : Bool) : Nat :=
  let v := seq + ack * 2 ^ 16 + retry * 2 ^ 32 + idle * 2 ^ 33 + tag * 2 ^ 64 + slot * 2 ^ 192
  v + (if good then crc64 v 280 else 0) * 2 ^ 2240
def pAfter (s : State) (p : Port) : State := { s with lnk := { s.lnk with ports := [(6, p)] } }
def pDown (p : Port) : Port :=
  { p with
    st := .down, version := 0, suspended := false, expected := 0, ackedSeq := 0, retrying := false, seq := 0, sent := []
    abilitySent := false, partials := [], rx := [], downEvents := if p.st = .up then p.downEvents + 1 else p.downEvents }
def pEnded (s : State) (p : Port) (cause : Nat) : State :=
  (pAfter s p).raiseAll [{ code := 0x0701, ctxFatal := true, ctx := 0, detail := 6 + cause * 2 ^ 4 }]
def pHead : Nat := 4 + 0 * 2 ^ 8 + 5 * 2 ^ 24

/-- Flits 8, 9 and 10 wait for their acknowledgement, each sent `n` times. -/
def pSent (n : Nat) : Port :=
  { pPort .up with seq := 11, sent := [{ seq := 8, flit := 80, times := n }, { seq := 9, flit := 90, times := n }, { seq := 10, flit := 100, times := n }] }
/-- Port 6 after the command. -/
def portAfter (o : Host.Outcome State Fault Refusal) (p : Port → Bool) : Bool := after o fun t => p (t.port 6)
/-- What left the block, last first: for a flit its SEQ, ACK and RETRY_REQ, and the credits of class 1. -/
def flitsOut (t : State) : List (Nat × Nat × Bool × Nat) :=
  t.outbox.filterMap fun o => match o with | .flit _ f => some (flitSeq f, flitAck f, flitRetry f, flitCredits f 1) | _ => none

set_option maxRecDepth 100000 in
theorem witness_flitReceive :
    (let o := exec (.flitReceive 6 (flit 7 9 1 1 0 0 true) false) (pState (pSent 1))
     portAfter o (fun p => decide (p.expected = 8) && decide (p.ackedSeq = 9) && decide (p.retries = 1) && decide (p.seq = 12) &&
       decide ((p.sent.map fun x => (x.seq, x.times)) = [(9, 2), (10, 2), (11, 0)])) ∧
     after o (fun t => decide (flitsOut t = [(11, 8, false, 0), (100, 0, false, 0), (90, 0, false, 0)]))) ∧
    portAfter (exec (.flitReceive 6 (flit 7 9 0 0 0xD pHead true) false) (pState (pPort .negotiating))) (fun p =>
      decide (p.expected = 8) && decide (p.rx = [packetOf 1 pHead []])) ∧
    (let o := exec (.flitReceive 6 (flit 8 9 0 1 0 0 true) false) (pState { pPort .up with owed := [(1, 70)] })
     portAfter o (fun p => p.retrying && decide (p.expected = 7) && decide (p.owed = [(1, 7)])) ∧
     after o (fun t => decide (flitsOut t = [(0, 7, true, 63)]))) ∧
    portAfter (exec (.flitReceive 6 (flit 7 9 0 1 0 0 true) true) (pState (pPort .up))) (fun p =>
      p.retrying && decide (p.fecUncorrectable = 1) && decide (p.expected = 7)) ∧
    (let o := exec (.flitReceive 6 (flit 7 9 0 1 0 0 false) false) (pState { pPort .up with retrying := true })
     portAfter o (fun p => p.retrying && decide (p.fecUncorrectable = 0) && decide (p.expected = 7)) ∧
     after o (fun t => decide (flitsOut t = [(0, 7, true, 0)])) ∧
     after (exec (.flitReceive 6 (flit 8 9 0 1 0 0 true) false) (pState { pPort .up with retrying := true })) (fun t =>
       decide (flitsOut t = [(0, 7, false, 0)]))) := by decide +kernel

/-- A full replay buffer lets no flit leave; one that is not full does. -/
theorem witness_replayBuffer :
    (let s (n : Nat) := pState { pPort .up with sent := List.replicate n { seq := 1, flit := 2, times := 0 } }
     decide ((((s 4096).sendFlit 6 false).outbox).length = 0) && decide ((((s 4095).sendFlit 6 false).outbox).length = 1) &&
     decide ((((s 4095).sendFlit 6 false).port 6).sent.length = 4096)) = true := by decide +kernel

set_option maxRecDepth 100000 in
/-- The request of a port with a full buffer leaves in the oldest flit, with the present ACK and a right CRC. -/
theorem witness_sentAgain :
    (let f := againWith (flit 5 1 0 1 0 0 true) 7
     decide (flitSeq f = 5) && decide (flitAck f = 7) && flitRetry f && flitCrcOk f) = true := by decide +kernel

/-- Port 6 with a partner-window write (its head and one line, class 1) and credits that the peer has returned; one whose slots are leaving. -/
def pTx : TxPkt := { ctx := 0, stamp := 0, pkt := { headOf 7 0 5 0 1 64 9 77 1 with payload := [(6, true)] } }
def pReady (sus : Bool) : Port := { pPort .up with suspended := sus, tx := [pTx], returned := [(1, 4)] }

set_option maxRecDepth 100000 in
/-- The write takes two credits of its class and stands in the first two slots; while the port is suspended it stays, and the flit is idle. -/
theorem witness_creditsTaken :
    (let t := (pState (pReady false)).sendFlit 6 false
     decide ((t.port 6).spent = [(1, 2)]) && decide ((t.port 6).tx = []) && decide ((t.port 6).begun = []) && decide ((t.port 6).seq = 1) &&
       (match t.outbox with | [.flit 6 f] => !flitIdle f && decide (flitTag f 0 = 5) && decide (flitTag f 1 = 25) && decide (flitTag f 2 = 0) | _ => false)) ∧
    (let t := (pState (pReady true)).sendFlit 6 false
     decide ((t.port 6).spent = []) && decide ((t.port 6).tx = [pTx]) &&
       (match t.outbox with | [.flit 6 f] => flitIdle f | _ => false)) ∧
    decide (((pState (pReady true)).nextTx (pReady true) 1) = none) ∧
    (let y : TxPkt := { pTx with stamp := 2 ^ 20 - 1 }
     decide (({ pState (pReady false) with now := 5 }).nextTx { pReady false with tx := [pTx, y] } 1 = some y) &&
       decide (({ pState (pReady false) with now := 5 }).nextTx { pReady false with version := 1, tx := [pTx, y] } 1 = some pTx)) := by
  decide +kernel

/-- A packet waits on port 6: its head and its line leave in one flit, head first; slot 3 may stay empty. -/
theorem witness_slots :
    (let x : TxPkt := { ctx := 0, stamp := 0, pkt := { headOf 1 0 5 0 1 64 9 77 1 with payload := [(6, true)] } }
     decide (x.pkt.slots = [(5, x.pkt.headSlot), (25, 6)]) && decide (byteOf x.pkt.headSlot 0 = 1) &&
       decide (bits x.pkt.headSlot 16 8 = 5) && decide (bits x.pkt.headSlot 64 64 = 64) && decide (bits x.pkt.headSlot 224 32 = 77)) = true := by
  decide +kernel

theorem witness_portEnds :
    isAfter (exec (.replayLimit 6) (pState (pSent 8))) ((pEnded (pState (pSent 8)) (pDown (pSent 8)) 1).train 6) ∧
    after (exec (.laneLockLoss 6) (pState (pPort .negotiating))) (fun t => decide (t = (pEnded (pState (pPort .negotiating)) (pDown (pPort .negotiating)) 2).modPort 6
      fun x => { x with signal := false })) ∧
    (let s := { pState (pPort .up) with now := 100000 }
     after (exec (.linkSilence 6) s) (fun t => decide (t = (pEnded s (pDown (pPort .up)) 3).modPort 6 fun x => { x with signal := false }))) ∧
    (let s := { pState (pPort .error) with lnk := { (pState (pPort .error)).lnk with binds := [] } }
     let t := (s.access 1 0x707000)
     isAfter (exec (.portDisable 6) s) (((pAfter t (pDown (pPort .error))).raiseAll [{ code := 0x0701, ctx := 0xFFFF, detail := 6 + 4 * 2 ^ 4 }]).modPort 6
       fun x => { x with enable := false })) := by decide +kernel

def pAcc (p : Port) : State := (pState p).access 1 0x707000

theorem witness_portControl :
    isAfter (exec (.portDisable 6) (pState (pPort .down))) (pAfter (pAcc (pPort .down)) { pPort .down with enable := false }) ∧
    isAfter (exec (.portEnable 6) (pState { pPort .down with enable := false })) (pAfter (pAcc (pPort .down)) { pPort .down with st := .training }) ∧
    isAfter (exec (.portEnable 6) (pState { pPort .down with signal := false })) (pAfter (pAcc (pPort .down)) { pPort .down with signal := false }) ∧
    isAfter (exec (.retrain 6) (pState (pPort .error))) (pAfter (pAcc (pPort .error)) { pDown (pPort .error) with st := .training }) ∧
    isAfter (exec (.retrain 6) (pState (pPort .down))) (pAcc (pPort .down)) ∧
    isAfter (exec (.linkSignalDetect 6) (pState { pPort .down with signal := false })) (pState { pPort .down with st := .training }) ∧
    isAfter (exec (.linkSignalDetect 6) (pState { pPort .up with signal := false })) (pState (pPort .up)) ∧
    isNext (exec (.retrain 6) (pState (pPort .up))) := by decide +kernel

/-- Port 6 hears ABILITY. -/
def heard (floor versions peerPort : Nat) (p : Port) (t : State → State) : Bool :=
  let s := pState (pPort .negotiating)
  let s1 := { s with pln := { s.pln with fuses := { s.pln.fuses with verjoFloor := floor } } }
  isAfter (exec (.ability 6 versions 0 0 peerPort 99) s1) (t (pAfter s1 p))
def pHeard (n : Nat) : Port := { pPort .negotiating with peerPort := n, peerId := 99 }
def pFail (versions floor r : Nat) (t : State) : State := t.raise { code := 0x0702, detail := 6 + versions * 2 ^ 4 + floor * 2 ^ 8 + r * 2 ^ 12 }

theorem witness_portTraining :
    (let s := pState (pPort .training)
     isAfter (exec (.trainingComplete 6 true) s) ((pAfter s { pPort .training with st := .negotiating, abilitySent := true, expected := 0 }).out
        (.linkCtl 6 1 [7, 0, 0, 6, s.lnk.coord, 0])) ∧
     isAfter (exec (.trainingComplete 6 false) s) (pAfter s { pDown (pPort .training) with st := .training })) ∧
    (let s := { pState (pPort .training) with now := 25000000 }
     isAfter (exec (.trainingTimeout 6) s) (pAfter s { pDown (pPort .training) with st := .training, since := 25000000 })) ∧
    heard 0 7 6 { pHeard 6 with st := .up, version := 2 } id ∧ heard 0 1 6 { pHeard 6 with st := .up, version := 0 } id ∧
    heard 0 0 6 { pHeard 6 with st := .error, error := 1 } (pFail 0 0 1) ∧ heard 2 3 6 { pHeard 6 with st := .error, error := 2 } (pFail 3 2 2) ∧
    heard 0 7 5 { pHeard 5 with st := .error, error := 3 } (pFail 7 0 3) := by decide +kernel

end Ports

namespace Links

/-- Port 0 is Up; context 0 has the binding `b` on it. -/
def bState (p : Port) (b : Binding) : State := { tState with nextId := 60, lnk := { tState.lnk with ports := [(0, p)], binds := [(0, b)] } }
def bHeard (s : State) (tag : Nat) : State :=
  { s with lnk := { s.lnk with bindMsgs := [{ port := 0, ctx := 0, peerCtx := 3, tag := tag, expected := 0 }] } }

theorem witness_bindingEvents :
    (let s := bState upPort (bBind 1)
     isAfter (exec (.bind 0 0 3 77 0) s) ((bHeard s 77).setBinding 0 0 (bBind 2)) ∧ isAfter (exec (.bind 0 0 3 76 0) s) (bHeard s 76)) ∧
    (let s := bState upPort (bBind 2)
     isAfter (exec (.bind 0 0 3 77 0) s) (bHeard s 77) ∧ isAfter (exec (.unbind 0 3 76 2) s) s ∧
     isAfter (exec (.unbind 0 3 77 1) s) (s.setBinding 0 0 (bBind 3)) ∧
     isAfter (exec (.unbind 0 3 77 2) s) ((s.setBinding 0 0 (bBind 3)).raise { code := 0x0706, ctxFatal := true, ctx := 0, detail := 0 })) ∧
    isAfter (exec (.reserve 0 1 2 3) (bState upPort {}))
      { bState upPort {} with lnk := { (bState upPort {}).lnk with reserves := [{ port := 0, tag := 1, d4 := 2, d5 := 3 }] } } ∧
    (let s := { bState upPort (bBind 1) with now := ticksMs 30000, ctxs := [(0, { st := .loading })] }
     isAfter (exec (.bindTimeout 0 0) s) (s.raise { code := 0x0703, ctxFatal := true, ctx := 0, detail := 0 })) := by decide +kernel

/-- Partner window 0 holds frames 40000 and 40001 for context 0. -/
def wState (p : Port) : State :=
  { bState p (bBind 2) with hbm := { tState.hbm with pwin := [(0, { first := 40000, frames := 2, ctx := 0 })], descs := [{
    id := 9, engine := 4, queue := 5, ctx := 0, raw := 0, lines := 1, acked := 0, hostPoison := 0, hostCmd := none, meshBad := false, faulted := false }] } }
def wPkt (kind addr : Nat) : LPkt :=
  { kind := kind, iss := 3, dst := 0, info := 2, lines := 1, addr := addr, token := 8, age := 0, tag := 77, body := 0, payload := [(6, false)], cls := 1 }
def wPort (kind addr : Nat) : Port := { upPort with rx := [wPkt kind addr] }
/-- The port after it has taken a packet of two slots of class `c`: two credits are owed. -/
def tookPort (p : Port) (c : Nat := 1) : Port := { p with owed := [(c, 2)] }

theorem witness_partnerWindows :
    (let s := wState upPort
     isAfter (exec (.suspended 0 0) s) { s with hbm := { s.hbm with hdom := [(0, { confirmed := [0] })] } } ∧
     isAfter (exec (.suspend 0 0) s) ((s.setPort 0 { upPort with suspended := true }).out (.linkCtl 0 6 [0])) ∧
     isAfter (exec (.suspended 0 1) s) s ∧ isAfter (exec (.suspended 0 0) (wState (wPort 7 64))) (wState (wPort 7 64)) ∧
     (let busy : Port := { upPort with begun := [(1, [(9, 6)])] }
      isAfter (exec (.suspend 0 0) (wState busy)) (wState { busy with suspended := true, suspendDue := some 0 })) ∧
     isAfter (exec (.resume 0 0) (wState { upPort with suspended := true })) s) ∧
    (let h : HeldWrite := { ctx := 0, desc := 9, offset := 128, data := 6, poison := true }
     isAfter (exec (.resume 0 0) (wState { upPort with suspended := true, held := [h] }))
       ((wState upPort).sendPeer 0 0 (.dma 4) 7 0 128 1 1 [(6, true)] (.dmaWrite 9 true 2))) ∧
    (let naks (o : Host.Outcome State Fault Refusal) := after o fun t =>
       decide (t.outbox.map (fun x => match x with | .link k p => (k, p.kind, p.info) | _ => (0, 0, 0)) = [(0, 6, 6)])
     let s := wState { upPort with version := 0 }
     naks (exec (.suspend 0 0) s) ∧ naks (exec (.resume 0 1) s)) ∧
    (let w : Waiting := { token := 8, port := 0, ctx := 0, src := .dma 4, since := 0, use := .dmaWrite 9 true 5 }
     let s := { wState upPort with now := ticksMs 10, lnk := { (wState upPort).lnk with waiting := [w] } }
     isAfter (exec (.pwinWriteUnacked 8) s)
       ({ wState upPort with now := ticksMs 10 }.raise { code := 0x0707, ctxFatal := true, ctx := 0, detail := 5 * 2 ^ 8 }) ∧
     (let u := s.setPort 0 { upPort with tx := [{ ctx := 0, stamp := 0, pkt := wPkt 7 64 }] }
      isAfter (exec (.pwinWriteUnacked 8) u) u)) := by decide +kernel

theorem witness_pwinWriteArrival :
    (let s := { wState (wPort 7 64) with lnk := { (wState (wPort 7 64)).lnk with binds := [] } }
     isAfter (exec (.pwinWriteArrival 0) s) (((s.setPort 0 (tookPort upPort)).reply 0 0 (wPkt 7 64) 6 1 0 []).raise
       { code := 0x0704, detail := 3 * 2 ^ 4 + 7 * 2 ^ 12 })) ∧
    (let s := wState { wPort 7 64 with version := 0 }
     isAfter (exec (.pwinWriteArrival 0) s) ((s.setPort 0 (tookPort { upPort with version := 0 })).reply 0 0 (wPkt 7 64) 6 6 0 [])) ∧
    (let s := wState (wPort 7 131072)
     isAfter (exec (.pwinWriteArrival 0) s) ((s.setPort 0 (tookPort upPort)).reply 0 0 (wPkt 7 131072) 6 5 0 [])) ∧
    (let s := wState (wPort 7 131008)
     let s1 := { s with hbm := { s.hbm with hdom := [(0, { fenced := true })] } }
     after (exec (.pwinWriteArrival 0) s1) (fun t => decide (t.hbm = { s1.hbm with hdom := [(0, { fenced := true, log := [40001 * 64 + 63] })] })) ∧
     isAfter (exec (.pwinWriteArrival 0) s) { s.setPort 0 (tookPort upPort) with
       nextId := 62
       hbm := { s.hbm with
         ops := [{ id := 60, kind := .peer 0 8, src := .port 0, ctx := 0, write := true, left := 1, refused := none, meshBad := false }]
         accs := [{
           id := 61, src := .port 0, ctx := 0, op := 60, idx := 0, vaddr := 40001 * 65536 + 65472, write := true, data := 6, poison := false
           snap := false, phys := 40001 * 65536 + 65472, stage := .toChan }] }
       lnk := { (s.setPort 0 (tookPort upPort)).lnk with peerOps := [{ id := 60, port := 0, pkt := wPkt 7 131008, ctx := 0 }] } }) := by decide +kernel

/-- A packet of kind `kind` arrives while `use` waits for token 8. -/
def rState (kind : Nat) (use : Option TokenUse) (p : Port := upPort) : State :=
  let s := wState { p with rx := [wPkt kind (counterAddr 200)] }
  { s with lnk := { s.lnk with
    waiting := match use with | none => [] | some u => [{ token := 8, port := 0, ctx := 0, src := .dma 4, since := 0, use := u }] } }
def rTaken (p : Port := upPort) (c : Nat := 1) : State := wState (tookPort p c)
def rOpened (x : LPkt) (p : Port := upPort) : State :=
  { rTaken p with lnk := { (rTaken p).lnk with peerOps := [{ id := 60, port := 0, pkt := x, ctx := 0 }] } }

theorem witness_remotePackets :
    (let s := { rState 4 none with lnk := { (rState 4 none).lnk with binds := [] } }
     isAfter (exec (.remotePacketReceive 0) s) (((s.setPort 0 (tookPort upPort)).reply 0 0 (wPkt 4 (counterAddr 200)) 6 1 0 []).raise
       { code := 0x0704, detail := 3 * 2 ^ 4 + 4 * 2 ^ 12 })) ∧
    (let x := { wPkt 1 64 with cls := 0 }
     let p := { upPort with version := 0 }
     isAfter (exec (.remotePacketReceive 0) (wState { p with rx := [x] })) ((rTaken p 0).reply 0 0 x 6 6 0 [])) ∧
    (let s0 := wState (wPort 1 64)
     let s := { s0 with lnk := { s0.lnk with wcfg := 0x1F * 4 + 1, ports := [(6, wPort 1 64)], binds := [(96, bBind 2)] } }
     isAfter (exec (.remotePacketReceive 6) s) ((s.setPort 6 (tookPort upPort)).reply 6 0 (wPkt 1 64) 6 6 0 [])) ∧
    after (exec (.remotePacketReceive 0) { wState { upPort with rx := [{ wPkt 4 (counterAddr 200) with age := 5 }] } with now := 7 }) (fun t =>
      decide (t.syu.inbound.map SyuItem.stamp = [2])) ∧
    isAfter (exec (.remotePacketReceive 0) (rState 4 none)) { rOpened (wPkt 4 (counterAddr 200)) with
      nextId := 61
      syu := { tState.syu with inbound := [{
        id := 60, src := .port 0, ctx := 0, who := none, hostCmd := none, tag := 77, body := .inc 200 2 }] } } ∧
    isAfter (exec (.remotePacketReceive 0) (wState (wPort 1 64))) ((rOpened (wPkt 1 64)).issueMem (.peer 0 8) (.port 0) 0 64 true false [(6, false)]) ∧
    isAfter (exec (.remotePacketReceive 0) (wState (wPort 2 64)))
      ((rOpened { wPkt 2 64 with payload := [(0, false)] }).issueMem (.peer 0 8) (.port 0) 0 64 false false [(0, false)]) ∧
    (let s := { wState (wPort 1 64) with ctxs := [] }
     isAfter (exec (.remotePacketReceive 0) s) ((({ rTaken with ctxs := [] }).reply 0 0 (wPkt 1 64) 6 3 0 []).raise
       { code := 0x0301, ctx := 0, addr := 64, detail := 3 + 2 ^ 4 })) ∧
    isAfter (exec (.remotePacketReceive 0) (rState 5 none)) rTaken := by decide +kernel

theorem witness_remoteAnswers :
    isAfter (exec (.remotePacketReceive 0) (rState 5 (some (.dmaWrite 9 false 0)))) (rTaken.modDesc 9 fun y => { y with acked := 1 }) ∧
    isAfter (exec (.remotePacketReceive 0) (rState 5 (some (.collWrite 9)))) rTaken ∧
    isAfter (exec (.remotePacketReceive 0) (rState 5 (some (.inc none 0)))) rTaken ∧
    isAfter (exec (.remotePacketReceive 0) (rState 5 (some (.inc (some tWho) 0)))) (rTaken.freeTicket tWho false) ∧
    isAfter (exec (.remotePacketReceive 0) (rState 3 (some (.dmaRead 9 1 1)))) (rTaken.issueMem (.dma 9) (.dma 4) 0 64 true false [(6, false)]) ∧
    isAfter (exec (.remotePacketReceive 0) (rState 5 (some (.dmaRead 9 1 1)))) { rTaken with lnk := { (rState 5 (some (.dmaRead 9 1 1))).lnk with ports := rTaken.lnk.ports } } ∧
    isAfter (exec (.nakReceive 0) (rState 6 none)) rTaken ∧
    after (exec (.nakReceive 0) (rState 6 (some (.dmaWrite 9 false 0)))) (fun t =>
      decide (t.pln.hold.map (fun r => (r.code, r.detail)) = [(0x0705, 2 * 2 ^ 4)])) ∧
    after (exec (.nakReceive 0) (rState 6 (some (.collWrite 9)))) (fun t => decide (t.nextId = 60)) ∧
    isAfter (exec (.nakReceive 0) (rState 6 (some (.inc none 7)))) ((rTaken.drawn 1).raise { code := 0x0505, ctxFatal := true, ctx := 0, addr := 7, detail := 2 ^ 4 }) ∧
    (let nak (reason : Nat) (u : TokenUse) :=
       let s := wState { upPort with rx := [{ wPkt 6 0 with info := reason }] }
       exec (.nakReceive 0) { s with lnk := { s.lnk with waiting := [{ token := 8, port := 0, ctx := 0, src := .dma 4, since := 0, use := u }] } }
     after (nak 4 (.inc (some tWho) 7)) (fun t => decide (t.pln.hold.map (fun r => (r.code, r.locValid, r.tile)) = [(0x0505, true, 0)])) ∧
     after (nak 1 (.dmaWrite 9 false 0)) (fun t => decide (t.pln.hold.map (fun r => (r.code, r.detail)) = [(0x0705, 2 ^ 4 + 0x0704 * 2 ^ 8)])) ∧
     after (nak 3 (.dmaWrite 9 false 0)) (fun t => decide (t.pln.hold.map FaultRec.code = [0x0705]))) := by decide +kernel

end Links

namespace Collects

/-- A collective queue of unit 0 in frame 0 of context 0, with the descriptor `raw` and operand lines at 0x1000 and 0x2000. -/
def cRaw (opcode flags head count a b dst : Nat) : Nat :=
  opcode + 2 ^ 8 + flags * 2 ^ 16 + head * 2 ^ 24 + count * 2 ^ 32 + a * 2 ^ 64 + b * 2 ^ 128 + dst * 2 ^ 192
def cQueue (u : Nat) : Queue :=
  { addr := 0, ownerKind := 3, ownerId := u, ctx := 0, state := 2, wr := 128
    recs := [{ seq := 0, bytes := 128, pad := false, pos := 0, complete := true, hostCmd := none }] }
def cBase : Nat := 40000 * 65536
def cState (u raw a b : Nat) (poison : Bool) : State :=
  { tState with
    nextId := 60
    rmn := { tState.rmn with queues := [(5, cQueue u)] }
    hbm := { tState.hbm with
      fmap := [(0, { valid := true, rd := true, wr := true, ctx := 0, pframe := 40000 })]
      mem := memWrite (memWrite (memWrite [] (cBase + 128) 64 raw) (cBase + 0x1000) 64 a) (cBase + 0x2000) 64 b
      poison := if poison then [(cBase / 64 + 2, true)] else [] } }
def cDesc (u raw n : Nat) : CDesc :=
  { id := 60, unit := u, queue := 5, ctx := 0, raw := raw, left := n, own := none, twin := none, written := false, faulted := false }
def cTaken (s : State) (u raw n : Nat) : State := { s with nextId := 61, lnk := { s.lnk with cdescs := [cDesc u raw n], nextQueue := [(u, 6)] } }
def cLines (n v : Nat) : List PLine := (v, false) :: List.replicate (n - 1) (0, false)

theorem witness_collectives :
    (let r := cRaw 0x21 4 0 2 0x1000 0 0
     let s := cState 0 r 0 0 false
     isAfter (exec (.collectiveExpmax 0 5) s) ((cTaken s 0 r 0).cdescFault 60 { code := 0x0708, ctxFatal := true, ctx := 0, detail := 5 + 6 * 2 ^ 16 })) ∧
    (let r := cRaw 0x21 4 0 2 0x1000 0 0x3000
     let s := cState 0 r 0x40000000 0 false
     isAfter (exec (.collectiveExpmax 0 5) s)
       ((cTaken s 0 r 1).issueMem (.coll 60) (.coll 0) 0 0x3000 true false (expmaxOut r (cLines 2 0x40000000) []).lines)) ∧
    (let r := cRaw 0x22 0 4 1 0x1000 0x2000 0x3000
     let s := cState 0 r 0x40000000 2 false
     let o := encodeOut r (cLines 1 0x40000000) (cLines 1 2)
     isAfter (exec (.collectiveEncode 0 5) s) ((cTaken s 0 r 2).issueMem (.coll 60) (.coll 0) 0 0x3000 true false o.lines) ∧
     (let s := cState 0 r 0x60000000 2 false
      isAfter (exec (.collectiveEncode 0 5) s) (((cTaken s 0 r 2).issueMem (.coll 60) (.coll 0) 0 0x3000 true false
         (encodeOut r (cLines 1 0x60000000) (cLines 1 2)).lines).raise { code := 0x0709, ctx := 0, detail := 5 + 2 ^ 15 + 2 ^ 16 }))) ∧
    (let r := cRaw 0x23 0 0 1 0x1000 0x2000 0x3000
     let s := cState 0 r 7 8 false
     isAfter (exec (.collectiveAdd 0 5) s) ((cTaken s 0 r 2).issueMem (.coll 60) (.coll 0) 0 0x3000 true false (cLines 2 15)) ∧
     (let r := cRaw 0x23 2 0 1 0x1000 0x2000 0 + (2 * 2 ^ 52 + 64) * 2 ^ 384
      let s0 := cState 0 r 7 8 false
      let s := { s0 with lnk := { s0.lnk with ports := [(0, upPort)], binds := [(0, bBind 2)] } }
      (s.cInvalid 0 0 r = none) ∧
      isAfter (exec (.collectiveAdd 0 5) s) (((cTaken s 0 r 2).sendPeer 0 0 (.coll 0) 1 0 64 0 1 [(15, false)] (.collWrite 60)).sendPeer
        0 0 (.coll 0) 1 0 128 0 1 [(0, false)] (.collWrite 60)))) ∧
    (let r := cRaw 0x24 0 4 1 0x1000 0x2000 0x3000
     let s := cState 0 r (2 ^ 58) 2 false
     isAfter (exec (.collectiveDecode 0 5) s) ((cTaken s 0 r 1).issueMem (.coll 60) (.coll 0) 0 0x3000 true false
       (decodeOut r (cLines 2 (2 ^ 58)) (cLines 1 2)).lines)) := by decide +kernel

/-- W in the twin role, with the binding of context 0 on it. -/
def twinLnk (l : Lnk) : Lnk := { l with wcfg := 0x1F * 4 + 1, ports := [(6, upPort)], binds := [(96, bBind 2)] }
def cTwin (raw a b : Nat) : State := let s := cState 6 raw a b false; { s with lnk := twinLnk s.lnk }

theorem witness_collectiveDigest :
    (let r := cRaw 0x30 0 0 1 0x1000 0x1234 0x3000
     let s := cTwin r (0x2000 + 2 ^ 64) 99
     let digest := sha3 (0x1234 + 77 * 2 ^ 64 + 2 ^ 96 + 99 * 2 ^ 128) 80
     after (exec (.collectiveDigest 6 5) s) fun t =>
       decide (t.lnk.cdescs = [{ cDesc 6 r 0 with own := some (digest, false) }]) &&
       decide (t.outbox = [.linkCtl 6 8 [0, 3, 77, 0x1234, digest, 0, 0, 0]]) &&
       decide (t = { s with nextId := 61, outbox := t.outbox, lnk := { s.lnk with cdescs := t.lnk.cdescs, history := t.lnk.history, nextQueue := [(6, 6)] } })) := by decide +kernel

theorem witness_collectiveDescriptorComplete :
    (let r := cRaw 0x23 0 0 1 0x1000 0x2000 0x3000
     let s := cTaken (cState 0 r 0 0 false) 0 r 0
     isAfter (exec (.collectiveDescriptorComplete 60) s)
       (let t := { s with lnk := { s.lnk with cdescs := [] } }; t.setQueue 5 ((t.queue 5).release 1))) ∧
    (let r := cRaw 0x23 1 0 1 0x1000 0x2000 0x3000 + counterAddr 200 * 2 ^ 256 + 3 * 2 ^ 320
     let s := cTaken (cState 0 r 0 0 false) 0 r 0
     isAfter (exec (.collectiveDescriptorComplete 60) s)
       (let t := { s with
          nextId := 62, lnk := { s.lnk with cdescs := [] }
          syu := { s.syu with inbound := [{ id := 61, src := .coll 0, ctx := 0, who := none, hostCmd := none, tag := 0, body := .inc 200 3 }] } }
        t.setQueue 5 ((t.queue 5).release 1))) := by decide +kernel

def twState (ds : List CDesc) (h : List DigestRec) : State := { tState with nextId := 60, lnk := { twinLnk tState.lnk with cdescs := ds, history := h } }
def twDesc : CDesc := { cDesc 6 (cRaw 0x30 0 0 1 0x1000 9 0x3000) 0 with own := some (5, false) }
def twKept : DigestRec := { ctx := 0, label := 9, tag := 77, digest := 6, poisoned := true, ask := false, notHeld := false }

theorem witness_twinDigests :
    (let s := twState [] []
     isAfter (exec (.digestReceive 3 76 9 5 false false false) s)
       ((s.reply (s.lnk.named 6) 0 (headOf 8 3 0 0 0 0 0 76 1) 6 1 0 []).raise { code := 0x0704, detail := 6 + 3 * 2 ^ 4 + 8 * 2 ^ 12 }) ∧
     isAfter (exec (.digestReceive 3 77 9 5 false true false) s) (s.out (.linkCtl 6 8 [0, 3, 77, 9, 0, 0, 0, 1])) ∧
     isAfter (exec (.digestReceive 3 77 9 5 false true false) (twState [] [twKept])) ((twState [] [twKept]).out (.linkCtl 6 8 [0, 3, 77, 9, 6, 1, 0, 0])) ∧
     isAfter (exec (.digestReceive 3 77 9 6 true false false) s) { s with lnk := { s.lnk with digests := [twKept] } } ∧
     (let u := { s with lnk := { s.lnk with wcfg := 0x7C } }
      isAfter (exec (.digestReceive 3 77 9 5 false true false) u) (u.reply (u.lnk.named 6) 0 (headOf 8 3 0 0 0 0 0 77 1) 6 6 0 []) ∧
      isAfter (exec (.digestReceive 3 77 9 5 false false false) u) (u.reply (u.lnk.named 6) 0 (headOf 8 3 0 0 0 0 0 77 1) 6 6 0 []))) ∧
    (let sent (x : Nat) (o : Nat) := (twState [{ twDesc with twin := some (x, false), written := true, left := 2 }] []).issueMem (.coll 60) (.coll 6) 0
       0x3000 true false [(5 + x * 2 ^ 256, false), (9 + o * 2 ^ 64, false)]
     isAfter (exec (.digestReceive 3 77 9 5 false false false) (twState [twDesc] [])) (sent 5 1) ∧
     isAfter (exec (.digestReceive 3 77 9 6 false false false) (twState [twDesc] []))
       ((sent 6 2).raise { code := 0x070A, ctx := 0, detail := 2 + 9 * 2 ^ 4 })) ∧
    (let sent (bad poisoned : Bool) (o : Nat) : State :=
       (twState [{ twDesc with own := some (5, bad), twin := some (5, poisoned), written := true, left := 2 }] []).issueMem
         (.coll 60) (.coll 6) 0 0x3000 true false [(5 + 5 * 2 ^ 256, false), (9 + o * 2 ^ 64, false)]
     let r (o : Nat) : FaultRec := { code := 0x070A, ctx := 0, detail := o + 9 * 2 ^ 4 }
     isAfter (exec (.digestReceive 3 77 9 5 false false false) (twState [{ twDesc with own := some (5, true) }] [])) ((sent true false 3).raise (r 3)) ∧
     isAfter (exec (.digestReceive 3 77 9 5 true false false) (twState [twDesc] [])) ((sent false true 4).raise (r 4)) ∧
     isAfter (exec (.digestReceive 3 77 9 5 false false true) (twState [twDesc] [])) (sent false false 5)) := by decide +kernel

end Collects

namespace Telemetry

/-- Context 0 with the telemetry block `t`; the decision of step 0 is due. -/
def gTel (cfg streak : Nat) (e : Nat := 0) : Tel :=
  { gateCfg := 10 + 11 * 2 ^ 16 + 12 * 2 ^ 32 + 13 * 2 ^ 48, target := 4, scaleCfg := cfg, recordAddr := 0x40, gateMet := true, skipStreak := streak, e := e
    nextTotals := [(4, { total := 9 })] }
/-- E_MIN -1 or 0, E_MAX 1, GROW_INTERVAL, SKIP_LIMIT and SKIP_ENABLE. -/
def gCfg (eMin grow limit : Nat) (on : Bool) : Nat := eMin * 2 ^ 8 + 2 ^ 16 + grow * 2 ^ 24 + limit * 2 ^ 40 + (if on then 2 ^ 48 else 0)
def gState (t : Tel) (votes : Nat) : State :=
  { tState with
    tels := [(0, t)], tiles := [(0, { tTile with gate := .wait, gateStep := 0 }), (1, { tTile with gate := .wait, gateStep := 1 })]
    syu := { tState.syu with counters := if votes = 0 then [] else [(tState.phys 0 11, votes)] } }
def gAfter (s u : State) (skip : Bool) : Bool :=
  let t := s.tel 0
  let v := mget 0 s.syu.counters (s.phys 0 11)
  decide ((u.tel 0).step = 1) && decide ((u.tel 0).last = (if skip then 2 else 1)) && !(u.tel 0).gateMet && (u.tel 0).watching &&
  decide ((u.tel 0).totals = t.nextTotals) && decide ((u.tel 0).nextTotals = []) && decide ((u.tel 0).base0 = v) && decide ((u.tel 0).base1 = t.base1) &&
  decide (u.tile 0 = { s.tile 0 with gate := if skip then .skip else .commit }) && decide (u.tile 1 = s.tile 1) &&
  decide (u.hbm.accs.map (fun x => (x.src, x.ctx, x.vaddr, x.write)) = [(.tel 0, 0, 0x40, true)]) &&
  decide (u.hbm.accs.map (fun x => x.data) = [numRecord 0 (if skip then 2 else 1) (u.tel 0).e (u.tel 0).skipStreak (u.tel 0).commitStreak t.satBitmap]) &&
  decide (u.syu.inbound.map (fun x => x.body) = [.inc 13 1,
    .reg { ctx := 0, vid := 10, cmp := 0, expect := 8, t := 0, dest := .tel, bank := none, hostCmd := none }])

theorem witness_telEvents :
    (let item (b : TelBody) : State := { tState with telItems := [{ id := 3, tile := 0, ctx := 0, body := b }], tels := [(0, gTel 0 0)] }
     let p : Patina := { total := 5, zero := 1 }
     isAfter (exec (.patinaCountsReceive 3) (item (.counts 1 [(4, p)])))
       { tState with tels := [(0, { gTel 0 0 with nextTotals := [(4, { total := 14, zero := 1 })] })] } ∧
     isAfter (exec (.patinaCountsReceive 3) (item (.counts 0 [(4, p)]))) { tState with tels := [(0, { gTel 0 0 with totals := [(4, p)] })] } ∧
     (let put (y : Caliper) : State := { tState with tels := [(0, { gTel 0 0 with calipers := [(8 * 2 + 1, y)] })] }
      isAfter (exec (.calipersReport 3) (item (.calipers 2 1 0x3FF8000000000000 7 true))) (put { v := 3 * 2 ^ 79, count := 7, nonfinite := true }) ∧
      isAfter (exec (.calipersReport 3) (item (.calipers 2 1 0x43F0000000000000 7 false))) (put { v := 2 ^ 128 - 1, count := 7, saturated := true }) ∧
      isAfter (exec (.calipersReport 3) (item (.calipers 2 1 0x7FF0000000000000 7 false))) (put { count := 7, nonfinite := true }))) ∧
    (let s := gState (gTel (gCfg 0xFF 1 0 false) 3) 2
     after (exec (.gateDecision 0) s) fun u => gAfter s u false && decide ((u.tel 0).skipStreak = 0) && decide (u.pln = s.pln) &&
       decide ((u.tel 0).commitStreak = 0) && decide ((u.tel 0).e = 1)) ∧
    (let s := gState (gTel (gCfg 0xFF 5 0 true) 3) 0
     after (exec (.gateDecision 0) s) fun u => gAfter s u false && decide ((u.tel 0).commitStreak = 1) && decide ((u.tel 0).e = 0)) ∧
    (let s := gState (gTel (gCfg 0xFF 5 0 true) 3) 2
     let s := { s with pln := { s.pln with enabled := true } }
     after (exec (.gateDecision 0) s) fun u => gAfter s u true && decide ((u.tel 0).skipStreak = 4) && decide ((u.tel 0).commitStreak = 0) &&
       decide ((u.tel 0).e = 0xFF) && decide (u.pln.frq = [{ code := 0x0401, ctx := 0, detail := 0xFF + 4 * 2 ^ 8 }])) ∧
    (let s := gState (gTel (gCfg 0xFF 5 0 true) 255 0xFF) 2
     let s := { s with pln := { s.pln with enabled := true } }
     after (exec (.gateDecision 0) s) fun u => gAfter s u true && decide ((u.tel 0).skipStreak = 255) && decide ((u.tel 0).e = 0xFF) &&
       decide (u.pln.frq = [{ code := 0x0402, ctx := 0, detail := 0xFF + 255 * 2 ^ 8 }])) ∧
    (let s := gState (gTel (gCfg 0xFF 5 4 true) 3) 2
     let r : FaultRec := { code := 0x0403, ctxFatal := true, ctx := 0, detail := 0xFF + 4 * 2 ^ 8 }
     after (exec (.gateDecision 0) { s with pln := { s.pln with enabled := true } }) (fun u =>
       decide ((u.ctx 0).st = .running) && decide ((u.ctx 0).afterDecide = some r) && decide (u.pln.frq = [r]) && decide ((u.tel 0).step = 1) &&
       decide ((u.tel 0).last = 2) && !(u.tel 0).watching && decide (u.syu.inbound.map (fun x => x.body) = [.inc 13 1]) &&
       !u.decideOver 0 && decide (u.afterOrder7 = u)) ∧
     (let d : State := s.setCtx 0 { s.ctx 0 with afterDecide := some r }
      d.decideOver 0 = true ∧ d.afterOrder7 = d.consequence r ∧ (d.afterOrder7.ctx 0).st = .tearing)) ∧
    (let s := { tState with
        hif := { tState.hif with configReady := true, dlUp := true }
        pwr := { tState.pwr with domains := [(2, { st := 2 }), (18, { st := 2 })] }
        tels := [(0, { gTel 0 0 with head := 9, tail := 2 ^ 32 - 1 })] }
     isAfter (exec (.telRingTailWrite 2 0 9) s) ((s.access 2 0xA0004C).setTel 0 { s.tel 0 with tail := 9 }) ∧
     isAfter (exec (.telRingTailWrite 0x11 0 0) s) ((s.access 0x11 0xA0004C).setTel 0 { s.tel 0 with tail := 0 }) ∧
     isAfter (exec (.telRingTailWrite 2 0 10) s) s ∧ isAfter (exec (.telRingTailWrite 3 0 9) s) s ∧
     isAfter (exec (.telRingTailWrite 2 0 9) tState) tState) := by decide +kernel

/-- The ring of 64 records is on, at 0x1000, with `used` records in it; one Patina format in the totals follows the STEP record. -/
theorem witness_telRing :
    let st (used : Nat) : State :=
      gState { gTel (gCfg 0xFF 1 0 false) 0 with
        ringCtrl := 2 ^ 5 + 6, ringBase := 0x1000, head := 70, tail := 70 - used, totals := [(4, { total := 5 })] } 0
    let goes (used k dropped : Nat) (flags : Option Nat) : Bool := after (exec (.gateDecision 0) (st used)) fun u =>
      let t := u.tel 0
      decide (t.step = 1) && decide (t.last = 1) && decide (t.head = 70 + k) && decide (t.tail = 70 - used) && decide (t.dropped = dropped) &&
      decide (u.hbm.accs.length = 1 + k) &&
      (match flags with
        | some f => u.hbm.accs.any fun x => decide (x.src = .tel 0) && x.write && decide (x.vaddr = 0x1000 + 64 * 6) && decide (x.data % 2 ^ 128 = telHead 1 f 70 0)
        | none => true)
    goes 0 2 0 (some 0) ∧ goes 62 2 0 (some 0) ∧ goes 63 1 1 (some 1) ∧ goes 64 0 2 none := by decide +kernel

end Telemetry

namespace HostSide

/-- The host may reach the block, and function `f` is `fn`. -/
def hState (f : Nat) (fn : Fn) (cmds : List Cmd := []) (x : CtxSt := .running) : State :=
  { tState with
    nextId := 60, ctxs := [(0, { st := x, queues := [5], groups := [0] })]
    hif := { tState.hif with configReady := true, dlUp := true, fns := [(f, fn)], cmds := cmds }
    pln := { tState.pln with ready := true } }
def hRing (enable : Bool) (st device host : Nat) : Ring := { base := 0x10000, l := 6, enable := enable, device := device, host := host, st := st }
def hFn (r : Nat) (x : Ring) : Fn := { busMaster := true, rings := [(r, x)] }
def hPut (s : State) (f r : Nat) (x : Ring) : State := s.setFn f ((s.fn f).setRing r x)
def hAcc (s : State) (f r : Nat) : State := s.access (0x10 + f) (0x101108 + 0x1000 * f + 0x40 * r)

theorem witness_hostRings :
    (let s := hState 1 (hFn 0 (hRing true 1 4 5))
     isAfter (exec (.doorbell 1 0 5) s) (hPut s 1 0 { hRing true 1 4 5 with count := 1 }) ∧
     isAfter (exec (.doorbell 1 0 69) s) ((hPut s 1 0 { hRing true 1 4 5 with st := 2, cause := 1 }).raise { code := 0x0A04, ctx := 0, detail := 1 }) ∧
     isAfter (exec (.doorbell 1 0 68) s) ((hPut s 1 0 { hRing true 1 4 5 with host := 68 }).fetch 1)) ∧
    (let s := hState 0 (hFn 2 (hRing true 1 4 3))
     isAfter (exec (.doorbell 0 2 3) s) s ∧
     isAfter (exec (.doorbell 0 2 5) s) ((hPut s 0 2 { hRing true 1 4 3 with st := 2, cause := 1 }).raise { code := 0x0A04, ctx := 16, detail := 2 * 2 ^ 5 }) ∧
     isAfter (exec (.doorbell 0 2 4) s) ((hPut s 0 2 { hRing true 1 4 3 with host := 4 }).fetch 0) ∧
     isAfter (exec (.ringEnable 0 2 false) s) (hPut (hAcc s 0 2) 0 2 { hRing true 1 4 3 with enable := false, st := 0 }) ∧
     isAfter (exec (.ringEnable 0 2 true) s) (hAcc s 0 2) ∧
     isAfter (exec (.ringReset 0 2) s) (hAcc s 0 2)) ∧
    (let s := hState 1 (hFn 0 (hRing false 0 4 5))
     isAfter (exec (.ringEnable 1 0 true) s) ((hPut (hAcc s 1 0) 1 0 (hRing true 1 4 5)).fetch 1) ∧
     isAfter (exec (.ringReset 1 0) s) ((hAcc s 1 0).setFn 1 { (s.fn 1).setRing 0 (hRing false 0 0 0) with fetching := none })) ∧
    (let s := hState 1 (hFn 1 (hRing true 1 4 5)) [{ fn := 1, id := 41, num := 0, raw := 0, st := .fetched }]
     isAfter (exec (.ringEnable 1 1 false) s) (hAcc s 1 1)) ∧
    (let s := hState 1 (hFn 1 (hRing false 2 4 5))
     isAfter (exec (.ringReset 1 1) s) (hPut (hAcc s 1 1) 1 1 (hRing false 0 0 0)) ∧
     (let fn : Fn := { hFn 1 (hRing false 2 4 5) with heldEntries := [(1, 2, 7), (2, 3, 8)] }
      isAfter (exec (.ringReset 1 1) (hState 1 fn))
        ((hAcc (hState 1 fn) 1 1).setFn 1 { fn.setRing 1 (hRing false 0 0 0) with heldEntries := [(2, 3, 8)] }))) := by decide +kernel

/-- Function `f` has fetched the entry `raw`, with index 7. -/
def hCmd (f raw : Nat) : Cmd := { fn := f, id := 41, num := 7, raw := raw, st := .fetched }
def hDone : Fn := { busMaster := true, rings := [(1, hRing true 1 3 0)] }
def hGot (f raw : Nat) (x : CtxSt := .running) : State := hState f hDone [hCmd f raw] x
def hStarted (f raw : Nat) (x : CtxSt := .running) : State := hState f hDone [{ hCmd f raw with st := .started }] x
/-- An entry's head, and its body from byte 8 on. -/
def hRaw (op : Nat) (body : Nat := 0) : Nat := op + 2 ^ 8 + body * 2 ^ 64
def hAdmit (len image : Nat) : Nat := hRaw 1 (0xFFC0 + len * 2 ^ 64 + 0x100000 * 2 ^ 128 + image * 2 ^ 192)

def hIdle : Ctx := { st := .idle, queues := [5], groups := [0] }

theorem witness_hostCommands :
    isAfter (exec (.hostNop 1) (hGot 1 (hRaw 0))) ((hStarted 1 (hRaw 0)).complete (hCmd 1 (hRaw 0)) 0 0 0) ∧
    after (exec (.hostNop 1) (hGot 1 (hRaw 0))) (fun t => decide (t.outbox = [.hostWrite 1 (0x10000 + 64 * 3) 64 (2 ^ 8 + 2 ^ 16 + 7 * 2 ^ 64) false])) ∧
    isAfter (exec (.fence 1) (hGot 1 (hRaw 6))) ((hStarted 1 (hRaw 6)).complete (hCmd 1 (hRaw 6)) 0 0 0) ∧
    (let r := hAdmit 128 65536
     isAfter (exec (.hostAdmit 1) (hGot 1 r)) ((hGot 1 r).complete (hCmd 1 r) 4 0 0) ∧
     isAfter (exec (.hostAdmit 1) (hGot 1 r .idle)) (((hStarted 1 r .idle).setCtx 0 { hIdle with
       admitSt := .staging, admitCmd := some (1, 41), descLen := 128, imageLen := 65536, loadStatus := 1 }).hostRead 1 0xFFC0 64 (.staging 0 41)) ∧
     (let r := hAdmit 128 50331649
      isAfter (exec (.hostAdmit 1) (hGot 1 r .idle)) { (hStarted 1 r .idle).setCtx 0 { hIdle with
        admitSt := .awaiting, admitCmd := some (1, 41), descLen := 128, imageLen := 50331649, loadStatus := loadStatus 4 14 0xFFFF 0, arrived := 60 } with nextId := 61 })) ∧
    (let r := hRaw 2 (0x1000 + 0x2000 * 2 ^ 64 + 2 ^ 128)
     isAfter (exec (.dma 1) (hGot 1 r .idle)) ((hGot 1 r .idle).complete (hCmd 1 r) 4 0 0) ∧
     isAfter (exec (.dma 0) (hGot 0 r)) ((hStarted 0 r).complete (hCmd 0 r) 4 0 0) ∧
     (let s := { hGot 0 r with rmn := { (hGot 0 r).rmn with queues := [(32767, { ownerKind := 2, ownerId := 15, ctx := 16, state := 2 })] } }
      after (exec (.dma 0) s) fun t => decide (t.rmn.items.map (fun x => (x.ctx, x.hostCmd, x.body)) =
        [(16, some (0, 41), .message 32767 (s.routeOf (s.queue 32767)) 0 [(hostDesc r, false)] 0)])) ∧
     decide (((hGot 1 r).ctx 0).queues[memRead ((hGot 1 r).ctx 0).desc 80 2]? = some 5) && isNext (exec (.dma 1) (hGot 1 r))) ∧
    (let r := hRaw 3 (9 + 2 * 2 ^ 16)
     isAfter (exec (.signal 1) (hGot 1 r .idle)) ((hGot 1 r .idle).complete (hCmd 1 r) 4 0 0) ∧
     (let item (c : Nat) : SyuItem := { id := 60, src := .host (if c = 16 then 0 else 1), ctx := c, who := none
                                        hostCmd := some (if c = 16 then 0 else 1, 41), tag := 0, body := .inc 9 2 }
      isAfter (exec (.signal 1) (hGot 1 r)) { hStarted 1 r with nextId := 61, syu := { tState.syu with inbound := [item 0] } } ∧
      isAfter (exec (.signal 0) (hGot 0 r)) { hStarted 0 r with nextId := 61, syu := { tState.syu with inbound := [item 16] } })) ∧
    (let r := hRaw 4 (9 + 2 ^ 16 + 4 * 2 ^ 24 + 77 * 2 ^ 64)
     isAfter (exec (.watch 1) (hGot 1 r .idle)) ((hGot 1 r .idle).complete (hCmd 1 r) 4 0 0) ∧
     isAfter (exec (.watch 1) (hGot 1 r)) { hStarted 1 r with
       nextId := 61
       syu := { tState.syu with inbound := [{
         id := 60, src := .host 1, ctx := 0, who := none, hostCmd := none, tag := 0
         body := .reg { ctx := 0, vid := 9, cmp := 1, expect := 77, t := 4, dest := .host, bank := none, hostCmd := some (1, 41) } }] } }) ∧
    (let r := hRaw 5
     isAfter (exec (.teardown 1) (hGot 1 r .idle)) ((hStarted 1 r .idle).complete (hCmd 1 r) 0 0 0) ∧
     after (exec (.teardown 0) (hGot 0 r)) fun t => decide ((t.ctx 0).st = .tearing) && decide ((t.ctx 0).teardownCmds = [(0, 41)])) := by decide +kernel

/-- A function whose vectors are not masked. -/
def iFn : Fn := { busMaster := true, unsig0 := 2, since0 := 5, irqDelay := 1, msixTable := [(0, 0), (1, 0)] }
def iState (fn : Fn) (f : Nat := 1) : State := { hState f fn with now := 105 }

theorem witness_hostEvents :
    isAfter (exec (.irqDelayExpiry 1 0) (iState iFn)) (((iState iFn).setFn 1 { iFn with unsig0 := 0 }).out (.msix 1 0)) ∧
    (let fn := { iFn with msixTable := [(0, 2 ^ 96)] }
     isAfter (exec (.irqDelayExpiry 1 0) (iState fn)) ((iState fn).setFn 1 { fn with unsig0 := 0, msixPending := [(0, true)] })) ∧
    (let fn := { iFn with busMaster := false }
     isAfter (exec (.irqDelayExpiry 1 0) (iState fn)) ((iState fn).setFn 1 { fn with unsig0 := 0, heldIrqs := [0] })) ∧
    (let fn := { iFn with d3hot := true, unsig1 := 1 }
     isAfter (exec (.irqDelayExpiry 1 1) (iState fn)) ((iState fn).setFn 1 { fn with unsig1 := 0, heldIrqs := [1] })) ∧
    (let s := iState { d3hot := true } 0
     isAfter (exec (.d3hotToD0 0) s) (s.setFn 0 {})) ∧
    isAfter (exec (.busMasterEnable 1 false) (iState iFn)) ((iState iFn).setFn 1 { iFn with busMaster := false }) ∧
    (let fn : Fn := { heldIrqs := [0, 1], msixTable := [(0, 0), (1, 0)], heldEntries := [(1, 2, 7), (2, 3, 8)], rings := [(1, hRing true 1 3 0), (2, hRing true 1 4 0)] }
     isAfter (exec (.busMasterEnable 1 true) (iState fn)) { (iState fn).setFn 1 { fn with busMaster := true, heldEntries := [], heldIrqs := [] } with
       outbox := [.msix 1 1, .msix 1 0, .hostWrite 1 (0x10000 + 64 * 3) 64 8 false, .hostWrite 1 (0x10000 + 64 * 2) 64 7 false] } ∧
     (let stopped : Fn := fn.setRing 1 (hRing true 2 3 0)
      isAfter (exec (.busMasterEnable 1 true) (iState stopped))
        { (iState stopped).setFn 1 { stopped with busMaster := true, heldEntries := [], heldIrqs := [] } with
          outbox := [.msix 1 1, .msix 1 0, .hostWrite 1 (0x10000 + 64 * 3) 64 8 false] })) := by
  decide +kernel

set_option maxRecDepth 100000 in
theorem witness_functionResets :
    (let s0 := hGot 1 (hRaw 0)
     let s := { s0 with hif := { s0.hif with numVfs := 2 } }
     let u := { s with now := ticksUs 50, hif := { s.hif with reads := [{ id := 1, fn := 1, addr := 0, bytes := 64, use := .ringFetch 1 0 }] } }
     let done (t : State) : Bool := decide (t.fn 1 = {}) && decide (t.hif.cmds = []) && decide (t.hif.reads = []) && decide ((t.ctx 0).st = .tearing)
     after (exec (.functionLevelReset 1) s) done ∧
     after (exec (.functionLevelReset 1) u) (fun t =>
       (t.fn 1).resetting && decide (t.hif.cmds = []) && decide (t.hif.reads = u.hif.reads) && decide ((t.ctx 0).st = .running) && !t.claims 0x11 &&
         after (exec (.hostReadCompletion 1 0 false 7) t) done && after (exec (.completionTimeout 1) t) done) ∧
     after (exec .vfEnableClear u) (fun t => (t.fn 1).resetting) ∧
     after (exec .vfEnableClear s) (fun t => decide (t.hif.numVfs = 0) && decide (t.fn 1 = {}) && decide ((t.ctx 0).st = .tearing)) ∧
     isAfter (exec (.d0ToD3hot 1) s) (s.setFn 1 { hDone with d3hot := true }) ∧
     (let u := s.setFn 1 { hDone with d3hot := true }
      after (exec (.functionLevelReset 1) u) fun t => isAfter (exec (.d3hotToD0 1) u) t)) := by
  decide +kernel

/-- One host read of function 1 is outstanding. -/
def xRead (use : HReadUse) : HRead := { id := 3, fn := 1, addr := 0xFFC0, bytes := 64, use := use }
def xState (s : State) (use : HReadUse) : State := { s with hif := { s.hif with reads := [xRead use] } }
/-- The time limit of a read that left at 0 has passed, under Device Control 2's value of a reset. -/
def xLate (s : State) : State := { s with now := ticksUs 50 }
def xDesc : Desc :=
  { id := 9, engine := 4, queue := 5, ctx := 0, raw := 1 + 2 ^ 8 + 2 ^ 16 + 2 ^ 32 + 0x1000 * 2 ^ 64 + 0x10000 * 2 ^ 128, lines := 1, acked := 0, hostPoison := 0
    hostCmd := none, meshBad := false, faulted := false }
def xDma : State := { tState with nextId := 60, hbm := { tState.hbm with descs := [xDesc] } }
def xAbort (n : Nat) : State := xDma.descFault xDesc { code := 0x0A01, ctxFatal := true, ctx := 0, detail := n + 2 ^ 8 }

/-- 512 reads are outstanding: the next one waits, and goes when one of them has ended. -/
def fullReads (n : Nat) : State :=
  { iState iFn with hif := { (iState iFn).hif with reads := List.replicate n (xRead (.ringFetch 1 0)) } }

set_option maxRecDepth 100000 in
theorem witness_readLimit :
    (let s := fullReads
     decide (((s 512).hostRead 1 64 64 (.ringFetch 1 0)).hif.waiting.length = 1) &&
       decide (((s 512).hostRead 1 64 64 (.ringFetch 1 0)).hif.reads.length = 512) && decide (((s 511).hostRead 1 64 64 (.ringFetch 1 0)).hif.reads.length = 512) &&
       (let w : State := { s 511 with hif := { (s 511).hif with waiting := [xRead (.ringFetch 1 4)] } }
        decide (w.nextRead.hif.waiting = []) && decide (w.nextRead.outbox = [.hostRead 3 1 0xFFC0 64]))) = true := by decide +kernel

theorem witness_hostReads :
    (let s := xState xDma (.dmaSource 9 0 1)
     isAfter (exec (.hostReadCompletion 3 0 false 7) s) (xDma.issueMem (.dma 9) (.dma 4) 0 0x10000 true false [(7, false)]) ∧
     isAfter (exec (.hostReadCompletion 3 0 true 7) s)
       ((xDma.modDesc 9 fun y => { y with hostPoison := y.hostPoison + 1 }).issueMem (.dma 9) (.dma 4) 0 0x10000 true false [(7, true)]) ∧
     isAfter (exec (.hostReadCompletion 3 1 false 0) s) (xAbort 1) ∧ isAfter (exec (.hostReadCompletion 3 2 false 0) s) (xAbort 2) ∧
     isAfter (exec (.completionTimeout 3) s) s ∧ isAfter (exec (.completionTimeout 3) (xLate s)) (xLate (xAbort 3)) ∧
     isAfter (exec (.completionTimeout 3) (xLate (s.setFn 1 { timeout := 2 }))) (xLate (s.setFn 1 { timeout := 2 })) ∧
     isAfter (exec (.completionTimeout 3) { s.setFn 1 { timeout := 2 } with now := ticksMs 1 }) { (xAbort 3).setFn 1 { timeout := 2 } with now := ticksMs 1 }) ∧
    (let d := { xDesc with lines := 2, raw := xDesc.raw + 2 ^ 32 }
     let more (s : State) (n k : Nat) : State := { s with hbm := { s.hbm with ops := s.hbm.ops.map fun o => { o with left := n, more := k } } }
     let s0 : State := { xDma with hbm := { xDma.hbm with descs := [d] } }
     let one := more (s0.issueMem (.dma 9) (.dma 4) 0 0x10000 true false [(7, false)]) 1 1
     isAfter (exec (.hostReadCompletion 3 0 false 7) (xState s0 (.dmaSource 9 0 1))) one ∧
     after (exec (.hostReadCompletion 3 0 false 8) (xState one (.dmaSource 9 1 1))) fun t =>
       decide (t.hbm.ops = (more one 2 0).hbm.ops) && decide (t.hbm.accs.map (fun a => (a.op, a.vaddr, a.data)) = [(60, 0x10000, 7), (60, 0x10040, 8)])) ∧
    (let fn : Fn := { busMaster := true, rings := [(0, hRing true 1 4 5), (1, hRing true 1 0 0)] }
     let base := hState 1 fn
     let s := xState (hState 1 { fn with fetching := some 3 }) (.ringFetch 1 4)
     let failed (n : Nat) := (base.setFn 1 (fn.setRing 0 { hRing true 1 4 5 with st := 2, cause := 2 })).raise { code := 0x0A03, ctx := 0, detail := 1 + n * 2 ^ 5 }
     let got (raw : Nat) : State := let t := base.setFn 1 (fn.setRing 0 (hRing true 1 5 5))
                                    { t with nextId := 61, hif := { t.hif with cmds := [{ fn := 1, id := 60, num := 4, raw := raw, st := .fetched }] } }
     isAfter (exec (.hostReadCompletion 3 1 false 0) s) (failed 1) ∧ isAfter (exec (.hostReadCompletion 3 2 false 0) s) (failed 2) ∧
     isAfter (exec (.completionTimeout 3) (xLate s)) (xLate (failed 3)) ∧
     isAfter (exec (.hostReadCompletion 3 0 false (hRaw 0)) s) ((got (hRaw 0)).fetch 1) ∧
     isAfter (exec (.hostReadCompletion 3 0 false (hRaw 7)) s) ((got (hRaw 7)).complete { fn := 1, id := 60, num := 4, raw := hRaw 7, st := .fetched } 2 0 0)) ∧
    (let x (d i : Nat) : Ctx := { st := .idle, admitSt := .staging, admitCmd := some (1, 41), descLen := 128, imageLen := 64, stagedDesc := d, stagedImage := i }
     let base (d i : Nat) : State := (hStarted 1 (hAdmit 128 64) .idle).setCtx 0 (x d i)
     let s (d i : Nat) := xState (base d i) (.staging 0 41)
     let failed (d i : Nat) : State :=
       { (base d i).setCtx 0 { x d i with admitSt := .awaiting, loadStatus := loadStatus 4 15 0xFFFF 0, arrived := 60 } with nextId := 61 }
     isAfter (exec (.hostReadCompletion 3 0 false 7) (s 64 0)) (((base 64 0).setCtx 0 { x 128 0 with desc := memWrite [] 64 64 7 }).stage 0) ∧
     isAfter (exec (.hostReadCompletion 3 0 false 7) (s 128 0)) ((((base 128 0).setCtx 0 { x 128 64 with image := memWrite [] 0 64 7 }).putStaged 0 (memWrite [] 0 64 7) 0 64).stage 0) ∧
     isAfter (exec (.hostReadCompletion 3 0 true 7) (s 64 0)) (failed 64 0) ∧ isAfter (exec (.completionTimeout 3) (xLate (s 128 0))) (xLate (failed 128 0))) := by
  decide +kernel

end HostSide

namespace Contexts

theorem witness_mailboxCommands :
    (let x : Channel := { sender := 1, receiver := 2, data := 0x11223344 }
     let s := chanState x
     let u := s.access 1 0x201740
     isAfter (exec (.mailboxSend 3 7 (2 ^ 31 + 4)) s) ((s.access 3 0x201740).setChan 7 { x with denied := true }) ∧
     isAfter (exec (.mailboxSend 1 7 4) s) u ∧ isAfter (exec (.mailboxSend 1 7 (2 ^ 31)) s) u ∧ isAfter (exec (.mailboxSend 1 7 (2 ^ 31 + 65)) s) u ∧
     isAfter (exec (.mailboxSend 1 7 (2 ^ 31 + 64)) s) (u.setChan 7 (chanSent x 64)) ∧
     isAfter (exec (.mailboxAck 1 7) s) ((s.access 1 0x201750).setChan 7 { x with denied := true }) ∧
     isAfter (exec (.mailboxAck 2 7) s) (s.access 2 0x201750) ∧
     (let s := chanState (chanSent x 4)
      isAfter (exec (.mailboxSend 1 7 (2 ^ 31 + 4)) s) (s.access 1 0x201740) ∧
      isAfter (exec (.mailboxAck 2 7) s) ((s.access 2 0x201750).setChan 7 { chanSent x 4 with full := false, delivered := true }) ∧
      isAfter (exec (.mailboxTimeout 7) { s with now := 1000000 + ticksMs 10 })
        (({ s with now := 1000000 + ticksMs 10 }.setChan 7 { chanSent x 4 with full := false, timeout := true }).raise
          { code := 0x0A07, detail := 7 + 2 ^ 8 + 2 * 2 ^ 16 }))) ∧
    (let x : Channel := { sender := 1, receiver := 3, data := 0x1122334455 }
     isAfter (exec (.mailboxSend 1 7 (2 ^ 31 + 4)) (chanState x))
       ((((chanState x).access 1 0x201740).setChan 7 { chanSent x 4 with mctp := true }).out (.mbxDeliver 4 0x22334455))) ∧
    (let x : Channel := { sender := 1, receiver := 0x12, data := 0x11 }
     isAfter (exec (.mailboxSend 1 7 (2 ^ 31 + 1)) (chanState x))
       (((((chanState x).access 1 0x201740).setChan 7 (chanSent x 1)).event 2 (3 + 7 * 2 ^ 64)).msix 2 2)) ∧
    (let x : Channel := { sender := 1, receiver := 3, full := true, mctp := true }
     isAfter (exec .mbxDeliver (tState.setChan 3 x)) (tState.setChan 3 { x with full := false, delivered := true, mctp := false })) := by decide +kernel

theorem witness_underRom :
    (let s := { tState with pln := { tState.pln with pb1 := true } }
     let e := s.out .errorCompletion
     isAfter (exec (.mbxSend 4 5) s) e ∧ isAfter (exec (.regRead 0) s) e ∧ isAfter (exec (.regWrite 0x200 1) s) e ∧
     isAfter (exec (.reset 3 0) s) e ∧ isAfter (exec (.reduceCeiling 3 600 0) s) e ∧ isAfter (exec (.advanceFirmwareFloor 3 1 0) s) e ∧
     isAfter (exec (.advanceVerjoFloor 3 1 0) s) e ∧ isAfter (exec (.reset 0x10 0) s) s ∧ isAfter (exec (.mbxSend 4 5) tState) tState) := by
  decide +kernel

theorem witness_mbxSend :
    (let s := { chanState {} with pln := { tState.pln with slot := 1 } }
     isNext (exec (.mbxSend 0 5) s) ∧ isNext (exec (.mbxSend 65 5) s) ∧
     (let u := s.setChan 2 { s.chan 2 with full := true }
      isAfter (exec (.mbxSend 4 5) u) ((u.out (.reply 3 1)).takeRequest 2 0)) ∧
     (let u := s.setChan 2 { s.chan 2 with data := 0x1122334455 }
      isAfter (exec (.mbxSend 4 0xAABBCCDDEE) u) (((s.setChan 2 (chanSent { s.chan 2 with data := 0x11BBCCDDEE } 4)).out (.reply 3 0)).takeRequest 2 0))) := by decide +kernel

/-- A job of mode L on one tile set in one group, without memory. -/
def jDesc (version sets : Nat) : Memory := memWrite [] 0 256 (version + sets * 2 ^ 96 + 2 ^ 112 + sets * 2 ^ 768)
def aCtx (d : Memory) : Ctx :=
  { st := .idle, desc := d, descLen := 256, image := [], imageLen := 64, admitSt := .awaiting, admitCmd := some (1, 41), loadStatus := 3, arrived := 4 }
def aState (x : Ctx) : State :=
  { State.reset with
    nextId := 60, ctxs := [(0, x)], hif := { State.reset.hif with cmds := [{ fn := 1, id := 41, num := 7, raw := 0x101, st := .started }] }
    pwr := { State.reset.pwr with domains := (List.range 6).map fun d => (d, { st := 2 }) } }
def aOff (x : Ctx) : State :=
  (aState x).setCtx 0 { x with admitSt := .none, admitCmd := none, reserveAt := none }

/-- The least image that passes every check of R577 for a job of no tile sets and one group: sections 1 and 2 empty, section 6 at 256, section 7 at
384 with one group record and one superstep record. Its SHA3-256 digest was computed outside Lean. -/
def leastBytes : Nat :=
  let sect (i kind count off len : Nat) : Nat := (kind + count * 2 ^ 32 + off * 2 ^ 64 + len * 2 ^ 128) * 2 ^ (8 * (128 + 32 * i))
  0x455454455551414D + 2 ^ 64 + 4 * 2 ^ 96 + 592 * 2 ^ 128 + 2 ^ (8 * 58) + sect 0 1 0 256 0 + sect 1 2 0 256 0 + sect 2 6 1 256 128 + sect 3 7 2 384 208 +
    (1 + 2 ^ (8 * 96) + 2 ^ (8 * 100) + 2 ^ (8 * 132) + 64 * 2 ^ (8 * 152)) * 2 ^ (8 * 384)
def leastImage : Memory := memWrite [] 0 592 (leastBytes + 0xeb0fd940cd5b7d0185577fb0b5388ea88116912452fc19df78420d6cfadd2ad9 * 2 ^ 192)

def leastCtx (sets : Nat) : Ctx := { aCtx (jDesc 1 sets) with admitSt := .checking, image := leastImage, imageLen := 592 }
def leastFails (sets : Nat) : Option ImgFail := imageFails (leastCtx sets).image (leastCtx sets).desc (leastCtx sets).imageLen
def checked (x : Ctx) (status : Nat) : Bool :=
  isAfter (exec (.imageChecks 0) (aState x))
    { (aState x).setCtx 0 { x with admitSt := .awaiting, loadStatus := status, arrived := 60 } with nextId := 61 }

theorem witness_imagePasses : (leastFails 0).isNone = true := by decide +kernel
theorem witness_imageChecks :
    (let x := { aCtx (jDesc 1 1) with admitSt := .checking }
     (imageFails x.image x.desc x.imageLen).any (fun f => decide (f = ⟨1, 0xFFFF, 0⟩)) && decide (memRead x.image 0 8 ≠ 0x455454455551414D) &&
     checked x (4 + 2 ^ 3 + 0xFFFF * 2 ^ 16) &&
     (let s := aState x
      let s := { s with hbm := { s.hbm with ops := [
        { id := 30, kind := .stage 0, src := .plinth, ctx := 16, write := true, left := 1, refused := none, meshBad := false }] } }
      !s.slotFilled 0 && isAfter (exec (.imageChecks 0) s) s)) := by decide +kernel

set_option maxRecDepth 100000 in
theorem witness_admission :
    (let x := aCtx (jDesc 2 1)
     (aState x).earlyTests 0 = some (4 + 2 ^ 4) ∧
     isAfter (exec (.admission 0) (aState x)) ((aOff x).complete { fn := 1, id := 41, num := 7, raw := 0x101, st := .started } 5 (4 + 2 ^ 4) 0)) ∧
    (let x := { aCtx (jDesc 2 1) with admitCmd := none }
     isAfter (exec (.admission 0) (aState x)) (aOff x)) ∧
    (let x := aCtx (jDesc 1 1)
     let s := aState x
     s.earlyTests 0 = none ∧ yBinds x.desc = [] ∧ s.admitDeadline x.image x.desc = none ∧ s.admitEnergy x.image x.desc = none) := by decide +kernel

theorem witness_reserveTimeout :
    (let d := memWrite (memWrite (jDesc 1 1) 15 1 1) 272 1 2
     let x := { aCtx d with descLen := 320, reserveAt := some 5 }
     let s := { aState x with now := 5 + ticksMs 30000 }
     yBinds d = [0] ∧ bindPort d 0 = 2 ∧ s.declared d 0 = none ∧
     isAfter (exec (.reserveTimeout 2 0) s) (({ s with ctxs := (aOff x).ctxs }.complete { fn := 1, id := 41, num := 7, raw := 0x101, st := .started } 5 (5 + 2 ^ 5) 0))) := by
  decide +kernel

/-- Context 0 is Loading with tile set 0, in group 0. -/
def lState (x : CtxSt) : State :=
  { State.reset with
    nextId := 60, tsets := [(0, { owner := 0, group := 0, st := x })], tiles := (List.range 48).map fun i => (i, tTile)
    ctxs := [(0, { st := x, admitSt := .loading, groups := [0], queues := [5] })], groups := [(0, { owner := 0 })]
    rmn := { State.reset.rmn with queues := [(5, { addr := tileAddr 0 6400, ctx := 0, epoch := 9 })] }
    syu := { State.reset.syu with owners := [(2, 0)], counters := [(513, 4)] } }

theorem witness_loadingComplete :
    (let s := lState .loading
     s.loadCheck 0 = none ∧ mwf {} s.rmn.queues ∧ s.rmn.badQueues = [] ∧ (s.tile 0).powered 100 ∧ (s.tile 0).mrx 100 ∧
     after (exec (.loadingComplete 0) s) fun t => decide ((t.ctx 0).st = .running) && decide ((t.queue 5).state = 1) &&
       decide ((t.tset 0).st = .running) && decide ((t.thread 47 3).st = .issuing) && decide ((t.tile 47).phase = .compute)) ∧
    (let s := { lState .loading with tiles := [] }
     (s.loadCheck 0).any fun r => isAfter (exec (.loadingComplete 0) s) (s.raise r)) ∧
    (let s := lState .tearing
     after (exec (.teardownComplete 0) s) fun t => decide (t.ctx 0 = {}) && decide (t.tset 0 = {}) && decide ((t.tile 0).mem = []) &&
       decide ((t.tile 0).threads = []) && decide (t.group 0 = {}) && decide (t.queue 5 = { epoch := 9 }) && decide (mget 0 t.syu.counters 513 = 0)) := by decide +kernel

def fRec : FaultRec := { code := 0x0A05, detail := 1 }
/-- Five records have entered, of which two are kept. -/
def fState : State :=
  { chanState {} with pln := { State.reset.pln with
      enabled := true, frq := [fRec, { fRec with detail := 2 }], head := 5, banks := [(0, { statClasses := 7, statFatal := true })] } }

theorem witness_faultQueue :
    isAfter (exec (.frqEnable 0x10) fState) (fState.access 0x10 0x400) ∧
    (let s := { fState with pln := { fState.pln with enabled := false, frq := [], head := 0, hold := [fRec, { fRec with detail := 2 }] } }
     after (exec (.frqEnable 3) s) fun t => t.pln.enabled && decide (t.pln.hold = []) && decide (t.pln.frq = s.pln.hold.reverse) &&
       decide (t.pln.head = 2) && decide (t.tiles = s.tiles) && decide (t.hbm = s.hbm) && decide (t.hif = s.hif)) ∧
    (let x := fState.bank 0
     let shown (n st data : Nat) : State := (fState.access 0x10 0x410).setBank 0 { x with seq := n, st := st, data := data }
     isAfter (exec (.frqSelect 0x10 5) fState) (shown 5 1 0) ∧ isAfter (exec (.frqSelect 0x10 4) fState) (shown 4 0 fRec.encode) ∧
     isAfter (exec (.frqSelect 0x10 2) fState) (shown 2 2 0) ∧
     isAfter (exec (.alertStatusClear 0x10 (2 ^ 13 + 5)) fState) ((fState.access 0x10 0x448).setBank 0 { x with statClasses := 2, statFatal := false })) := by
  decide +kernel

end Contexts

namespace Shadows

/-- Tile 0's superstep is sampled, and tile 48 is its pool tile. -/
def shSample : Sample :=
  { id := 4, entry := 0, tile := 0, ctx := 0, group := 0, superstep := 9, image := { tTile with mem := [(64, 7)] }, log := [], own := some 5, pool := 48
    loaded := false, poolDigest := none, arbiter := none, arbDigest := none, mismatch := false }
def shState (x : Sample) (own pool : Nat) : State :=
  { tState with
    tiles := [(0, { tTile with err := { tTile.err with strikes := own } }), (48, { err := { tTile.err with strikes := pool } })]
    ras := { tState.ras with samples := [x], pool := 0x81 } }
def shGone (own pool : Nat) (matched : Bool) : State :=
  let s := shState shSample own pool
  { s with ras := { s.ras with samples := [], matched := if matched then 1 else 0, mismatched := if matched then 0 else 1 } }
def shPut (s : State) (x : Sample) : State := { s with ras := { s.ras with samples := [x] } }
def shLoaded (y : Tile) (pool : Tile) : Tile :=
  { cfg := y.cfg, mem := [(64, 7)], poison := [], threads := y.threads, blocks := y.blocks, cache := y.cache, norms := y.norms
    err := { pool.err with badWords := y.err.badWords, badCache := y.err.badCache }, gate := y.gate, gateStep := y.gateStep, shadow := some 4 }
def shRec (code arb : Nat) (fatal : Bool) : FaultRec :=
  { code := code, ctxFatal := fatal, ctx := 0, tile := 0, superstep := 9, detail := 48 + arb * 2 ^ 16 }
def shStruck (s : State) (t : Nat) : State := s.setTile t { s.tile t with err := { (s.tile t).err with strikes := (s.tile t).err.strikes + 1 } }
def shLost (s : State) : State := let t := shStruck s 48; { t with ras := { t.ras with removed := [(48, true)] } }

set_option maxRecDepth 100000 in
theorem witness_shadowEvents :
    (let s := shState shSample 0 0
     isAfter (exec (.shadowLoad 4 48) s) ((shPut s { shSample with loaded := true }).setTile 48 (shLoaded shSample.image (s.tile 48)))) ∧
    (let x := { shSample with image := { shSample.image with threads := (List.range 4).map fun k => (k, { tThread with st := .halted }) } }
     let s := shState x 0 0
     x.image.allHalted = true ∧
     after (exec (.shadowLoad 4 48) s) fun t => decide (t.ras.samples.map (fun y => (y.loaded, y.poolDigest.isSome)) = [(true, true)]) &&
       decide ((t.tile 48).shadow = none) && decide ((t.tile 48).mem = [])) ∧
    (let s := { shState shSample 0 0 with ras := { (shState shSample 0 0).ras with removed := [(48, true)] } }
     isAfter (exec (.shadowLoad 4 48) s) (s.missSample 48 4)) ∧
    (let x := { shSample with loaded := true, poolDigest := some 6, mismatch := true }
     let s := shState x 0 0
     isAfter (exec (.arbiterRun 4 50) s) ((shPut s { x with arbiter := some 50 }).setTile 50 (shLoaded x.image (s.tile 50)))) ∧
    (let x := { shSample with loaded := true, poolDigest := some 6 }
     isAfter (exec (.digestCompare 4) (shState x 0 0)) (shPut (shState x 0 0) { x with mismatch := true }) ∧
     (let x := { x with poolDigest := some 5 }
      isAfter (exec (.digestCompare 4) (shState x 0 0)) (shGone 0 0 true))) ∧
    (let x := { shSample with loaded := true, poolDigest := some 6, mismatch := true, arbiter := some 50 }
     isAfter (exec (.digestCompare 4) (shState { x with arbDigest := some 6 } 0 0)) ((shStruck (shGone 0 0 false) 0).raise (shRec 0x0B03 50 true)) ∧
     isAfter (exec (.digestCompare 4) (shState { x with arbDigest := some 6 } 1 0))
       (((shStruck (shGone 1 0 false) 0).markTile 0 3).raiseAll
         [shRec 0x0B03 50 true, { code := 0x0B06, detail := tState.pln.siteOf 0 + 3 * 2 ^ 13 }]) ∧
     isAfter (exec (.digestCompare 4) (shState { x with arbDigest := some 5 } 0 0)) ((shLost (shGone 0 0 false)).raise (shRec 0x0B04 50 false)) ∧
     isAfter (exec (.digestCompare 4) (shState { x with arbDigest := some 8 } 0 0))
       ((shLost (shStruck (shGone 0 0 false) 0)).raise (shRec 0x0B05 50 true))) := by decide +kernel

/-- Core 2 acts for context 0, which has frame 0; a line of it holds 0x1122 at offset 128. -/
def kState (poison : Bool) : State :=
  { tState with
    nextId := 60
    hbm := { tState.hbm with
      fmap := [(0, { valid := true, rd := true, wr := true, ctx := 0, pframe := 40000 })]
      mem := memWrite [] (40000 * 65536 + 128) 64 0x112233, poison := if poison then [(40000 * 1024 + 2, true)] else [] }
    pln := { tState.pln with coreTags := [(2, 0)] } }
def kTrap (s : State) : State := s.out (.coreTrap 2)
def kBad (line : Nat) : FaultRec := { code := 0x0902, ctx := 0, addr := line, detail := 2 }
/-- The line 8 of tile 0 holds 0x445566, poisoned or not. -/
def kTile (poison : Bool) : Tile := tTile.putLine 8 0x445566 poison
def kTState (t : Tile) : State := let s := kState false; { s with tiles := [(0, t)] }

theorem witness_coreAccesses :
    (let s := kState false
     let bad := 4 * 2 ^ 52 + 2 ^ 40
     addrOk (2 ^ 56) = false ∧ isAfter (exec (.armatureCoreStore 2 (2 ^ 56) 8 1) s) (kTrap s) ∧
     isAfter (exec (.armatureCoreLoad 2 bad 8) s) (kTrap s) ∧ isAfter (exec (.armatureCoreStore 2 bad 8 1) s) (kTrap s) ∧
     isAfter (exec (.armatureCounterStore 2 (counterAddr 200 + 1) 1) s) (kTrap s) ∧
     isAfter (exec (.armatureCoreLoad 2 129 2) s) (s.out (.coreValue 2 0x1122)) ∧
     isAfter (exec (.armatureCoreLoad 2 129 2) (kState true)) ((kTrap (kState true)).raise (kBad 128)) ∧
     isAfter (exec (.armatureCoreLoad 2 131072 2) s) (kTrap s) ∧ isAfter (exec (.armatureCoreStore 2 131072 2 5) s) (kTrap s) ∧
     (s.coreRefused 0 65536 1 false false).any (fun r => isAfter (exec (.armatureCoreLoad 2 65536 2) s) ((kTrap s).raise r)) ∧
     isAfter (exec (.armatureCoreStore 2 130 2 0x77889) s) { s with
       nextId := 62
       hbm := { s.hbm with
         ops := [{ id := 60, kind := .core 2, src := .arm 2, ctx := 0, write := true, left := 1, refused := none, meshBad := false }]
         accs := [{ id := 61, src := .arm 2, ctx := 0, op := 60, idx := 0, vaddr := 128, write := true, data := 0x7889, part := (2, 2)
                    poison := false, snap := false, phys := 0, stage := .toSlice }] } } ∧
     (let part (i va off n v : Nat) : Access :=
        { id := i, src := .arm 2, ctx := 0, op := 60, idx := 0, vaddr := va, write := true, data := v, part := (off, n), poison := false, snap := false
          phys := 0, stage := .toSlice }
      isAfter (exec (.armatureCoreStore 2 191 2 0x77889) s) { s with
        nextId := 63
        hbm := { s.hbm with
          ops := [{ id := 60, kind := .core 2, src := .arm 2, ctx := 0, write := true, left := 2, refused := none, meshBad := false }]
          accs := [part 61 128 63 1 0x89, part 62 192 0 1 0x78] } })) ∧
    (let s := kTState (kTile false)
     let a := tileAddr 0 512
     isAfter (exec (.armatureCoreLoad 2 (a + 1) 2) s) (s.out (.coreValue 2 0x4455)) ∧
     isAfter (exec (.armatureCoreLoad 2 a 8) (kTState (kTile true))) ((kTrap (kTState (kTile true))).raise (kBad a)) ∧
     isAfter (exec (.armatureCoreStore 2 (a + 4) 4 0x199887766) s) (s.setTile 0 ((kTile false).putNarrow 516 4 0x99887766)) ∧
     isAfter (exec (.armatureCoreStore 2 a 64 9) s) (s.setTile 0 ((kTile false).putLine 8 9 false)) ∧
     isAfter (exec (.armatureCoreLoad 2 (tileAddr 48 512) 8) s) (kTrap s) ∧ isAfter (exec (.armatureCoreStore 2 (tileAddr 48 512) 8 1) s) (kTrap s) ∧
     (let dark : Tile := { cfg := { kTile false |>.cfg with bankPwr := 0xFFFFFFFE } }
      let r (reason store : Nat) : FaultRec := { code := 0x0308, ctxFatal := true, ctx := 0, addr := a, detail := reason * 2 ^ 16 + store * 2 ^ 20 }
      let off : Tile := { cfg := { kTile false |>.cfg with regions := [] } }
      isAfter (exec (.armatureCoreLoad 2 a 8) (kTState dark)) ((kTrap (kTState dark)).raise (r 6 0)) ∧
      isAfter (exec (.armatureCoreStore 2 a 8 1) (kTState dark)) ((kTrap (kTState dark)).raise (r 6 1)) ∧
      isAfter (exec (.armatureCoreLoad 2 a 8) (kTState off)) ((kTrap (kTState off)).raise (r 7 0)) ∧
      (let s := { kTState off with tsets := [(0, { owner := 0, group := 0, st := .loading })] }
       isAfter (exec (.armatureCoreLoad 2 a 8) s) (s.out (.coreValue 2 0))))) := by decide +kernel

theorem witness_coreCounters :
    (let s := { kState false with syu := { tState.syu with owners := [(0, 0)], counters := [(200, 44)] } }
     let a := counterAddr 200
     let sent (v : Nat) : State := { s with
       nextId := 61
       syu := { s.syu with inbound := [{ id := 60, src := .arm 2, ctx := 0, who := none, hostCmd := none, tag := 0, body := .inc 200 v }] } }
     isAfter (exec (.armatureCoreLoad 2 a 8) s) (s.out (.coreValue 2 44)) ∧ isAfter (exec (.armatureCoreLoad 2 a 4) s) (kTrap s) ∧
     isAfter (exec (.armatureCoreLoad 2 (counterAddr 300) 8) s) (kTrap s) ∧
     isAfter (exec (.armatureCounterStore 2 a 16) s) (sent 16) ∧ isAfter (exec (.armatureCoreStore 2 a 8 1) s) (sent 1) ∧
     isAfter (exec (.armatureCounterStore 2 a 17) s) (kTrap s) ∧ isAfter (exec (.armatureCounterStore 2 a 0) s) (kTrap s) ∧
     isAfter (exec (.armatureCoreStore 2 a 4 1) s) (kTrap s) ∧
     (let b (bad : Bool) : State := { s with syu := { s.syu with badCounters := [(200, some bad)] } }
      isAfter (exec (.armatureCoreLoad 2 a 8) (b false)) { s.out (.coreValue 2 44) with syu := { s.syu with secded := 1 } } ∧
      after (exec (.armatureCoreLoad 2 a 8) (b true)) fun t => decide (t.freeCtr = s.freeCtr + 1) && decide (t.outbox.length = 1) &&
        decide (t.pln.hold.map FaultRec.code = [0x0B07]))) ∧
    (let a := 15 * 2 ^ 52
     let s := kState false
     let w := { s with pln := { s.pln with coreTags := [] } }
     isAfter (exec (.armatureCoreLoad 2 (a + 0x400) 8) s) (kTrap s) ∧ isAfter (exec (.armatureCoreStore 2 (a + 0x400) 8 1) s) (kTrap s) ∧
     isAfter (exec (.armatureCoreLoad 2 (a + 0x400) 8) w) ((w.regRead 2 2 0x400 8).2.out (.coreValue 2 (w.regRead 2 2 0x400 8).1)) ∧
     isAfter (exec (.armatureCoreStore 2 (a + 0x400) 8 1) w) (w.regWrite 2 2 0x400 8 1) ∧
     isAfter (exec (.armatureCoreLoad 2 (5 * 2 ^ 52) 8) s) (kTrap s) ∧ isAfter (exec (.armatureCoreStore 2 (5 * 2 ^ 52) 8 1) s) (kTrap s)) := by decide +kernel

/-- A certificate of identity 77, 1,000 blocks and 24 PB, signed with a key of the test's own (ECDSA P-384 over SHA-384, computed outside). -/
def cSig : Signature := { factorySig with s := 0x39DCA721463ACE1B47B18B496547914C90590D44A2670D0C9D15CBF1E46002D09C49997F355FC12D9F6B7B41A5964F7D }
def cIn : AttachIn :=
  { linkOk := true, identOk := true, ident := 77, sig := cSig, certIdent := 77, certBlocks := 1000, certRatedGb := 24000000
    blocks := 1000, writtenGb := 5, mediaFormats := 3, format := 2 }
def cCrt (st : Nat) : Crt := { st := st, since := 5 }
/-- The fuses hold the hash of that key. -/
def cSt (x : Crt) : State :=
  { tState with crt := x, nextId := 60, now := ticksMs 5000 + 5, pln := { tState.pln with fuses := { tState.pln.fuses with authority := factorySigner } } }
def cRefused (x : Crt) (reason : Nat) : State := (cSt { x with st := 5 }).raise { code := 0x0B0B, detail := reason }
def cRead : Crt := { cCrt 2 with ident := 77, blocks := 1000, writtenGb := 5, mediaFormats := 3 }

theorem witness_cartridgeAttach :
    isAfter (exec (.cartridgeAttach cIn) (cSt (cCrt 0))) (cSt { cCrt 1 with since := ticksMs 5000 + 5 }) ∧
    isAfter (exec (.cartridgeAttach cIn) (cSt (cCrt 1))) (cSt (cCrt 2)) ∧
    isAfter (exec (.cartridgeAttach { cIn with linkOk := false }) (cSt (cCrt 1))) (cRefused (cCrt 1) 1) ∧
    isAfter (exec (.cartridgeAttach { cIn with identOk := false }) (cSt (cCrt 2))) (cRefused (cCrt 2) 3) ∧
    ([{ cIn with sig := { cSig with key := 89 } }, { cIn with sig := { cSig with s := 9 } }, { cIn with certIdent := 78 }, { cIn with certBlocks := 1001 }, { cIn with certRatedGb := 7 }].all
      fun i => isAfter (exec (.cartridgeAttach i) (cSt (cCrt 2))) (cRefused cRead 2)) = true ∧
    isAfter (exec (.cartridgeAttach cIn) (cSt (cCrt 2))) { cSt { cRead with st := 3, format := 2 } with freeCtr := 1 } ∧
    (let x (gb st seen : Nat) : State :=
       { cSt { cRead with st := st, format := 2, writtenGb := gb, permille := wearPermille gb, wearSeen := seen } with freeCtr := 1 }
     let worn (n : Nat) : FaultRec := { code := 0x0B0C, detail := n }
     isAfter (exec (.cartridgeAttach { cIn with writtenGb := 21600000 }) (cSt (cCrt 2))) ((x 21600000 3 1).raise (worn 900)) ∧
     isAfter (exec (.cartridgeAttach { cIn with writtenGb := 24000000 }) (cSt (cCrt 2))) (((x 24000000 4 2).raise (worn 1000)).raise (worn 1000))) ∧
    after (exec (.cartridgeAttach { cIn with writtenGb := 24000000 }) (cSt (cCrt 2))) (fun t => decide (t.crt.st = 4) && decide (t.crt.permille = 1000)) ∧
    isAfter (exec .cartridgeAttachTimeout (cSt (cCrt 1))) (cRefused (cCrt 1) 1) ∧
    (let k : CrtCmd := { op := 1, addr := 0, lba := 0, count := 1, ctx := 16, snap := false, version := 0, data := [], landed := none }
     after (exec .cartridgeDetached (cSt { cRead with st := 3, busy := some k })) fun t => decide (t.crt.st = 0) && decide (t.crt.busy = none) &&
       decide (t.crt.media = []) && decide (t.crt.ident = 0) && decide (t.crt.status = 4) && decide (t.crt.reason = 6) && decide (t.crt.done = 0)) := by
  decide +kernel

/-- Context 0 has frame 0, whose first line holds 7; the cartridge is attached. -/
def cOn : Crt := { cRead with st := 3, format := 2, cmdLba := 5 }
def cJob (x : Crt) : State :=
  { cSt x with hbm := { tState.hbm with
      fmap := [(0, { valid := true, rd := true, wr := true, ctx := 0, pframe := 40000 })], mem := memWrite [] (40000 * 65536) 64 7 } }
def cVal (op count : Nat) : Nat := count + op * 2 ^ 24 + 2 ^ 34 + 2 ^ 63
def cCmd (op : Nat) (d : List (Nat × Bool)) : CrtCmd :=
  { op := op, addr := 0, lba := 5, count := 1, ctx := 0, snap := false, version := 1, data := d, landed := none }
def cLines1 : List (Nat × Bool) := (7, false) :: List.replicate 63 (0, false)
def cBusy (op : Nat) (d : List (Nat × Bool)) (x : Crt := cOn) : Crt := { x with cmd := cVal op 1 % 2 ^ 36, status := 1, busy := some (cCmd op d) }

set_option maxRecDepth 100000 in
theorem witness_cartridgeCommands :
    (let s := cJob cOn
     let u (x : Crt) : State := { s.access 2 0xD00038 with crt := x }
     isAfter (exec (.crtRead (cVal 1 1)) s) (u (cBusy 1 [])) ∧ isAfter (exec (.crtFormat (cVal 3 1)) s) (u (cBusy 3 [])) ∧
     isAfter (exec (.crtWrite (cVal 2 1)) s) (u (cBusy 2 cLines1)) ∧
     isAfter (exec (.crtRead (cVal 1 996)) s) (u { cOn with cmd := cVal 1 996 % 2 ^ 36, status := 3, reason := 2 })) ∧
    (let x := cBusy 1 [] { cOn with written := [(5, true)], media := memWrite [] (64 * 320) 64 9 }
     let s := cJob x
     let ls := (9, false) :: List.replicate 63 (0, false)
     isAfter (exec (.cartridgeCommandComplete [] 5) s)
       ((cJob { x with busy := some { cCmd 1 [] with landed := some (2, 1) } }).issueMem .crt .plinth 0 0 true false ls) ∧
     after (exec (.cartridgeCommandComplete [5] 5) s) (fun t =>
       decide (t.outbox = (s.raise { code := 0x0B0D, ctx := 0, detail := 5 }).outbox) &&
       decide (t.crt = { x with busy := some { cCmd 1 [] with landed := some (5, 0) } }) &&
       decide (t.hbm.accs.map (fun a => (a.data, a.poison)) = List.replicate 64 (0, true)))) ∧
    (let x := cBusy 2 cLines1
     let y := Crt.store x 320 cLines1
     isAfter (exec (.cartridgeCommandComplete [] 24) (cJob x)) (cJob { y with status := 2, done := 1, busy := none, writtenGb := 24, permille := 0 }) ∧
     after (exec (.cartridgeCommandComplete [5] 24) (cJob x)) (fun t =>
       decide (t.crt = { x with status := 4, done := 0, busy := none, writtenGb := 24, permille := 0 }))) ∧
    (let x := cBusy 3 []
     let y := Crt.store { x with format := 1, written := [], media := [], marks := [] } 0 (List.replicate 64 (0, false))
     isAfter (exec (.cartridgeCommandComplete [] 24) (cJob x))
       { cJob { y with status := 2, done := 1, busy := none, writtenGb := 24, permille := 0 } with freeCtr := 1 } ∧
     after (exec (.cartridgeCommandComplete [9] 24) (cJob x)) (fun t =>
       decide (t.crt = { x with status := 4, done := 0, busy := none, writtenGb := 24, permille := 0 }))) := by decide +kernel

end Shadows

namespace Supplies

/-- Context 0 runs on one tile set in group 0, which has run 16 supersteps; a window is 16 supersteps. -/
def eState (x : CtxPwr) : State := { tState with groups := [(0, { owner := 0, superstep := 16 })], ctxPwr := [(0, x)] }
def eCtx (energy ledger request : Nat) (pin : Bool := false) : CtxPwr :=
  { windowLog2 := 4, energy := energy, ledger := ledger, request := request, pin := pin, sRef := 1, deadline := 5, winMisses := 2, winExcess := 3000 }
def eClosed (x : CtxPwr) (request : Nat) : State :=
  ((eState x).setCp 0 { x with request := request, windowOpen := x.ledger, windows := 1, winMisses := 0, winExcess := 0 }).refreshTdoms
def eMissed : FaultRec := { code := 0x0801, ctx := 0, detail := 2 + 3 * 2 ^ 16 }
def eOver (request reason ratio : Nat) : FaultRec := { code := 0x0802, ctx := 0, detail := request + reason * 2 ^ 3 + ratio * 2 ^ 16 }

theorem witness_energyAccounts :
    (let s := eState (eCtx 0 5 0)
     let u : LedgerIn := { energy := [3, 0, 0, 1200, 0, 0, 1000], stat := [0, 0, 0, 600, 0, 0, 100], loss := 9
                           events := [[], [], [], [[1]] ++ List.replicate 15 [] ++ [[1]], [], [], [[1]]] }
     after (exec (.ledgerInterval u) s) fun t =>
       decide (t = { s with ctxPwr := t.ctxPwr, pwr := { s.pwr with domains := t.pwr.domains, fwEnergy := t.pwr.fwEnergy } }) &&
       decide ((t.dom 0).energy = 12) && decide ((t.dom 3).energy = 1200) && decide ((t.dom 6).energy = 1000) &&
       decide ((t.cp 0).ledger = 5 + (5 + 300) + (10 + 900)) && decide (t.pwr.fwEnergy = 2203 + 9 - 305 - 910)) ∧
    isAfter (exec (.energyWindowClose 0) (eState (eCtx 0 5 2))) ((eClosed (eCtx 0 5 2) 0).raiseAll [eMissed]) ∧
    isAfter (exec (.energyWindowClose 0) (eState (eCtx 100 1500 2 true))) ((eClosed (eCtx 100 1500 2 true) 0).raiseAll [eMissed]) ∧
    isAfter (exec (.energyWindowClose 0) (eState (eCtx 100 1504 2))) ((eClosed (eCtx 100 1504 2) 1).raiseAll [eMissed]) ∧
    isAfter (exec (.energyWindowClose 0) (eState (eCtx 100 1505 2))) ((eClosed (eCtx 100 1505 2) 2).raiseAll [eMissed]) ∧
    isAfter (exec (.energyWindowClose 0) (eState (eCtx 100 3200 0 true))) ((eClosed (eCtx 100 3200 0 true) 0).raiseAll [eMissed, eOver 0 2 2000]) ∧
    isAfter (exec (.energyWindowClose 0) (eState (eCtx 100 3200 4))) ((eClosed (eCtx 100 3200 4) 4).raiseAll [eMissed, eOver 4 1 2000]) ∧
    isAfter (exec (.energyWindowClose 0) (eState (eCtx 100 3200 2))) ((eClosed (eCtx 100 3200 2) 3).raiseAll [eMissed]) ∧
    (let x := { eCtx 100 3200 2 with winMisses := 0 }
     isAfter (exec (.energyWindowClose 0) (eState x)) (eClosed x 3)) := by decide +kernel

def tIn (die hbm : Nat) : TempsIn := { die := [die], hbm := [hbm], vinMv := 48000, pinW := 900 }
def pState (p : Pwr) (enabled : Bool := true) : State :=
  { tState with pwr := { p with domains := tState.pwr.domains }, pln := { tState.pln with enabled := enabled } }

theorem witness_powerLimits :
    (let s := pState { State.reset.pwr with tdoms := [(0, { forced := 4 })] }
     after (exec (.sensorPoll (tIn 98 60)) s) (fun t => decide (t.pwr.dieMax = 98) && decide (t.pwr.hbmMax = 60) && decide (t.pwr.vinMv = 48000) &&
       decide (t.pwr.pinW = 900) && (t.tdom 0).heatHeld && decide ((t.tdom 0).forced = 4) && (t.tdom 0).held && decide ((t.tdom 1).forced = 0)) ∧
     after (exec (.sensorPoll (tIn 93 60)) s) (fun t => decide ((t.tdom 0).forced = 3) && !(t.tdom 0).held) ∧
     after (exec (.sensorPoll (tIn 94 60)) s) (fun t => decide ((t.tdom 0).forced = 4) && !(t.tdom 0).held) ∧
     (let s := pState { State.reset.pwr with capEpisode := true, tdoms := [(0, { forced := 2, base := 1, ivl := some 0 }), (1, { forced := 2 })] }
      after (exec (.sensorPoll (tIn 96 60)) s) (fun t => decide ((t.tdom 0).forced = 2) && decide ((t.tdom 1).forced = 3)) ∧
      after (exec (.sensorPoll (tIn 90 60)) { s with pwr := { s.pwr with capEpisode := false } }) (fun t =>
        decide ((t.tdom 0).forced = 2) && decide ((t.tdom 1).forced = 1)) ∧
      after (exec (.sensorPoll (tIn 96 60)) { s with now := ticksUs 100 }) fun t => decide ((t.tdom 0).forced = 3)) ∧
     (let u := { s with pln := { s.pln with fatal := true } }
      after (exec (.sensorPoll (tIn 98 60)) u) (fun t => decide (t.pwr.dieMax = 98) && decide (t.pwr.tdoms = u.pwr.tdoms) && decide (t.pln = u.pln)) ∧
      after (exec (.sensorPoll (tIn 105 60)) u) (fun t => t.pln.thermTrip && t.outbox.contains .thermTrip) ∧
      after (exec (.sensorPoll (tIn 105 60)) { u with pln := { u.pln with tripped := true } }) (fun t => decide (t.pln = { u.pln with tripped := true })) ∧
      after (exec (.sensorPoll (tIn 105 60)) { u with pln := { u.pln with thermTrip := true } }) (fun t => t.pln.tripped && t.outbox.contains .thermTrip &&
        decide ({ code := 0x0804, devFatal := true, detail := 105 : FaultRec } ∈ t.pln.frq)) ∧
      after (exec (.powerCap 5000000) u) (fun t => decide (t = { u with pwr := { u.pwr with pinW := 5000 } }))) ∧
     after (exec (.sensorPoll (tIn 20 105)) s) fun t => t.pln.fatal && t.pln.thermTrip && t.pln.stressed && !t.pln.trainPowered && t.pln.hbmLost &&
       t.outbox.contains .thermTrip && decide ((t.tdom 0).railMv = 0) && decide ((t.tdom 11).railMv = 0) && decide ((t.dom 3).st = 0) && decide ((t.dom 19).st = 0) && decide (t.dom 2 = s.dom 2)) ∧
    (let s := pState { State.reset.pwr with ceilingW := 1000, tdoms := [(3, { forced := 2 }), (4, { forced := 2, base := 1, ivl := some 0 })] }
     after (exec (.powerCap 1000001) s) (fun t => decide (t.pwr.pinW = 1000) && t.pwr.capEpisode && !(t.tdom 3).held &&
       decide ((t.tdom 3).forced = 3) && decide ((t.tdom 4).forced = 2) && decide ((t.tdom 0).forced = 1) &&
       decide ({ code := 0x0805, detail := 1000 : FaultRec } ∈ t.pln.frq)) ∧
     after (exec (.powerCap 1000000) s) (fun t => !t.pwr.capEpisode && decide (t.pln = s.pln) && decide ((t.tdom 3).forced = 2)) ∧
     (let s := pState { State.reset.pwr with ceilingW := 1000, capEpisode := true, tdoms := [(0, { forced := 4, capHeld := true }), (1, { heatHeld := true })] }
      after (exec (.powerCap 970000) s) (fun t => t.pwr.capEpisode && decide ((t.tdom 0).forced = 4) && (t.tdom 0).held) ∧
      after (exec (.powerCap 969999) s) (fun t => !t.pwr.capEpisode && decide (t.pln = s.pln) &&
        decide ((t.tdom 0).forced = 4) && !(t.tdom 0).held && (t.tdom 1).held))) ∧
    (let s := pState State.reset.pwr
     let dead (t : State) (r : FaultRec) : Bool := t.pln.fatal && decide (t.pln.fatalRec = some r) && t.pln.stressed && decide ((t.dom 1).st = 0) &&
       decide ((t.dom 19).st = 0) && decide (t.dom 0 = s.dom 0)
     after (exec (.inputVoltage 1 39999) s) (fun t => decide (t.pwr.vinMv = 39999) && dead t { code := 0x0806, devFatal := true, detail := 39999 }) ∧
     (let u := { s with pln := { s.pln with pb0 := true, pb1 := true, slot := 1, ready := true } }
      after (exec (.inputVoltage 1 36000) u) (fun t => t.pln.pb0 && t.pln.pb1 && dead t { code := 0x0806, devFatal := true, detail := 36000 }) ∧
      after (exec (.inputVoltage 1 35999) u) (fun t => t.pln.pb0 && !t.pln.pb1 && dead t { code := 0x0806, devFatal := true, detail := 35999 }) ∧
      after (exec (.inputVoltage 0 35999) { u with now := 7, pln := { u.pln with pb1 := false } }) (fun t => !t.pln.pb0 && !t.pln.pb1 &&
        decide (t.now = 0) && decide (t.pln.slot = 0) && !t.pln.ready && decide (t.tiles = []) && decide ((t.dom 1).st = 0) && decide ((t.dom 19).st = 0))) ∧
     after (exec (.inputVoltage 0 60001) s) (fun t => dead t { code := 0x0806, devFatal := true, detail := 60001 }) ∧
     after (exec (.railFault 7 true) s) (fun t => dead t { code := 0x0807, devFatal := true, detail := 7 + 32 })) := by decide +kernel

/-- The domains `on` are On; no tile set is held. -/
def dState (on : List Nat) : State :=
  { State.reset with
    pwr := { State.reset.pwr with domains := on.map fun d => (d, { st := 2 }) }
    lnk := { State.reset.lnk with ports := [(0, { st := .up, signal := true })] } }

theorem witness_domains :
    (let s := dState [0, 2, 3, 4, 6, 19]
     isAfter (exec (.domainPowerDown 1) s) s ∧ isAfter (exec (.domainPowerDown 0) s) (s.auditGeneral 7 1 0 (2 * 2 ^ 32)) ∧
     isAfter (exec (.domainPowerDown 2) s) (s.setDom 2 { s.dom 2 with st := 0 }) ∧
     isAfter (exec (.domainPowerDown 3) s)
       { s.setDom 3 { s.dom 3 with st := 0 } with lnk := { s.lnk with ports := [(0, { downEvents := 1 })] } } ∧
     isAfter (exec (.domainPowerDown 6) s) ((s.setDom 6 { s.dom 6 with st := 0 }).setTdom 0 { s.tdom 0 with railMv := 0 }) ∧
     isAfter (exec (.domainPowerDown 5) s) (s.auditGeneral 7 1 0 5) ∧
     isAfter (exec (.domainPowerDown 4) s)
       { s.setDom 4 { s.dom 4 with st := 3 } with hbm := { s.hbm with hdom := [(0, { down := true, confirmed := [] })] } } ∧
     (let s := { s with tsets := [(0, { owner := 0, st := .running })] }
      isAfter (exec (.domainPowerDown 6) s) s)) ∧
    (let s := dState [0, 1]
     isAfter (exec (.plinthLockstep 9) s) (s.raise { code := 0x0B09, devFatal := true, detail := 9 }) ∧
     isAfter (exec (.pllLockLoss 2 9) { s with pln := { s.pln with ready := true } })
       (let t := { s with pln := { s.pln with ready := true } }.raise { code := 0x0C03, devFatal := true, detail := 2 + 9 * 2 ^ 4 }
        { t with pln := { t.pln with failed := true, bootFatal := true } }) ∧
     after (exec .serdesRefclkLoss { s with pln := { s.pln with slot := 1 } }) (fun t => t.pln.failed && t.pln.bootFatal && t.pln.fatal) ∧
     after (exec (.bladePowerGood 1) { s with now := 7 }) (fun t =>
       t.pln.pb1 && !t.pln.pb0 && decide (t.pln.pbSince = 7) && decide (t.freeCtr = s.freeCtr + 1)) ∧
     (let s := { s with now := ticksMs 5000 + 7, pln := { s.pln with pb1 := true, pbSince := 8 } }
      isAfter (exec (.bladePowerGood 0) s) { s with pln := { s.pln with pb0 := true } }) ∧
     (let s := { s with now := ticksMs 5000 + 7, pln := { s.pln with pb1 := true, pbSince := 7 } }
      isAfter (exec (.bladePowerGood 0) s) { s with pln := { s.pln with pb0 := true, pbLate := true } } ∧
      isAfter (exec .secondBladeTimeout s) { s with pln := { s.pln with pbLate := true } }) ∧
     (let s := { tState with now := 300000, hbm := { tState.hbm with frames := [(40000, .retired), (40001, .held 0 false)], corrected := 4 } }
      after (exec .powerRemoved s) fun t => decide (t.now = 0) && decide (t.tiles = []) && decide (t.tsets = []) && decide (t.ctxs = []) &&
        decide (t.hbm = { frames := [(40000, .retired)] }) && decide (t.syu = {}) && decide (t.rmn = {}) && decide (t.hif = {}) && !t.pln.fatal && decide (t.pln.frq = []) &&
        decide (t.pln.fuses = s.pln.fuses) && decide (t.pln.slotA = s.pln.slotA) && decide (t.pln.poweredMs = 3))) := by decide +kernel

end Supplies

namespace Boots

def rDown (s : State) : State := { s with hif := { s.hif with dlUp := false, configReady := false, speed := 0, width := 0, flit := false } }
def rAsked (i : Instr) (cause : Nat) : Bool :=
  let s := upState 1
  let u : State := { s with pln := { s.pln with resetReq := some (5, true) } }
  after (exec i s) (fun t => !t.hif.dlUp && !t.hif.configReady && decide (t.hif.speed = 0) && decide (t.pln.resetReq = some (cause, false)) && t.pln.fatal) &&
    isAfter (exec i u) (rDown u)

theorem witness_resets :
    rAsked .perstAssert 1 ∧ rAsked .hotReset 2 ∧ rAsked .dlDown 3 ∧
    (let s := upState 1
     let u := s.access 0x10 0x108
     isAfter (exec (.plnResetGo 0x10) s) { u with pln := { u.pln with resetReq := some (4, false), resetGo := true } } ∧
     isAfter (exec (.plnResetGo 0x10) { s with pln := { s.pln with resetReq := some (5, true) } }) { u with pln := { u.pln with resetReq := some (5, true), resetGo := true } } ∧
     isAfter (exec (.dlUp 6 16 true) { s with hif := {} }) { s with hif := { dlUp := true, speed := 6, width := 16, flit := true } } ∧
     isAfter (exec (.dlUp 1 8 false) { s with hif := {} }) { s with hif := { dlUp := true, speed := 1, width := 8 } } ∧
     [(6, 16, false), (0, 16, true), (7, 16, true), (5, 4, true)].all fun x =>
       decide (isAfter (exec (.dlUp x.1 x.2.1 x.2.2) { s with hif := {} }) { s with hif := {} })) := by decide +kernel

def bIn (parts : Nat := 10) : BootIn :=
  { parts := parts, cut := 0, pll := none, spine := none, hbm := none, savedOk := true, channelFails := false, badFrames := [], bist := [], proof := []
    ms := 1234 }
def bUp (t : State) : Bool :=
  t.pln.ready && decide (t.pln.stage = 6) && decide (t.pln.slot = 1) && t.hif.configReady && decide (t.elapsed = 123) && decide (t.pln.boot = []) && (t.ctx 16).tableValid &&
    ([1, 2, 3, 4, 5, 18, 19].all fun d => decide ((t.dom d).st = 2)) && decide ((t.dom 6).st = 0) && decide ((t.dom 17).st = 0) &&
    !t.pln.hbmLost && t.pln.trainPowered

set_option maxRecDepth 100000 in
theorem witness_boots :
    (let s : State := { State.reset with pln := { State.reset.pln with pb0 := true, pb1 := true } }
     after (exec (.coldBoot bIn) s) (fun t => bUp t && decide (t.pln.running = s.pln.slotA) && decide (t.pln.fuses = s.pln.fuses) &&
       decide (t.pln.path = 0) && !t.pln.stressed) ∧
     after (exec (.coldBoot { bIn 2 with pll := some (1, 4) }) s) (fun t => t.pln.failed && !t.pln.ready && t.pln.fatal && decide (t.pln.stage = 1))) ∧
    (let s := upState 1
     let s := { s with pln := { s.pln with resetReq := some (2, false), fatal := true, trainPowered := true, hbmLost := false } }
     after (exec (.warmBoot bIn) s) (fun t => bUp t && decide (t.pln.resetReq = none) && decide (t.pln.cause = 2) && t.pln.afterFatal && !t.pln.fatal &&
       decide (t.tiles = []) && decide (t.tsets = []) && decide (t.ctx 0 = {}) && decide (t.syu = {}) && decide (t.rmn.items = []) &&
       decide (t.queue 5 = {}) && decide (t.hbm.mem = []) && decide (t.hbm.fmap = []) && decide (t.pln.path = 1) && decide (t.pln.declined = 0)) ∧
     after (exec (.warmBoot bIn) { s with pln := { s.pln with resetReq := some (2, true) } }) (fun t =>
       bUp t && decide (t.pln.path = 2) && decide (t.pln.declined = 3)) ∧
     isAfter (exec (.warmBoot bIn) { s with pln := { s.pln with pb1 := false } }) { s with pln := { s.pln with pb1 := false } } ∧
     after (exec (.warmBoot bIn) { s with pln := { s.pln with hbmLost := true } }) (fun t =>
       bUp t && decide (t.pln.path = 0) && decide (t.pln.declined = 0))) := by
  decide +kernel

/-- A cold path, or the full warm one, that has come to the rows `rows`; context 0 is Idle. -/
def bRows (path : Nat) (rows : List BootPart) : State :=
  { State.reset with
    pwr := { State.reset.pwr with domains := [(0, { st := 2 })] }
    pln := { State.reset.pln with pb0 := true, pb1 := true, boot := rows, path := path, pathSince := some 0 } }
def bOn (s : State) (ds : List Nat) : State := ds.foldl (fun s d => s.setDom d { s.dom d with st := 2 }) { s with now := ticksMs 1234 }

set_option maxRecDepth 100000 in
theorem witness_bootRows :
    (let s (x : BootPart) := bRows 0 [x, .commit]
     let w (x : BootPart) := bRows 2 [x, .commit]
     let on (s : State) (ds : List Nat) : State := { s with pwr := { s.pwr with domains := s.pwr.domains ++ ds.map fun d => (d, { st := 2 }) } }
     let rest (t : State) : State := { t with pln := { t.pln with boot := [.commit] } }
     isAfter (exec (.coldBoot (bIn 1)) (s .control)) (rest (bOn (s .control) [1])) ∧
     isAfter (exec (.warmBoot (bIn 1)) (w .control)) (rest (bOn (w .control) [1])) ∧
     (let s := on (s .pcie) [1]
      isAfter (exec (.coldBoot (bIn 1)) s) (let t := rest (bOn s [2]); { t with hif := { t.hif with configReady := true } })) ∧
     (let s := on (s .spine) [1]
      isAfter (exec (.coldBoot (bIn 1)) s) (rest (bOn s [18, 19])) ∧
      after (exec (.coldBoot { bIn 1 with spine := some (2, 9) }) s) (fun t => t.pln.failed && t.pln.fatal && decide (t.pln.boot = [.spine, .commit]))) ∧
     ([BootPart.pcie, .spine, .links, .hbm, .bist, .tiles].all fun x =>
       decide (isAfter (exec (.coldBoot (bIn 1)) (s x)) (bOn (s x) [])) && (x = .pcie || x = .spine ||
         decide (isAfter (exec (.warmBoot (bIn 1)) (on (w x) [1])) (bOn (on (w x) [1]) [])))) ∧
     after (exec (.coldBoot { bIn 1 with hbm := some (3, 4) }) (on (s .hbm) [1, 18])) (fun t =>
       t.pln.failed && t.pln.fatal && decide (t.pln.boot = [.hbm, .commit]) && !t.pln.trainPowered)) := by decide +kernel

/-- Rows that run beside a failing one end, and the last row waits while D4 is not On. -/
theorem witness_concurrentRows :
    (let s (rows : List BootPart) := bOn (bRows 0 rows) [1, 18]
     after (exec (.coldBoot { bIn 1 with hbm := some (3, 4) }) (s [.hbm, .bist, .tiles, .commit])) (fun t =>
       t.pln.failed && t.pln.fatal && decide (t.pln.boot = [.hbm, .tiles, .commit]) && decide ((t.dom 6).st = 2) && decide ((t.dom 17).st = 2)) ∧
     after (exec (.coldBoot { bIn 1 with spine := some (6, 1) }) (s [.links, .hbm, .bist, .tiles, .commit])) (fun t =>
       t.pln.failed && t.pln.fatal && decide (t.pln.boot = [.links, .tiles, .commit]) && t.pln.trainPowered &&
         ([3, 4, 5, 6, 17].all fun d => decide ((t.dom d).st = 2))) ∧
     after (exec (.coldBoot (bIn 1)) (bOn (s [.commit]) [1, 2, 5, 18])) (fun t => !t.pln.ready && decide (t.pln.boot = [.commit])) ∧
     after (exec (.coldBoot (bIn 1)) (bOn (s [.commit]) [1, 2, 4, 5, 18])) (fun t => t.pln.ready && decide (t.pln.boot = []))) := by decide +kernel

/-- The request has been taken from its channel: code `code` and value `v`, by the BMC or the PF driver. -/
def lTaken (s : State) (m code v : Nat) : State :=
  let q := if m = 3 then 2 else 4
  let x := s.chan q
  s.setChan q { x with
    data := code + v * 2 ^ 32, len := 8, seq := 1, armed := max 1 x.timeoutMs, since := s.now, full := false, delivered := true, mctp := false }

theorem witness_limitedChanges :
    (let s := upState 1
     (let reply := 2 + 2 ^ 8 + 7 * 2 ^ 32
      let y := { s.chan 3 with data := reply, full := true, len := 8, seq := 1, armed := max 1 (s.chan 3).timeoutMs }
      (s.chan 3).receiver = 3 ∧ (s.chan 5).receiver = 0x10 ∧
      s.replyTo 3 2 1 7 = (s.setChan 3 { y with mctp := true }).out (.mbxDeliver 8 reply) ∧
      (let u := s.setChan 3 { s.chan 3 with receiver := 5 }
       u.replyTo 3 2 1 7 = s.setChan 3 { y with receiver := 5 }) ∧
      (let u := s.setChan 3 { s.chan 3 with full := true }
       u.replyTo 3 2 1 7 = u) ∧
      s.replyTo 0x10 2 1 7 = ((s.setChan 5 { s.chan 5 with
        data := reply, full := true, len := 8, seq := 1, armed := max 1 (s.chan 5).timeoutMs }).event 0 (3 + 5 * 2 ^ 64)).msix 0 2) ∧
     ((s.replyTo 3 2 1 7).chan 3).full = true ∧ ((s.replyTo 0x10 2 1 7).chan 5).data % 2 ^ 64 = 2 + 2 ^ 8 + 7 * 2 ^ 32 ∧
     isAfter (exec (.reset 3 2) s) ((lTaken s 3 4 2).replyTo 3 4 2 0) ∧
     after (exec (.reset 3 1) s) (fun t => decide (t.pln.resetReq = some (5, true))) ∧
     after (exec (.reset 0x10 0) s) (fun t => decide (t.pln.resetReq = some (4, false))) ∧
     isAfter (exec (.reduceCeiling 3 2000 0) s) ((lTaken s 3 1 2000).replyTo 3 1 2 0) ∧
     after (exec (.reduceCeiling 3 1999 0) s) (fun t => decide (t.pln.fuses.ceilingW = 1999) && decide (t.pln.fuses.reductions = 1) &&
       decide (t.pwr = { s.pwr with ceilingW := 1999, reductions := 1 }) &&
       decide (t.pln.auditChange.map (fun e => (e.intent, e.done, e.abandoned, e.counter, e.data)) = [(true, true, false, 1, 2000 + 1999 * 2 ^ 64)]) &&
       (t.chan 3).full && decide ((t.chan 3).data = 1 + 2 ^ 32) && decide (t.outbox = [.mbxDeliver 8 (1 + 2 ^ 32)])) ∧
     after (exec (.reduceCeiling 3 500 2) s) (fun t => decide (t.now = 0) && decide (t.pln.fuses = s.pln.fuses) && decide (t.pln.slot = 0) &&
       decide (t.pln.openChange = some { entry := 0, burnt := true, change := .ceiling 500 }) &&
       decide (t.pln.auditChange.map (fun e => (e.intent, e.done)) = [(true, false)])) ∧
     isAfter (exec (.advanceFirmwareFloor 0x10 1 0) s) ((lTaken s 0x10 2 1).replyTo 0x10 2 2 0) ∧
     after (exec (.advanceVerjoFloor 0x10 2 0) s) (fun t => decide (t.pln.fuses = { s.pln.fuses with floorSteps := 1, verjoFloor := 2 }) && decide (t.pwr = s.pwr)) ∧
     (let u := { s with pln := { s.pln with running := { svn := 31 } } }
      after (exec (.advanceFirmwareFloor 0x10 31 0) u) (fun t => decide (t.pln.fuses = { s.pln.fuses with floorSteps := 1, fwFloor := 31 }))) ∧
     (let u := { s with pln := { s.pln with fuses := { s.pln.fuses with reductions := 8 } } }
      isAfter (exec (.reduceCeiling 3 1999 0) u)
        ((((lTaken u 3 1 1999).auditGeneral 9 3 8 (2000 + 1999 * 2 ^ 64)).raise { code := 0x0C0A, detail := 2 + 2 ^ 4 }).replyTo 3 1 1 8)) ∧
     (let u := s.setChan 2 { s.chan 2 with full := true }
      isAfter (exec (.reset 3 0) u) u ∧ isAfter (exec (.reduceCeiling 3 1999 0) u) u)) ∧
    (let s := upState 1
     let s := { s with pln := { s.pln with resetReq := some (5, true) } }
     isAfter (exec (.reset 3 0) s) ((lTaken s 3 4 0).replyTo 3 4 0 0) ∧
     isAfter (exec (.reduceCeiling 3 1999 0) s) ((lTaken s 3 1 1999).replyTo 3 1 3 0)) := by decide +kernel

/-- A message with code 5 on channel 4 is taken and answered. -/
theorem witness_unknownRequest :
    (let s := upState 1
     let u := s.setChan 4 { s.chan 4 with data := 5, len := 8, full := true }
     decide (u.takeRequest 4 0 = (s.setChan 4 { s.chan 4 with data := 5, len := 8, delivered := true }).replyTo 0x10 5 4 0) &&
       decide (s.takeRequest 4 0 = s)) = true := by decide +kernel

/-- A change lies open whose step has burnt, or not: the next cold start completes or abandons it. -/
def rcState (x : OpenChange) : State :=
  let e : AuditEnt := { time := 0, event := 3, agent := 3, intent := true, counter := 1 }
  { State.reset with pln := { State.reset.pln with pb0 := true, pb1 := true, auditChange := [e], openChange := some x } }
def rcAfter (x : OpenChange) (p : State → Bool) : Bool := after (exec (.coldBoot (bIn 0)) (rcState x)) fun t => decide (t.pln.openChange = none) && p t

theorem witness_recovery :
    rcAfter { entry := 0, burnt := true, change := .ceiling 700 } (fun t => decide (t.pwr.ceilingW = 700) && decide (t.pln.fuses.ceilingW = 700) &&
      decide (t.pln.fuses.reductions = 1) && decide (t.pln.auditChange.map (fun e => (e.done, e.abandoned)) = [(true, false)])) ∧
    rcAfter { entry := 0, burnt := false, change := .ceiling 700 } (fun t => decide (t.pln.fuses = State.reset.pln.fuses) &&
      decide (t.pln.auditChange.map (fun e => (e.done, e.abandoned)) = [(false, true)])) ∧
    rcAfter { entry := 0, burnt := true, change := .cbt [(9, 0x102)] } (fun t => decide (t.mbx.provisioned = [(9, 0x102)]) && decide (t.pln.fuses.cbtGens = 1)) ∧
    rcAfter { entry := 0, burnt := true, change := .tileMap [(7, false)] [] } (fun t => decide (t.pln.fuses.gens = [[(7, false)]])) := by decide +kernel

/-- An image with hash 5, signed with the key that the fuses hold (computed outside). -/
def sbSig : Signature := { factorySig with s := 0x21B6BCB90293734F73099BA77B75DB6D7B3DCA4BE958A41E903B04B79B01A89D3C0501EEA943CAD6EBCE4FF5BB54DB00 }

theorem witness_sideband :
    (let s := upState 1
     let ok (t : State) : State := t.out (.reply 3 0)
     let x : Slot := { sig := sbSig, hash := 5, auth := true, form := true, svn := 1, minor := 2, build := 3 }
     let i : ImageIn := { sig := sbSig, hash := 5, form := true, svn := 33, minor := 258, build := 65539 }
     isAfter (exec (.setEndpointId 300) s) (ok { s with pln := { s.pln with eid := 44 } }) ∧
     isAfter (exec (.firmwareUpdate i) s) (ok { s with pln := { s.pln with slotB := x } }) ∧
     isAfter (exec (.firmwareUpdate { i with hash := 6 }) s) (ok { s with pln := { s.pln with slotB := { x with hash := 6, auth := false } } }) ∧
     isAfter (exec (.firmwareUpdate i) (upState 2)) (ok { upState 2 with pln := { (upState 2).pln with slotA := x } }) ∧
     isAfter (exec (.firmwareUpdate i) (upState 0)) (ok { upState 0 with pln := { (upState 0).pln with slotA := x } }) ∧
     isAfter (exec .activateFirmware (upState 0)) (ok (upState 0)) ∧
     isAfter (exec .activateFirmware (upState 2)) (ok { s with pln := { s.pln with slot := 1, running := s.pln.slotA, failed := false } }) ∧
     (let s := { s with pln := { s.pln with slotB := x } }
      isAfter (exec .activateFirmware s) (ok { s with pln := { s.pln with slot := 2, running := x, failed := false } })) ∧
     (let s := { s with pln := { s.pln with bootFatal := true, failed := true, boot := [.image, .pll] } }
      isAfter (exec .activateFirmware s) (ok { s with pln := { s.pln with slot := 1, running := s.pln.slotA } })) ∧
     (let s := { s with pln := { s.pln with slotA := { auth := false }, slotB := x, enabled := true } }
      after (exec .activateFirmware s) (fun t => decide (t.pln.slot = 2) && decide (t.pln.running = x) &&
        decide ({ code := 0x0C02, detail := 2 : FaultRec } ∈ t.pln.frq))) ∧
     (let s := { s with pln := { s.pln with slotA := { auth := false }, slotB := { auth := false } } }
      after (exec .activateFirmware s) (fun t => decide (t.pln.slot = 0) && t.pln.failed && !t.pln.ready && decide ((t.dom 1).st = 0) &&
        decide (t.pln.path = 0) && decide (t.pln.boot = bootRows 0) && t.pln.hbmLost && !t.pln.trainPowered && decide (t.outbox.head? = some (.reply 3 0)) &&
        decide ((t.dom 19).st = 0) && decide (t.dom 0 = s.dom 0)))) ∧
    (let s (n : Nat) : State := { upState 1 with pwr := { (upState 1).pwr with smbus := n } }
     isAfter (exec (.smbusSegmentRequest true) (s 1)) ((s 1).out (.reply 3 1)) ∧ isAfter (exec (.smbusSegmentRequest true) (s 0)) ((s 2).out (.reply 3 0)) ∧
     isAfter (exec (.smbusSegmentRequest false) (s 2)) ((s 0).out (.reply 3 0)) ∧ isAfter (exec (.smbusSegmentRequest false) (s 0)) ((s 0).out (.reply 3 1))) := by
  decide +kernel

end Boots

namespace Accesses

/-- The host reaches the block; every domain is On. -/
def wRegs : State :=
  { upState 1 with tels := [], ctxs := [(0, { st := .loading })], tsets := [(0, { owner := 0, st := .loading })] }

theorem witness_registerAccesses :
    (let s := wRegs
     let off := 0x101010
     let u := s.access 0x10 off
     (s.isWide 1 0 0x101100 = true ∧ s.isWide 1 0 0x101108 = false) ∧
     isAfter (exec (.registerWrite 0x10 0 off 2 5) s) u ∧ isAfter (exec (.registerWrite 0x10 0 (off + 2) 4 5) s) (s.access 0x10 (off + 2)) ∧
     isAfter (exec (.registerWrite 1 0 0x101100 8 (2 ^ 64 + 0x5000)) s) ((s.access 1 0x101100).putReg 1 0 0x101100 0x5000) ∧
     isAfter (exec (.registerWrite 1 0 0x101108 8 (7 + 9 * 2 ^ 32)) s) (((s.access 1 0x101108).putReg 1 0 0x101108 7).putReg 1 0 0x10110C 9) ∧
     isAfter (exec (.registerWrite 1 0 0x101108 4 (2 ^ 32 + 7)) s) ((s.access 1 0x101108).putReg 1 0 0x101108 7) ∧
     (let t := { s.access 1 0x101100 with pln := { (s.access 1 0x101100).pln with halves := [(64 + 1, some (0x101100, 7))] } }
      windowOf 0x101100 = 1 ∧
      isAfter (exec (.registerWrite 1 0 0x101100 4 7) s) t ∧
      isAfter (exec (.registerWrite 1 0 0x101104 4 9) t) ((t.access 1 0x101104).putReg 1 0 0x101100 (7 + 9 * 2 ^ 32))) ∧
     (let t := { s with pln := { s.pln with halves := [(64 + 1, some (0x101104, 7))] } }
      isAfter (exec (.registerWrite 1 0 0x101100 4 9) t) ((t.access 1 0x101100).putReg 1 0 0x101100 (9 + 7 * 2 ^ 32))) ∧
     (let t := { s with pwr := { s.pwr with domains := [(0, { st := 2 }), (2, { st := 2 })] } }
      isAfter (exec (.registerWrite 1 0 0xE00100 4 9) t) (t.access 1 0xE00100))) ∧
    (let s := wRegs
     isAfter (exec (.registerWrite 0x11 0 0x102008 4 (7 + 9 * 2 ^ 8)) s) ((s.access 0x11 0x102008).setFn 1 { irqCount := 7, irqDelay := 9 }) ∧
     isAfter (exec (.registerWrite 0x12 0 0x102008 4 (7 + 9 * 2 ^ 8)) s) (s.access 0x12 0x102008) ∧
     after (exec (.registerWrite 2 5 0xE00128 4 0x62) s) (fun t => decide (t.pln.coreTags = [(5, 0x22)])) ∧
     isAfter (exec (.registerWrite 2 5 0xE0012C 4 0x62) s) (s.access 2 0xE0012C) ∧ isAfter (exec (.registerWrite 1 0 0xE0012C 4 1) s) (s.access 1 0xE0012C) ∧
     (let u := s.setFn 1 { s.fn 1 with resetting := true }
      isAfter (exec (.registerWrite 0x11 0 0x102008 4 7) u) u) ∧
     isAfter (exec (.registerWrite 2 0 0xA00008 4 9) s) ((s.access 2 0xA00008).setTel 0 { target := 9 }) ∧
     after (exec (.registerWrite 3 0 0x200 4 0x2005) s) (fun t => decide (t.pln.auditSel = 5))) ∧
    (let s := wRegs
     isAfter (exec (.regRead 8) s) ((s.regRead 3 0 8 4).2.out (.reply 3 (s.regRead 3 0 8 4).1)) ∧
     after (exec (.regRead 0) s) (fun t => decide (t.outbox.head? = some (.reply 3 (0x1680 + 2 ^ 16)))) ∧
     s.bmcGrants 0xA00008 = false ∧ isAfter (exec (.regWrite 0xA00008 9) s) ((s.regWrite 3 0 0xA00008 4 9).out (.reply 3 0)) ∧
     s.bmcGrants 0x200 = true ∧ isNext (exec (.regWrite 0x200 5) s)) := by decide +kernel

/-- The spaces beyond BAR0: doorbells, offsets that are ignored, the Pending Bit Array and an entry of the MSI-X table. -/
theorem witness_barWrites :
    (let s := wRegs
     (∀ o ∈ [0x4000 + 2 ^ 26, 2 ^ 26, 2 ^ 26 + 0x3000], isAfter (exec (.registerWrite 0x12 0 o 4 5) s) (s.barWrite 2 o 4 5)) ∧
     isAfter (.next (s.barWrite 2 (2 ^ 26 + 0x2000) 4 5)) (s.doorbell 2 2 5) ∧
     isAfter (.next (s.barWrite 2 (2 ^ 26 + 8) 4 5)) s ∧ isAfter (.next (s.barWrite 2 (2 ^ 26 + 0x3000) 4 5)) s ∧
     isAfter (.next (s.barWrite 2 (2 ^ 26 + 0x5000) 8 5)) s ∧
     (s.fn 2).vector 3 = msixReset ∧ isAfter (.next (s.barWrite 2 (2 ^ 26 + 0x4038) 8 77))
       (s.setFn 2 { s.fn 2 with msixTable := [(3, 77 * 2 ^ 64)] })) := by decide +kernel

end Accesses

namespace Checks

def qLdk : BitVec 128 := word 0 2 0 7 (inc 1) non 7
def qState (t : Tile) : State := { tState with tiles := [(0, t)] }
/-- The tile as the operation finds it, issuing at thread 0: whether it is ready, and its view of the machine. -/
def qReady (s : State) (w : BitVec 128) : Bool := s.issues 0 0 && ((s.issueState 0 0).regs (s.opOf 0 0 w)).ready w.toNat
def qOp (w : BitVec 128) (t : Tile) : Op := (qState t).opOf 0 0 w
def qNow (t : Tile) : State := (qState t).issueState 0 0
/-- The line of its stream passes, and the operation executes under its predicate. -/
def qFetched (w : BitVec 128) (t : Tile) : Bool :=
  qReady (qState t) w && (qNow t).fetchOk (qOp w t) && ((qNow t).regs (qOp w t)).executes w.toNat
def qDark : Tile := { tTile with cfg := { tTile.cfg with bankPwr := 0 } }
def qFar : Tile := { tTile with threads := [(0, { tThread with main := { tThread.main with a := [(1, 0x1FFFFF)] } })], cfg := { tTile.cfg with bankPwr := 1 } }
def qLoop : Tile := { tTile with threads := [(0, { tThread with main := { tThread.main with loops := [{ ctr := 7, start := 0, stop := 9, looped := true, nested := true }] } })] }
def qParity : Tile := { tTile with err := { tTile.err with badWords := [(16 * 8 + 3, true)] } }
def qPoison : Tile := { tTile with poison := [(8, true)] }

theorem witness_tileOperationChecks :
    (qReady (qState qDark) qLdk && ((qNow qDark).fetchLineOf (qOp qLdk qDark)).2 &&
      (((qNow qDark).tile 0).checkLines 0 0 (64 * ((qNow qDark).fetchLineOf (qOp qLdk qDark)).1) 1 64 false false true).any fun k =>
        isAfter (exec (.ldk 0 0 qLdk) (qState qDark)) ((qNow qDark).opFault (qOp qLdk qDark) k)) ∧
    (let w := word 0 2 0 16 (inc 1) non 7
     qFetched w tTile && (encReason (ldkSpec.enc (qNow tTile) (qOp w tTile)) w.toNat).any fun n =>
       isAfter (exec (.ldk 0 0 w) (qState tTile)) ((qNow tTile).opFault (qOp w tTile) ⟨0x0101, noAddr, n⟩)) ∧
    (qFetched qLdk qFar && ((qNow qFar).checkAccs (qOp qLdk qFar) (ldkSpec.accs (qNow qFar) (qOp qLdk qFar))).any fun k =>
      isAfter (exec (.ldk 0 0 qLdk) (qState qFar)) ((qNow qFar).opFault (qOp qLdk qFar) k)) ∧
    (qFetched qLdk qLoop && (ldkSpec.own (qNow qLoop) (qOp qLdk qLoop)).any fun k =>
      isAfter (exec (.ldk 0 0 qLdk) (qState qLoop)) ((qNow qLoop).opFault (qOp qLdk qLoop) k)) ∧
    (qFetched qLdk qParity && isAfter (exec (.ldk 0 0 qLdk) (qState qParity)) ((qNow qParity).detect 0 ((qOp qLdk qParity).det .parity 8))) ∧
    (qFetched qLdk qPoison && isAfter (exec (.ldk 0 0 qLdk) (qState qPoison))
      ((qNow qPoison).opFault (qOp qLdk qPoison) ⟨0x0901, tileAddr 0 (64 * 8), 8 + 4 * 2 ^ 15⟩)) := by decide +kernel

/-- Behind a predicate that does not let it execute. -/
def qOff (cls op len : Nat) (d a : Nat) : BitVec 128 := word cls op 0 d a non len 0 (2 ^ 12)

theorem witness_tileOperationNotExecuted :
    (let c (i : Instr) (w : BitVec 128) (sp : OpSpec) (n : Nat) : Bool :=
      qReady (qState tTile) w && (qState tTile).calm 0 && (qNow tTile).fetchOk (qOp w tTile) &&
        (encReason (sp.enc (qNow tTile) (qOp w tTile)) w.toNat).isNone &&
        !((sp.enc (qNow tTile) (qOp w tTile)).always || ((qNow tTile).regs (qOp w tTile)).executes w.toNat) && (sp.own (qNow tTile) (qOp w tTile)).isNone &&
        after (exec i (qState tTile)) fun t => decide ((t.regs (qOp w tTile)).pos = n)
     c (.ldk 0 0 (qOff 0 2 7 7 (inc 1))) (qOff 0 2 7 7 (inc 1)) ldkSpec 1 ∧ c (.loop 0 0 (qOff 0 3 5 1 non)) (qOff 0 3 5 1 non) loopSpec 6) ∧
    (let s := qState { tTile with threads := [(0, { tThread with stopped := true })] }
     s.issues 0 0 = false ∧ isAfter (exec (.ldk 0 0 qLdk) s) s) ∧
    (let s := qState { tTile with threads := [(0, { tThread with main := { tThread.main with tk := [(0, true)] } })] }
     let w := word 0 2 0 7 (inc 1) non 7 0 (2 ^ 16)
     s.issues 0 0 = true ∧ isAfter (exec (.ldk 0 0 w) s) s) := by decide +kernel

end Checks

namespace Steps

theorem witness_stepRunsFrontCommand :
    (let s := { tState with pending := [.bladePowerGood 1, .powerRemoved] }
     after (step s) fun t => decide (t.pending = [.powerRemoved]) && t.pln.pb1) ∧
    isAfter (step State.reset) { State.reset with now := 1 } ∧
    (let s := { tState with pending := [.ldk 0 0 (word 0 2 0 7 (inc 1) non 7)] }
     s.memWf && after (step s) State.memWf) := by decide +kernel

theorem witness_drfAddLanes :
    (let r := 0x23 + 2 ^ 8 + 2 ^ 32
     cCount r = 1 ∧
     (addOut r [(2 ^ 63, false)] [(5, false)]).lines.map (fun x => bits x.1 0 64) = [2 ^ 63, 0] ∧
     (addOut r [(2 ^ 63 - 1, false)] [(1, false)]) = { lines := [(2 ^ 63, false), (0, false)], noted := 1 } ∧
     (addOut r [(2 ^ 63 - 1, false)] [(2 ^ 64 - 1, false)]).lines.map (fun x => bits x.1 0 64) = [2 ^ 63 - 2, 0] ∧
     (addOut r [(2 ^ 63 + 1, false)] [(2 ^ 64 - 1, false)]).noted = 1) := by decide +kernel

theorem witness_mailboxAccessRules :
    (let s := { chanState { sender := 0x11, receiver := 2, timeoutMs := 30, data := 77 } with pln := { tState.pln with slot := 1 } }
     let x := s.chan 7
     let refused (m off v : Nat) : Bool := isAfter (exec (.registerWrite m 0 off 4 v) s) ((s.access m off).setChan 7 { x with denied := true })
     refused 2 0x201700 5 && refused 2 0x20173C 5 && refused 2 0x201740 5 && refused 2 0x201758 5 && refused 0x11 0x201750 5 && refused 3 0x201750 5 &&
     decide (s.slotRead 1 0 0x201700 = 0) && decide (s.slotRead 0x11 0 0x201758 = 30) && decide (s.slotRead 0x11 0 0x200008 = 0) &&
     decide (s.slotRead 2 0 0x201700 = 77)) := by decide +kernel

theorem witness_ldkChecksMaximum :
    (let w := word 0 2 0 3 (inc 1) non 4096
     let t (v : Nat) : Tile := { tTile with mem := memWrite [] 512 4 v }
     let s (v : Nat) : State := { tState with tiles := [(0, t v)] }
     tileGoes (.ldk 0 0) w ldkSpec (t 1500) && tileGoes (.ldk 0 0) w ldkSpec (t 5000) && mwf {} (s 1500).tiles && mwf {} (t 1500).threads &&
     after (exec (.ldk 0 0 w) (s 1500)) (fun u => decide (((u.thread 0 0).main).getK 3 = 1500)) &&
     after (exec (.ldk 0 0 w) { s 5000 with pln := { tState.pln with enabled := true } }) (fun u =>
       decide (u.pln.frq.map (fun r => (r.code, r.detail)) = [(0x0107, 0x1388)]))) := by decide +kernel

theorem witness_tileIdent :
    (let s := { tState with hif := { tState.hif with configReady := true, dlUp := true } }
     s.pln.logicalAt 0 = some 0 ∧ s.slotRead 1 0 0x1000000 = 0 ∧ s.pln.logicalAt 5760 = none ∧ s.slotRead 2 0 (0x1000000 + 0x1000 * 5760) = 5760 + 0x1FFF * 2 ^ 16 ∧
     isNext (exec (.registerWrite 0x10 0 0x1000000 4 9) s)) := by decide +kernel

theorem witness_versionRegister :
    (let s := { upState 1 with pln := { (upState 1).pln with running := { svn := 31, minor := 255, build := 65535 } } }
     s.slotRead 0x11 0 8 = 31 + 255 * 2 ^ 8 + 65535 * 2 ^ 16 ∧ isAfter (exec (.registerWrite 0x11 0 8 4 9) s) (s.access 0x11 8)) := by decide +kernel

end Steps

namespace Smoke

/-- For each check of `Instr.wf`: an operand just beyond its range, or a word of another row. -/
def illFormed : List Instr :=
  [.nop 5760 0 0, .nop 0 4 0, .nop 0 0 (word 0 1 0 7 non non 0), .setk 0 0 0, .mma 0 0 (word 5 1 0 0 0 0 0), .halt 0 0 (word 0 6 0 0 0 0 0),
   .vnormAcc 0 0 (word 5 4 1 0 0 0 0), .vnormRead 0 0 (word 5 4 0 0 0 0 0), .vnormClear 0 0 (word 5 4 3 0 0 0 0), .mopenConnect 0 0 (word 7 0 1 0 0 0 0),
   .mopenListen 0 0 (word 7 0 0 0 0 0 0), .mcloseRelease 0 0 (word 7 3 1 0 0 0 0), .mcloseClose 0 0 (word 7 3 0 0 0 0 0), .exchangeShort 5760 0,
   .exchangeShort 0 65536, .tileSignal 5760, .synchronisationComplete 64, .superstepRerun 5760, .updateWindow 262144, .watchTimeout 5760 0,
   .managementWatchTimeout 65536, .deadlockWatchdog 65536, .managementWatchRegistration 17 0, .queueReset 18, .queueHold 18 true, .rmnQRelease 16 0,
   .cowCopyComplete 16777216, .map 2 0, .unmap 2 0, .setperm 2 0, .snapshot 2 0, .releaseSnapshot 2 0, .clearPoison 2 0, .frameMapCommandComplete 2,
   .frameZeroed 16777216 true, .hbmDomainDown 2, .hbmDomainFence 2, .hbmDomainUp 2, .hbmDomainOn 2, .dmaCopy 16 0, .dmaCopy 0 32768, .dmaFill 16 0,
   .dmaFill 0 32768] ++
  [.pwinWriteArrival 7, .replayLimit 7, .laneLockLoss 7, .linkSilence 7, .portEnable 7, .portDisable 7, .retrain 7, .trainingTimeout 7,
   .bind 7 0 0 0 0, .bind 0 16 0 0 0, .bind 0 0 16 0 0, .unbind 7 0 0 0, .unbind 0 16 0 0, .reserve 7 0 0 0, .suspend 7 0, .suspend 0 2, .suspended 0 2,
   .resume 0 2, .bindTimeout 7 0, .bindTimeout 0 16, .reserveTimeout 7 0, .reserveTimeout 0 16, .remotePacketReceive 7, .nakReceive 7,
   .linkSignalDetect 7, .collectiveExpmax 7 0, .collectiveEncode 0 32768, .collectiveAdd 7 0, .collectiveDecode 7 0, .collectiveDigest 7 0,
   .digestReceive 16 0 0 0 false false false, .gateDecision 16, .telRingTailWrite 1 16 0, .doorbell 17 0 0, .doorbell 0 3 0, .hostNop 17, .hostAdmit 17,
   .dma 17, .signal 17, .watch 17, .teardown 17, .fence 17, .ringEnable 17 0 true, .ringEnable 0 3 true, .ringReset 17 0, .ringReset 0 3,
   .irqDelayExpiry 17 0, .irqDelayExpiry 0 2, .functionLevelReset 17, .d3hotToD0 17, .busMasterEnable 17 true, .d0ToD3hot 17, .mailboxSend 1 64 0,
   .mailboxAck 1 64, .mailboxTimeout 64, .imageChecks 16, .admission 16, .loadingComplete 16, .teardownComplete 16, .shadowLoad 0 5760,
   .arbiterRun 0 5760, .armatureCounterStore 16 0 0, .armatureCoreLoad 16 0 8, .armatureCoreLoad 0 0 0, .armatureCoreLoad 0 0 65,
   .armatureCoreStore 0 0 65 0, .energyWindowClose 16, .inputVoltage 2 0, .railFault 20 true, .registerWrite 1 16 0 4 0, .domainPowerDown 20,
   .bladePowerGood 2]

theorem test_illFormed_refused : (illFormed.all fun c => !c.wf) = true := by decide +kernel

theorem test_illFormed_faults : (match exec (.tileSignal 5760) State.reset with | .fault .illFormed => true | _ => false) = true := by decide +kernel

/-- The last place of each range is well formed. -/
theorem test_boundaries_wellFormed :
    ([.nop 5759 3 (word 15 0 0 0 0 0 0), .vnormAcc 0 0 (word 5 4 3 0 0 0 0), .mopenListen 0 0 (word 7 0 1 0 0 0 0), .exchangeShort 5759 65535,
      .synchronisationComplete 63, .updateWindow 262143, .managementWatchTimeout 65535, .managementWatchRegistration 16 0, .queueReset 17, .map 1 0,
      .frameZeroed 16777215 true, .dmaCopy 15 32767, .bind 6 15 15 0 0, .suspend 6 1, .collectiveAdd 6 32767, .gateDecision 15, .doorbell 16 2 0,
      .irqDelayExpiry 16 1, .mailboxSend 1 63 0, .shadowLoad 0 5759, .armatureCoreLoad 15 0 64, .railFault 19 true, .bladePowerGood 1,
      .hbmDomainOn 1] : List Instr).all Instr.wf = true := by decide +kernel

theorem test_decodeTableWord : decodeTableWord 128 0 = none ∧ State.reset.withFetchWord 128 0 = State.reset := by decide +kernel

end Smoke

end Sys2Proof.Tests
end

section
/-! The first register of a site's window (R22, R109): what it reads, and that no write changes it. -/

namespace Sys2Proof.Machine

/-- Offset 0 of the window of site `p` (R588). -/
def siteWindow (p : Nat) : Nat := 0x1000000 + 0x1000 * p

theorem siteWindow_lt {p : Nat} (hp : p < 6144) : siteWindow p < 2 ^ 26 := by unfold siteWindow; omega

theorem siteWindow_slot (p : Nat) : siteWindow p / 8 * 8 = siteWindow p := by unfold siteWindow; omega

theorem siteWindow_aligned (p : Nat) : siteWindow p % 4 = 0 := by unfold siteWindow; omega

theorem siteWindow_reg (p : Nat) : siteWindow p % 0x1000 = 0 := by unfold siteWindow; omega

theorem isTileWin_siteWindow {p : Nat} (hp : p < 6144) : isTileWin (siteWindow p) = true := by
  unfold isTileWin inArr siteWindow
  exact Bool.and_eq_true_iff.2 ⟨decide_eq_true (by omega), decide_eq_true (by omega)⟩

theorem siteOfOff_siteWindow (p : Nat) : siteOfOff (siteWindow p) = p := by
  unfold siteOfOff arrIx siteWindow
  omega

theorem windowDomain_siteWindow {p : Nat} (hp : p < 6144) : windowDomain (siteWindow p) = 6 + p % 96 / 8 := by
  unfold windowDomain
  rw [if_pos (isTileWin_siteWindow hp), siteOfOff_siteWindow]
  rfl

/-- The masters that see every register of every window see this one. -/
theorem viewOf_siteWindow (s : State) {m : Nat} (p : Nat) (hm : m = 1 ∨ m = 2 ∨ m = 0x10) : s.viewOf m (siteWindow p) = 1 := by
  have hw : winOf (siteWindow p) ≠ 1 := by unfold winOf siteWindow; omega
  unfold State.viewOf
  rcases hm with rfl | rfl | rfl <;> simp [hw]

/-- TIL_IDENT: the site in [12:0], its logical tile, or 0x1FFF, in [28:16]; it is a register of 32 bits. -/
theorem slotAt_siteWindow (s : State) (m core : Nat) {p : Nat} (hp : p < 6144) :
    s.slotAt m core (siteWindow p) = r32 (p + (s.pln.logicalAt p).getD 0x1FFF * 2 ^ 16) := by
  unfold State.slotAt
  dsimp only
  rw [if_pos (isTileWin_siteWindow hp), siteOfOff_siteWindow, siteWindow_reg]
  unfold State.tileSlot
  exact if_pos rfl

theorem isWide_siteWindow (s : State) (m core : Nat) {p : Nat} (hp : p < 6144) : s.isWide m core (siteWindow p) = false := by
  unfold State.isWide
  rw [slotAt_siteWindow s m core hp]
  rfl

/-- What a master that may read it reads, while the site's domain is On. -/
theorem slotRead_siteWindow {s : State} {m p : Nat} (core : Nat) (hp : p < 6144) (hm : m = 1 ∨ m = 2 ∨ m = 0x10)
    (hd : s.isOn (6 + p % 96 / 8) = true) :
    s.slotRead m core (siteWindow p) = (p + (s.pln.logicalAt p).getD 0x1FFF * 2 ^ 16) % 2 ^ 32 := by
  unfold State.slotRead
  rw [viewOf_siteWindow s p hm, windowDomain_siteWindow hp, if_pos hd, slotAt_siteWindow s m core hp]
  rfl

/-! ### Writes -/

/-- A write in a site's window changes tiles alone. -/
theorem putTile_state (s : State) (m site o v : Nat) : s.putTile m site o v = { s with tiles := (s.putTile m site o v).tiles } := by
  unfold State.putTile
  split
  · rfl
  · split
    · rfl
    · split
      · split <;> rfl
      · split <;> rfl

/-- A 4-byte write at the start of a site's window is a write of that register. -/
theorem regWrite_siteWindow {s : State} {m p : Nat} (core v : Nat) (hp : p < 6144) (hd : s.isOn (6 + p % 96 / 8) = true) :
    s.regWrite m core (siteWindow p) 4 v = (s.access m (siteWindow p)).putTile m p 0 (v % 2 ^ 32) := by
  have hbar : ¬ 2 ^ 26 ≤ siteWindow p := Nat.not_le.2 (siteWindow_lt hp)
  unfold State.regWrite
  rw [siteWindow_slot, windowDomain_siteWindow hp, hd, isWide_siteWindow s m core hp, siteWindow_aligned]
  simp only [hbar, decide_false, Bool.and_false, Bool.not_true, Bool.false_eq_true, if_false, Nat.reduceEqDiff, Bool.false_and,
    decide_true, Bool.and_true, if_true]
  unfold State.putReg
  dsimp only
  rw [if_pos (isTileWin_siteWindow hp), siteOfOff_siteWindow, siteWindow_reg]

theorem canAccess_of_claims {s : State} {m : Nat} (off : Nat) (hm : m = 1 ∨ m = 2 ∨ m = 0x10) (hc : s.claims m = true) :
    s.canAccess m off = true := by
  unfold State.canAccess
  rcases hm with rfl | rfl | rfl <;> simp [isMaster, hc]

theorem exec_registerWrite {s : State} {m core off size v : Nat} (hcore : core < 16) (hc : s.canAccess m off = true) :
    exec (.registerWrite m core off size v) s = .next (s.regWrite m core off size v) := by
  have hwf : (Instr.registerWrite m core off size v).wf = true := decide_eq_true hcore
  show whenever _ _ _ _ = _
  unfold whenever guardWf
  rw [if_pos hwf, if_pos hc]

/-- The register reads the same after any write of a site's window: neither the tile map nor the power domain changes. -/
theorem slotRead_putTile {s : State} {m p : Nat} (core site o v off : Nat) (hp : p < 6144) (hm : m = 1 ∨ m = 2 ∨ m = 0x10)
    (hd : s.isOn (6 + p % 96 / 8) = true) :
    ((s.access m off).putTile m site o v).slotRead m core (siteWindow p) = s.slotRead m core (siteWindow p) := by
  have hon : ((s.access m off).putTile m site o v).isOn (6 + p % 96 / 8) = true := by
    rw [putTile_state]
    exact hd
  have hmap : ((s.access m off).putTile m site o v).pln.logicalAt p = s.pln.logicalAt p := by
    rw [putTile_state]
    rfl
  rw [slotRead_siteWindow core hp hm hon, slotRead_siteWindow core hp hm hd, hmap]

/-- Settles O12: the register reads from the site and the tile map alone, and a write of it leaves both. -/
theorem tileIdent : Obligations.TileIdent := by
  unfold Obligations.TileIdent
  intro s m core p hp hm hd
  have hread : s.slotRead m core (0x1000000 + 0x1000 * p) = _ := slotRead_siteWindow core hp hm hd
  refine ⟨fun t ht h5760 => ?_, fun hspare => ?_, fun v hc hcore => ⟨_, exec_registerWrite hcore (canAccess_of_claims _ hm hc), ?_⟩⟩
  · rw [hread, ht, Option.getD_some]
    omega
  · rw [hread, hspare, Option.getD_none]
    omega
  · exact (congrArg (·.slotRead m core (siteWindow p)) (regWrite_siteWindow core v hp hd)).trans (slotRead_putTile core p 0 _ _ hp hm hd)

end Sys2Proof.Machine
end

section
/-! What a record leaves alone: the register sets of the threads. A teardown halts threads and empties no register set (R31, R303). -/

namespace Sys2Proof.Machine

/-! ### Maps changed value by value -/

theorem mwf_mset {α : Type} [DecidableEq α] {d : α} {m : SMap α} (k : Nat) (v : α) (h : mwf d m = true) : mwf d (mset d m k v) = true :=
  mwfFrom_mset k v (Nat.zero_le k) h

theorem mwfFrom_mvals {α : Type} [DecidableEq α] {d : α} (f : Nat → α → α) :
    ∀ {m : SMap α} {b : Nat}, mwfFrom d b m = true → mwfFrom d b (mvals d f m) = true
  | [], _, _ => rfl
  | (k, v) :: m, b, h => by
    simp only [mwfFrom, Bool.and_eq_true, decide_eq_true_eq] at h
    obtain ⟨⟨hb, -⟩, hm⟩ := h
    have ih := mwfFrom_mvals f hm
    unfold mvals at ih ⊢
    by_cases hv : f k v = d
    · simpa [List.filter_cons, hv] using mwfFrom_mono (by omega : b ≤ k + 1) ih
    · simpa [List.filter_cons, hv, mwfFrom, hb] using ih

theorem mwf_mvals {α : Type} [DecidableEq α] {d : α} {m : SMap α} (f : Nat → α → α) (h : mwf d m = true) : mwf d (mvals d f m) = true :=
  mwfFrom_mvals f h

/-- A canonical map lists no place below its bound. -/
theorem mget_of_mwfFrom_lt {α : Type} [DecidableEq α] {d : α} :
    ∀ {m : SMap α} {b k : Nat}, mwfFrom d b m = true → k < b → mget d m k = d
  | [], _, _, _, _ => rfl
  | (k', v) :: m, b, k, h, hk => by
    simp only [mwfFrom, Bool.and_eq_true, decide_eq_true_eq] at h
    obtain ⟨⟨hb, -⟩, hm⟩ := h
    rw [mget, if_neg (by omega)]
    exact mget_of_mwfFrom_lt hm (by omega)

theorem mget_mvals_of_mwfFrom {α : Type} [DecidableEq α] {d : α} (f : Nat → α → α) (k : Nat) :
    ∀ {m : SMap α} {b : Nat}, mwfFrom d b m = true →
      mget d (mvals d f m) k = f k (mget d m k) ∨ mget d (mvals d f m) k = mget d m k
  | [], _, _ => .inr rfl
  | (k', v) :: m, b, h => by
    simp only [mwfFrom, Bool.and_eq_true, decide_eq_true_eq] at h
    obtain ⟨-, hm⟩ := h
    have ih := mget_mvals_of_mwfFrom f k hm
    have hlow := mget_of_mwfFrom_lt (k := k) (mwfFrom_mvals f hm)
    unfold mvals at ih hlow ⊢
    by_cases hk : k = k'
    · subst hk
      by_cases hv : f k v = d
      · exact .inl (by simpa [hv, mget] using hlow (by omega))
      · exact .inl (by simp [hv, mget])
    · by_cases hv : f k' v = d
      · simpa [List.filter_cons, hv, mget, hk] using ih
      · simpa [List.filter_cons, hv, mget, hk] using ih

/-- A place of a canonical map whose values change holds the changed value, or what it held: a place that nothing lists stays so. -/
theorem mget_mvals {α : Type} [DecidableEq α] {d : α} {m : SMap α} (f : Nat → α → α) (k : Nat) (h : mwf d m = true) :
    mget d (mvals d f m) k = f k (mget d m k) ∨ mget d (mvals d f m) k = mget d m k :=
  mget_mvals_of_mwfFrom f k h

/-! ### What changes no tile -/

theorem foldl_tiles {α : Type} {f : State → α → State} (hf : ∀ s a, (f s a).tiles = s.tiles) :
    ∀ (l : List α) (s : State), (l.foldl f s).tiles = s.tiles
  | [], _ => rfl
  | a :: l, s => (foldl_tiles hf l (f s a)).trans (hf s a)

@[simp] theorem State.setBank_tiles (s : State) (b : Nat) (v : FrqBank) : (s.setBank b v).tiles = s.tiles := rfl
@[simp] theorem State.auditGeneral_tiles (s : State) (e a c d : Nat) : (s.auditGeneral e a c d).tiles = s.tiles := rfl
@[simp] theorem State.crtEnd_tiles (s : State) (a b c : Nat) : (s.crtEnd a b c).tiles = s.tiles := rfl
@[simp] theorem State.sendRead_tiles (s : State) (x : HRead) : (s.sendRead x).tiles = s.tiles := rfl
@[simp] theorem State.mgmt_tiles (s : State) (k n : Nat) (l : List Nat) : (s.mgmt k n l).tiles = s.tiles := rfl
@[simp] theorem State.reply_tiles (s : State) (k stamp : Nat) (p : LPkt) (kind info lines : Nat) (payload : List (Nat × Bool)) :
    (s.reply k stamp p kind info lines payload).tiles = s.tiles := rfl

@[simp] theorem State.bmcAlert_tiles (s : State) (old : FrqBank) : (s.bmcAlert old).tiles = s.tiles := by
  unfold State.bmcAlert; split <;> rfl

@[simp] theorem State.enterFrq_tiles (s : State) (r : FaultRec) : (s.enterFrq r).tiles = s.tiles := by
  simp [State.enterFrq]

@[simp] theorem State.pushFrq_tiles (s : State) (r : FaultRec) : (s.pushFrq r).tiles = s.tiles := by
  unfold State.pushFrq
  split
  · exact State.enterFrq_tiles s r
  · split <;> rfl

@[simp] theorem State.msix_tiles (s : State) (f vec : Nat) : (s.msix f vec).tiles = s.tiles := by
  unfold State.msix
  dsimp only
  split
  · rfl
  · split <;> rfl

@[simp] theorem State.signal_tiles (s : State) (f vec : Nat) : (s.signal f vec).tiles = s.tiles := by
  unfold State.signal
  extract_lets fn n cnt
  split <;> simp

@[simp] theorem State.putEntry_tiles (s : State) (f r i e : Nat) : (s.putEntry f r i e).tiles = s.tiles := by
  unfold State.putEntry
  dsimp only
  split <;> rfl

@[simp] theorem State.putEvent_tiles (s : State) (f body : Nat) : (s.putEvent f body).1.tiles = s.tiles := by
  unfold State.putEvent
  dsimp only
  split
  · split <;> simp
  · rfl

@[simp] theorem State.reportDrop_tiles (s : State) (f n : Nat) : (s.reportDrop f n).tiles = s.tiles := by
  unfold State.reportDrop
  dsimp only
  split
  · rfl
  · have h := State.putEvent_tiles (s.pushFrq (droppedRec f n)) 0 (faultEvent (droppedRec f n))
    split
    · next s2 e => simpa [e] using h
    · next s2 m _ e => simpa [e] using h

@[simp] theorem State.event_tiles (s : State) (f body : Nat) : (s.event f body).tiles = s.tiles := by
  simp [State.event]

@[simp] theorem State.stateEvent_tiles (s : State) (c : Nat) (st : CtxSt) : (s.stateEvent c st).tiles = s.tiles :=
  State.event_tiles _ _ _

@[simp] theorem State.hostRead_tiles (s : State) (f a n : Nat) (use : HReadUse) : (s.hostRead f a n use).tiles = s.tiles := by
  unfold State.hostRead
  dsimp only
  split <;> rfl

@[simp] theorem State.fetch_tiles (s : State) (f : Nat) : (s.fetch f).tiles = s.tiles := by
  unfold State.fetch
  split <;> simp

@[simp] theorem State.complete_tiles (s : State) (k : Cmd) (status detail extra : Nat) :
    (s.complete k status detail extra).tiles = s.tiles := by
  unfold State.complete
  dsimp only
  split
  · split <;> simp
  · rfl

@[simp] theorem State.completeFaulted_tiles (s : State) (k : Cmd) (n : Nat) (r : FaultRec) : (s.completeFaulted k n r).tiles = s.tiles :=
  State.complete_tiles _ _ _ _ _

/-- A record that is written changes no tile. -/
@[simp] theorem State.writeRec_tiles (s : State) (r : FaultRec) : (s.writeRec r).tiles = s.tiles := by
  unfold State.writeRec
  dsimp only
  split <;> split <;> simp

@[simp] theorem State.note_tiles (s : State) (r : FaultRec) : (s.note r).tiles = s.tiles := by
  unfold State.note
  split <;> simp

@[simp] theorem State.poisonRecs_tiles (s : State) (h : Hbm) (c : Nat) : (s.poisonRecs h c).tiles = s.tiles :=
  foldl_tiles (fun s _ => s.writeRec_tiles _) _ s

@[simp] theorem State.endCmds_tiles (s : State) (h : Hbm) (c : Nat) (r : Option FaultRec) (l : Bool) :
    (s.endCmds h c r l).tiles = s.tiles := by
  refine foldl_tiles (fun s k => ?_) _ s
  split
  · split <;> simp
  · simp

@[simp] theorem State.answerPeer_tiles (s : State) (i kind reason : Nat) : (s.answerPeer i kind reason).tiles = s.tiles := by
  unfold State.answerPeer
  split <;> rfl

@[simp] theorem State.regResult_tiles (s : State) (id : Nat) (r : WReg) (status slot : Nat) :
    (s.regResult id r status slot).tiles = s.tiles := by
  unfold State.regResult
  extract_lets _ s1
  have h1 : s1.tiles = s.tiles := by
    unfold s1
    split <;> rfl
  split
  · split
    · exact h1
    · split
      · exact (State.complete_tiles _ _ _ _ _).trans h1
      · exact h1
  · exact h1

@[simp] theorem State.refuseEnded_tiles (s : State) (x : SyuItem) : (s.refuseEnded x).tiles = s.tiles := by
  unfold State.refuseEnded
  split <;> simp

@[simp] theorem State.endSyu_tiles (s : State) (c : Nat) (ts : List Nat) : (s.endSyu c ts).tiles = s.tiles :=
  foldl_tiles State.refuseEnded_tiles _ { s with syu := s.syu.endCtx c ts }

@[simp] theorem State.endBindings_tiles (s : State) (c cause : Nat) : (s.endBindings c cause).tiles = s.tiles := by
  unfold State.endBindings
  extract_lets s1
  have h1 : s1.tiles = s.tiles := by
    refine foldl_tiles (fun s k => ?_) (List.range 7) s
    extract_lets b s'
    have hs : s'.tiles = s.tiles := by
      unfold s'
      split <;> rfl
    exact hs
  clear_value s1
  exact h1

@[simp] theorem State.endCrt_tiles (s : State) (c : Nat) : (s.endCrt c).tiles = s.tiles := by
  unfold State.endCrt
  split
  · split
    · rfl
    · split <;> rfl
  · rfl

/-! ### What changes no register set -/

/-- No shadow run executes on the tile, and its threads are in canonical form. -/
def Tile.Plain (t : Tile) : Prop := t.shadow = none ∧ mwf {} t.threads = true

/-- A plain tile `x` stays plain as `y`, and no register set of a thread of it changes. -/
def Tile.RegsKept (x y : Tile) : Prop := x.Plain → y.Plain ∧ ∀ n b, (y.thread n).regs b = (x.thread n).regs b

/-- From `s` to `t` the tiles stay in canonical form, and a plain tile `j` keeps its register sets. -/
def RegsKept (j : Nat) (s t : State) : Prop := mwf {} s.tiles = true → mwf {} t.tiles = true ∧ (s.tile j).RegsKept (t.tile j)

theorem Tile.RegsKept.refl (x : Tile) : x.RegsKept x := fun h => ⟨h, fun _ _ => rfl⟩

theorem Tile.RegsKept.trans {x y z : Tile} (h : x.RegsKept y) (k : y.RegsKept z) : x.RegsKept z := fun hx =>
  ⟨(k (h hx).1).1, fun n b => ((k (h hx).1).2 n b).trans ((h hx).2 n b)⟩

theorem RegsKept.trans {j : Nat} {s t u : State} (h : RegsKept j s t) (k : RegsKept j t u) : RegsKept j s u := fun hs =>
  ⟨(k (h hs).1).1, (h hs).2.trans (k (h hs).1).2⟩

theorem RegsKept.of_tiles {j : Nat} {s t : State} (h : t.tiles = s.tiles) : RegsKept j s t := fun hs =>
  ⟨h ▸ hs, by rw [show t.tile j = s.tile j by unfold State.tile; rw [h]]; exact .refl _⟩

/-- Every listed tile changed in a way that keeps its register sets. -/
theorem RegsKept.of_mvals {j : Nat} {s t : State} {f : Nat → Tile → Tile} (h : t.tiles = mvals {} f s.tiles)
    (hf : ∀ n x, Tile.RegsKept x (f n x)) : RegsKept j s t := by
  intro hs
  refine ⟨h ▸ mwf_mvals f hs, ?_⟩
  rw [show t.tile j = mget {} (mvals {} f s.tiles) j by rw [← h]; rfl]
  rcases mget_mvals f j hs with e | e <;> rw [e]
  · exact hf j _
  · exact .refl _

theorem RegsKept.setTile {j : Nat} {s : State} {v : Tile} (hv : (s.tile j).RegsKept v) : RegsKept j s (s.setTile j v) := fun hs =>
  ⟨mwf_mset j v hs, by rwa [State.tile_setTile_self]⟩

theorem RegsKept.modThread {j n : Nat} {s : State} {f : Thread → Thread} (hf : ∀ x b, (f x).regs b = x.regs b) :
    RegsKept j s (s.modThread j n f) := by
  refine RegsKept.setTile fun hp => ⟨⟨hp.1, mwf_mset n _ hp.2⟩, fun k b => ?_⟩
  rw [Tile.thread_modThread]
  split
  · next h => rw [hf, h]
  · rfl

/-- A thread that a teardown halts (R31). -/
def Thread.halted (t : Thread) : Thread := { t with st := .halted, stopped := true }

/-- A tile of a context that tears down: its threads halted, its timers and its pending lines dropped (R31, R303 Order 4). -/
def Tile.endCtx (t : Tile) : Tile :=
  { t with timers := [], pendingLines := [], threads := mvals {} (fun _ => Thread.halted) t.threads }

/-- A tile when the samples `ids` are missed: its shadow run stops, and its own sample is forgotten (R473, R477). -/
def Tile.endSamples (ids : List Nat) (t : Tile) : Tile :=
  match t.shadow with
  | some i => if ids.contains i then { cfg := {}, err := t.err } else t
  | none => { t with cap := match t.cap with | some i => if ids.contains i then none else some i | none => none }

theorem State.endTiles_tiles (s : State) (c : Nat) :
    (s.endTiles c).tiles = mvals {} (fun n t => if (s.tset (tsetOf n)).owner = c then t.endCtx else t) s.tiles := by
  have hsets := foldl_tiles (fun s n => State.setTset_tiles s n { s.tset n with st := .tearing }) (s.tsetsOf c) s
  exact congrArg (mvals {} fun n t => if (s.tset (tsetOf n)).owner = c then t.endCtx else t) hsets

theorem State.endSamples_tiles (s : State) (c : Nat) : (s.endSamples c).tiles =
    mvals {} (fun _ t => t.endSamples ((s.ras.samples.filter fun x => decide (x.ctx = c)).map fun x => x.id)) s.tiles :=
  rfl

/-- Threads that are halted keep their register sets. -/
theorem Tile.endCtx_regsKept (t : Tile) : t.RegsKept t.endCtx := by
  rintro ⟨hs, hw⟩
  refine ⟨⟨hs, mwf_mvals (fun _ => Thread.halted) hw⟩, fun n b => ?_⟩
  have h : t.endCtx.thread n = (t.thread n).halted ∨ t.endCtx.thread n = t.thread n := mget_mvals (fun _ => Thread.halted) n hw
  rcases h with e | e <;> rw [e]
  cases b <;> rfl

theorem Tile.endSamples_regsKept (t : Tile) (ids : List Nat) : t.RegsKept (t.endSamples ids) := by
  rintro ⟨hs, hw⟩
  unfold Tile.endSamples
  split
  · next e => rw [hs] at e; cases e
  · exact ⟨⟨hs, hw⟩, fun _ _ => rfl⟩

theorem endTiles_regsKept (s : State) (c j : Nat) : RegsKept j s (s.endTiles c) := by
  refine .of_mvals (s.endTiles_tiles c) fun n t => ?_
  split
  · exact t.endCtx_regsKept
  · exact .refl t

theorem endSamples_regsKept (s : State) (c j : Nat) : RegsKept j s (s.endSamples c) :=
  .of_mvals (s.endSamples_tiles c) fun _ t => t.endSamples_regsKept _

theorem startTeardown_regsKept (s : State) (c : Nat) (r : Option FaultRec) (j : Nat) : RegsKept j s (s.startTeardown c r) := by
  unfold State.startTeardown
  split
  · extract_lets x loading s1 s2 s3 s4 s5 tel s6
    have h2 : RegsKept j s s2 := (RegsKept.of_tiles (t := s1.endSyu c (s.ctxTiles c)) (by simp [s1])).trans (endTiles_regsKept _ c j)
    have h4 : RegsKept j s2 s4 := .of_tiles (by simp [s4, s3])
    have h5 : RegsKept j s4 s5 := (endSamples_regsKept s4 c j).trans (.of_tiles (by simp [s5]))
    exact ((h2.trans h4).trans h5).trans (.of_tiles (by simp [s6]))
  · exact .of_tiles rfl

/-- A record and what it causes change no register set of a thread. -/
theorem raise_regsKept (s : State) (r : FaultRec) (j : Nat) : RegsKept j s (s.raise r) := by
  unfold State.raise State.consequence
  split
  · exact .of_tiles rfl
  · refine (RegsKept.of_tiles (s.writeRec_tiles r)).trans ?_
    split
    · exact startTeardown_regsKept _ _ _ j
    · exact .of_tiles rfl

end Sys2Proof.Machine
end

section
/-! LDK (R80): a count within its maximum is loaded, one above it refuses the operation (R75). -/

namespace Sys2Proof.Machine

/-! ### An operation that its own reads refuse -/

/-- An operation whose effect refuses it: the record of R75, in the state in which it issued. -/
theorem op_refused {i : Instr} {tile th : Nat} {w : BitVec 128} {sp : OpSpec} {s : State} {c : Chk} (h : s.goes i tile th w sp = true)
    (he : sp.effect (sp.before s tile th w) (s.opOf tile th w) = .refuse c) :
    runOp i tile th w sp s = .next ((s.issueState tile th).opFault (s.opOf tile th w) c) := by
  rw [runOp_goes h]
  unfold runEffect
  unfold OpSpec.before at he
  rw [he]

theorem opFault_of_noShadow {s : State} {o : Op} (c : Chk) (h : (s.tile o.tile).shadow = none) :
    s.opFault o c = (s.modThread o.tile o.thread fun t => { t with stopped := true, inFill := o.fill }).raise (s.opRec o c) := by
  unfold State.opFault
  rw [h]

/-- Outside a shadow run, the context for which the tile runs is the owner of its tile set. -/
theorem tileCtx_of_noShadow {s : State} {j : Nat} (h : (s.tile j).shadow = none) : s.tileCtx j = (s.tset (tsetOf j)).owner := by
  unfold State.tileCtx State.shadowOf
  rw [h]

theorem superstepOf_of_noShadow {s : State} {j : Nat} (h : (s.tile j).shadow = none) : s.superstepOf j =
    if (s.tset (tsetOf j)).st = .running && decide ((s.tset (tsetOf j)).owner < 16) then
      (s.group (s.tset (tsetOf j)).group).superstep - b2n (s.tile j).rerun.late
    else 0 := by
  unfold State.superstepOf State.shadowOf
  rw [h]

theorem issueState_tset (s : State) (tile th n : Nat) : (s.issueState tile th).tset n = s.tset n := by
  rw [issueState_state]
  rfl

theorem issueState_group (s : State) (tile th n : Nat) : (s.issueState tile th).group n = s.group n := by
  rw [issueState_state]
  rfl

/-- The start of a fill segment changes no field of a record. -/
theorem opRec_issueState {s : State} {tile th : Nat} (w : BitVec 128) (c : Chk) (h : (s.tile tile).shadow = none) :
    (s.issueState tile th).opRec (s.opOf tile th w) c =
      { code := c.code, ctxFatal := true, locValid := true, ctx := s.tileCtx tile, tile := tile, superstep := s.superstepOf tile
        addr := c.addr, opIndex := (s.opOf tile th w).idx, detail := c.detail } := by
  have hu : ((s.issueState tile th).tile tile).shadow = none := (issueState_shadow s tile th).trans h
  have hctx : (s.opOf tile th w).ctx = s.tileCtx tile := by
    show (s.issueState tile th).tileCtx tile = _
    rw [tileCtx_of_noShadow hu, tileCtx_of_noShadow h, issueState_tset]
  have hstep : (s.issueState tile th).superstepOf tile = s.superstepOf tile := by
    rw [superstepOf_of_noShadow hu, superstepOf_of_noShadow h, issueState_tset, issueState_group, issueState_rerun]
  unfold State.opRec
  rw [hctx, opOf_tile, hstep]

/-! ### The tile stays plain as an operation issues -/

theorem fillView_plain {t : Tile} (h : t.Plain) : t.fillView.Plain := by
  unfold Tile.fillView
  split
  · exact ⟨h.1, mwf_mvals (fun _ x => { x with fillEntry := 0, fillOn := false }) h.2⟩
  · exact h

theorem startFill_plain {t : Tile} (th : Nat) (h : t.Plain) : (t.startFill th).Plain := by
  unfold Tile.startFill
  split
  · exact h
  · split
    · exact h
    · exact ⟨h.1, mwf_mset th _ h.2⟩

theorem issueState_plain {s : State} {tile : Nat} (th : Nat) (h : (s.tile tile).Plain) : ((s.issueState tile th).tile tile).Plain := by
  unfold State.issueState
  split
  · exact h
  · rw [State.tile_modTile_self]
    exact startFill_plain th (fillView_plain h)

theorem issueState_tiles_mwf {s : State} (tile th : Nat) (h : mwf {} s.tiles = true) : mwf {} (s.issueState tile th).tiles = true := by
  unfold State.issueState
  split
  · exact h
  · exact mwf_mset tile _ h

/-- A thread that stops and a record that is raised for it leave every register set of its tile as it was. -/
theorem stopped_raise_regs {s : State} {tile n : Nat} {fill : Bool} {r : FaultRec} (hm : mwf {} s.tiles = true) (hp : (s.tile tile).Plain)
    (k : Nat) (b : Bool) :
    (((s.modThread tile n fun x => { x with stopped := true, inFill := fill }).raise r).thread tile k).regs b =
      (s.thread tile k).regs b := by
  have hstop : RegsKept tile s (s.modThread tile n fun x => { x with stopped := true, inFill := fill }) :=
    .modThread fun x b => by cases b <;> rfl
  have hkept := hstop.trans (raise_regsKept _ r tile)
  exact ((hkept hm).2 hp).2 k b

/-! ### LDK -/

/-- The effect of LDK, by the count that it loads. -/
theorem ldkEffect_before (s : State) (tile th : Nat) (w : BitVec 128) :
    ldkSpec.effect (ldkSpec.before s tile th w) (s.opOf tile th w) =
      let v := memRead (s.tile tile).mem (s.opOf tile th w).a 4
      if wImm w.toNat < v then .refuse ⟨0x0107, noAddr, v⟩
      else .done ((ldkSpec.before s tile th w).modRegs (s.opOf tile th w) fun r => r.setK (wOpd w.toNat) v) := by
  show ldkEffect _ _ = _
  unfold ldkEffect Tile.narrow
  rw [opOf_tile, before_mem]
  rfl

/-- No active loop counts with the counter that an operation which passed LOOP_NEST's test writes (R79). -/
theorem counterActive_none {s : State} {o : Op} (h : counterActive s o = none) : ∀ l ∈ (s.regs o).loops, l.ctr ≠ wOpd o.w := by
  unfold counterActive at h
  dsimp only at h
  split at h
  · cases h
  · next hn => simpa using hn

/-- A count of at most the maximum: k[d] is the 32-bit word. -/
theorem ldk_loads {s : State} {tile th : Nat} {w : BitVec 128} (h : s.goes (.ldk tile th w) tile th w ldkSpec = true)
    (hc : s.calm tile = true) (hv : memRead (s.tile tile).mem (s.opOf tile th w).a 4 ≤ wImm w.toNat) :
    ∃ t, exec (.ldk tile th w) s = .next t ∧
      (t.regs (s.opOf tile th w)).getK (wOpd w.toNat) = memRead (s.tile tile).mem (s.opOf tile th w).a 4 := by
  generalize hval : memRead (s.tile tile).mem (s.opOf tile th w).a 4 = v at hv
  have he := ldkEffect_before s tile th w
  simp only [hval, if_neg (Nat.not_lt.2 hv)] at he
  have honly := (before_only ldkSpec s tile th w).trans
    (RegsOnly.modRegs _ (s.opOf tile th w) fun r => r.setK (wOpd w.toNat) v)
  obtain ⟨hrun, -, hregs⟩ := op_done h hc rfl he (regs_state honly)
  refine ⟨_, hrun, ?_⟩
  have hfree : ∀ l ∈ ((ldkSpec.before s tile th w).regs (s.opOf tile th w)).loops, l.ctr ≠ wOpd w.toNat := by
    rw [(before_frame ldkSpec s tile th w).2]
    exact counterActive_none (goes_own h)
  have hgo := (goTo_frame (((ldkSpec.before s tile th w).regs (s.opOf tile th w)).setK (wOpd w.toNat) v)
    ((s.opOf tile th w).idx + 1)).k _ (by simp) hfree
  have hlt : v < 2 ^ 32 := hval ▸ memRead_lt
  rw [hregs, State.regs_modRegs, hgo, RegSet.getK_setK, if_pos rfl, Nat.mod_eq_of_lt hlt]

/-- A count above the maximum: LOOP_COUNT_EXCEEDED with the count in Detail, and nothing else happens. -/
theorem ldk_exceeds {s : State} {tile th : Nat} {w : BitVec 128} (h : s.goes (.ldk tile th w) tile th w ldkSpec = true)
    (hs : (s.tile tile).shadow = none) (hv : wImm w.toNat < memRead (s.tile tile).mem (s.opOf tile th w).a 4) :
    exec (.ldk tile th w) s = .next (((s.issueState tile th).modThread tile th fun x =>
        { x with stopped := true, inFill := (s.opOf tile th w).fill }).raise
      { code := 0x0107, ctxFatal := true, locValid := true, ctx := s.tileCtx tile, tile := tile, superstep := s.superstepOf tile
        opIndex := (s.opOf tile th w).idx, detail := memRead (s.tile tile).mem (s.opOf tile th w).a 4 }) := by
  have he := ldkEffect_before s tile th w
  simp only [if_pos hv] at he
  refine (op_refused h he).trans ?_
  rw [opFault_of_noShadow _ ((issueState_shadow s tile th).trans hs), opRec_issueState w _ hs]
  rfl

/-- Settles O11: by whether the count passes the maximum. LDK then writes k[d], which no active loop counts with, or the operation
is refused; and neither the stop of its thread nor the teardown that the record causes changes a register set. -/
theorem ldkChecksMaximum : Obligations.LdkChecksMaximum := by
  unfold Obligations.LdkChecksMaximum
  intro s tile th w h hs hm ht
  refine ⟨fun hv hc => ldk_loads h hc hv, fun hv => ⟨_, ldk_exceeds h hs hv, fun k => ?_, rfl⟩⟩
  exact congrArg (RegSet.getK · k) (stopped_raise_regs (issueState_tiles_mwf tile th hm) (issueState_plain th ⟨hs, ht⟩) th _)

end Sys2Proof.Machine
end

section
/-! DRF ADD (R405): the 8 lanes of a result line, each from the two lanes in its place and from nothing else. -/

namespace Sys2Proof.Machine

/-! ### Words packed side by side in a blob -/

theorem natCast_wrapInt (w : Nat) (x : Int) : (wrapInt w x : Int) = x % (2 ^ w : Nat) :=
  Int.toNat_of_nonneg (Int.emod_nonneg x (Int.natCast_ne_zero.2 (Nat.ne_of_gt (Nat.two_pow_pos w))))

theorem wrapInt_lt (w : Nat) (x : Int) : wrapInt w x < 2 ^ w := by
  have h := Int.emod_lt_of_pos x (b := (2 ^ w : Nat)) (Int.natCast_pos.2 (Nat.two_pow_pos w))
  rwa [← natCast_wrapInt, Int.ofNat_lt] at h

/-- Writing an integer in `w + 1` bits and reading it back wraps it to the signed range. -/
theorem sext_wrapInt (w : Nat) (x : Int) : sext (w + 1) (wrapInt (w + 1) x) = x.bmod (2 ^ (w + 1)) := by
  unfold sext Int.bmod
  simp only [Nat.mod_eq_of_lt (wrapInt_lt (w + 1) x), ← natCast_wrapInt, Nat.add_sub_cancel]
  split <;> split <;> omega

/-- Two's complement loses no value of its signed range. -/
theorem sext_wrapInt_of_mem {w : Nat} {x : Int} (hlo : -2 ^ w ≤ x) (hhi : x < 2 ^ w) :
    sext (w + 1) (wrapInt (w + 1) x) = x := by
  rw [sext_wrapInt]
  have hpow : ((2 ^ w : Nat) : Int) = 2 ^ w := Int.natCast_pow 2 w
  exact Int.bmod_eq_of_le (by omega) (by omega)

/-- Element `j` of a packed list, as wide as it was packed. -/
theorem bits_packElems (w : Nat) (xs : List Nat) (j : Nat) : bits (packElems w xs) (w * j) w = xs.getD j 0 % 2 ^ w := by
  induction xs generalizing j with
  | nil => simp [bits, packElems]
  | cons x xs ih =>
    have hx : x % 2 ^ w < 2 ^ w := Nat.mod_lt _ (Nat.two_pow_pos w)
    have hcons : packElems w (x :: xs) = x % 2 ^ w + 2 ^ w * packElems w xs := rfl
    cases j with
    | zero => simp [bits, hcons]
    | succ j =>
      have hshift : packElems w (x :: xs) >>> (w * (j + 1)) = packElems w xs >>> (w * j) := by
        rw [hcons, Nat.mul_succ, Nat.add_comm (w * j), Nat.shiftRight_add, Nat.shiftRight_eq_div_pow _ w,
          Nat.add_mul_div_left _ _ (Nat.two_pow_pos w), Nat.div_eq_of_lt hx, Nat.zero_add]
      unfold bits at ih ⊢
      rw [hshift, ih, List.getD_cons_succ]

theorem getElem?_unpackElems {w blob k j : Nat} (lo : Nat) (hj : j < k) :
    (unpackElems w blob lo k)[j]? = some (bits blob (lo + w * j) w) := by
  induction k generalizing lo j with
  | zero => exact absurd hj (Nat.not_lt_zero j)
  | succ k ih =>
    cases j with
    | zero => rfl
    | succ j =>
      rw [unpackElems, List.getElem?_cons_succ, ih _ (Nat.lt_of_succ_lt_succ hj), Nat.mul_succ, Nat.add_assoc, Nat.add_comm w]

/-! ### Lanes of lines -/

/-- Lane `j` of line `l` (R402): the lane is 64 bits wide, and a line holds 8 of them. -/
def drfLane (ls : List PLine) (l j : Nat) : Nat := bits (lineAt ls l).1 (64 * j) 64

theorem getElem?_lanesOf {j : Nat} (v : Nat) (hj : j < 8) : (lanesOf v)[j]? = some (bits v (64 * j) 64) := by
  unfold lanesOf
  rw [getElem?_unpackElems 0 hj, Nat.zero_add]

section
variable {xs : List (List Lane × Bool)} {ys : List Lane} {bad : Bool} {y : Lane} {l j : Nat}

/-- A computed lane stands in its line in its place. -/
theorem drfLane_laneLines (hl : xs[l]? = some (ys, bad)) (hj : ys[j]? = some y) :
    drfLane (laneLines xs).lines l j = y.1 % 2 ^ 64 := by
  have hline : lineAt (laneLines xs).lines l = (packElems 64 (ys.map fun y => y.1), bad) := by
    simp [lineAt, laneLines, hl]
  unfold drfLane
  rw [hline, bits_packElems, List.getD_eq_getElem?_getD, List.getElem?_map, hj]
  rfl

/-- One lane that noted is enough for the count of them not to be 0. -/
theorem laneLines_noted_pos (hl : xs[l]? = some (ys, bad)) (hj : ys[j]? = some y) (hy : y.2 = true) :
    0 < (laneLines xs).noted :=
  List.length_pos_of_mem (List.mem_filter.2
    ⟨List.mem_flatMap.2 ⟨_, List.mem_of_getElem? hl, List.mem_of_getElem? hj⟩, hy⟩)

end

/-! ### One lane of ADD -/

section
variable {a b : Nat}

theorem addLane_nan (h : a = drfNan ∨ b = drfNan) : addLane a b = (drfNan, false) := by
  simp [addLane, h]

theorem addLane_overflow (ha : a ≠ drfNan) (hb : b ≠ drfNan)
    (h : sext 64 a + sext 64 b < -(2 ^ 63 - 1) ∨ 2 ^ 63 - 1 < sext 64 a + sext 64 b) : addLane a b = (drfNan, true) := by
  simp only [addLane, ha, hb, decide_false, Bool.or_self, Bool.false_eq_true, if_false]
  exact if_pos (by simpa only [Bool.or_eq_true, decide_eq_true_eq] using h)

theorem addLane_sum (ha : a ≠ drfNan) (hb : b ≠ drfNan) (hlo : -(2 ^ 63 - 1) ≤ sext 64 a + sext 64 b)
    (hhi : sext 64 a + sext 64 b ≤ 2 ^ 63 - 1) : addLane a b = (wrapInt 64 (sext 64 a + sext 64 b), false) := by
  simp only [addLane, ha, hb, decide_false, Bool.or_self, Bool.false_eq_true, if_false]
  exact if_neg (by simpa only [Bool.or_eq_true, decide_eq_true_eq, not_or, Int.not_lt] using ⟨hlo, hhi⟩)

/-- A sum in range is read back as it was written. -/
theorem sext_addLane (ha : a ≠ drfNan) (hb : b ≠ drfNan) (hlo : -(2 ^ 63 - 1) ≤ sext 64 a + sext 64 b)
    (hhi : sext 64 a + sext 64 b ≤ 2 ^ 63 - 1) : sext 64 (addLane a b).1 = sext 64 a + sext 64 b := by
  rw [addLane_sum ha hb hlo hhi]
  exact sext_wrapInt_of_mem (w := 63) (by omega) (by omega)

/-- A lane of ADD fits the 64 bits that it is packed in. -/
theorem addLane_lt (a b : Nat) : (addLane a b).1 < 2 ^ 64 := by
  unfold addLane
  dsimp only
  split
  · decide
  · split
    · decide
    · exact wrapInt_lt 64 _

end

/-! ### The lines of ADD -/

section
variable {r l j : Nat} (a b : List PLine)

/-- What ADD computes for line `l`: its lanes, and its poison mark. -/
def addLine (l : Nat) : List Lane × Bool :=
  (((lanesOf (lineAt a l).1).zip (lanesOf (lineAt b l).1)).map fun x => addLane x.1 x.2, (lineAt a l).2 || (lineAt b l).2)

theorem addOut_eq (r : Nat) : addOut r a b = laneLines ((List.range (2 * cCount r)).map (addLine a b)) := rfl

theorem getElem?_addLines (hl : l < 2 * cCount r) :
    ((List.range (2 * cCount r)).map (addLine a b))[l]? = some (addLine a b l) := by
  rw [List.getElem?_map, List.getElem?_range hl]
  rfl

theorem getElem?_addLine (l : Nat) (hj : j < 8) :
    (addLine a b l).1[j]? = some (addLane (drfLane a l j) (drfLane b l j)) := by
  unfold addLine
  rw [List.getElem?_map, (List.getElem?_zip_eq_some (z := (_, _))).2 ⟨getElem?_lanesOf _ hj, getElem?_lanesOf _ hj⟩]
  rfl

/-- Lane by lane: a lane of the result is `addLane` of the lanes in its place. -/
theorem drfLane_addOut (hl : l < 2 * cCount r) (hj : j < 8) :
    drfLane (addOut r a b).lines l j = (addLane (drfLane a l j) (drfLane b l j)).1 := by
  rw [addOut_eq, drfLane_laneLines (getElem?_addLines a b hl) (getElem?_addLine a b l hj), Nat.mod_eq_of_lt (addLane_lt _ _)]

theorem addOut_noted_pos (hl : l < 2 * cCount r) (hj : j < 8)
    (h : (addLane (drfLane a l j) (drfLane b l j)).2 = true) : 0 < (addOut r a b).noted :=
  laneLines_noted_pos (getElem?_addLines a b hl) (getElem?_addLine a b l hj) h

end

/-- Settles O8: a result lane is `addLane` of the two lanes in its place, and each clause is one branch of that. -/
theorem drfAddLanes : Obligations.DrfAddLanes := by
  unfold Obligations.DrfAddLanes
  intro r a b l j hl hj
  have hz : drfLane (addOut r a b).lines l j = _ := drfLane_addOut a b hl hj
  refine ⟨fun hnan => ?_, fun hx hy hover => ⟨?_, ?_⟩, fun hx hy hlo hhi => ?_⟩
  · exact hz.trans (congrArg Prod.fst (addLane_nan hnan))
  · exact hz.trans (congrArg Prod.fst (addLane_overflow hx hy hover))
  · exact addOut_noted_pos a b hl hj (congrArg Prod.snd (addLane_overflow hx hy hover))
  · exact (congrArg (sext 64) hz).trans (sext_addLane hx hy hlo hhi)

end Sys2Proof.Machine
end

section
/-! PLN_VERSION (R592): what it reads, and that no write changes it. -/

namespace Sys2Proof.Machine

/-- The fields of PLN_VERSION, each at its bits. -/
def Slot.version (x : Slot) : Nat := x.svn + x.minor * 2 ^ 8 + x.build * 2 ^ 16

/-- Versions that fit their fields are read back from them, and the bits between SVN and the minor version are 0. -/
theorem Slot.version_fields {x : Slot} (hs : x.svn < 2 ^ 5) (hm : x.minor < 2 ^ 8) (hb : x.build < 2 ^ 16) :
    bits x.version 0 5 = x.svn ∧ bits x.version 5 3 = 0 ∧ bits x.version 8 8 = x.minor ∧ bits x.version 16 16 = x.build := by
  simp only [bits, Nat.shiftRight_eq_div_pow, Slot.version]
  omega

theorem Slot.version_lt {x : Slot} (hs : x.svn < 2 ^ 5) (hm : x.minor < 2 ^ 8) (hb : x.build < 2 ^ 16) : x.version < 2 ^ 32 := by
  unfold Slot.version
  omega

/-! ### Reads -/

theorem vfView_version (s : State) (c : Nat) : s.vfView c 8 = 1 := rfl

/-- The view of every master shows the register: a virtual function's and the BMC's, too (R561, R588). -/
theorem viewOf_version (s : State) {m : Nat} (hm : isMaster m = true) : s.viewOf m 8 = 1 := by
  simp only [isMaster, Bool.or_eq_true, Bool.and_eq_true, decide_eq_true_eq] at hm
  unfold State.viewOf
  by_cases hvf : 0x11 ≤ m
  · rw [if_pos hvf, vfView_version]
  · rw [if_neg hvf]
    obtain rfl | rfl | rfl | rfl : m = 1 ∨ m = 2 ∨ m = 3 ∨ m = 0x10 := by omega
    all_goals rfl

/-- It is a register of 32 bits, the same for every master. -/
theorem slotAt_version (s : State) (m core : Nat) : s.slotAt m core 8 = r32 s.pln.running.version := rfl

theorem slotRead_version {s : State} {m : Nat} (core : Nat) (hm : isMaster m = true) (hd : s.isOn 0 = true) :
    s.slotRead m core 8 = s.pln.running.version % 2 ^ 32 := by
  unfold State.slotRead
  rw [viewOf_version s hm, show windowDomain 8 = 0 from rfl, if_pos hd, slotAt_version]
  rfl

/-! ### Writes -/

theorem canAccess_of_master {s : State} {m : Nat} (off : Nat) (hm : isMaster m = true) (hc : s.claims m = true)
    (hbmc : m = 3 → s.pln.slot ≠ 0) : s.canAccess m off = true := by
  have hrom : ¬m = 3 ∨ s.skoveixa = true := Decidable.imp_iff_not_or.1 fun h => decide_eq_true (hbmc h)
  simp [State.canAccess, hm, hc, hrom]

/-- No branch of PLN's writes is at this offset. -/
theorem putReg_version (s : State) (m core v : Nat) : s.putReg m core 8 v = s := rfl

/-- A 4-byte write is an access that writes nothing. -/
theorem regWrite_version {s : State} {m : Nat} (core v : Nat) (hd : s.isOn 0 = true) : s.regWrite m core 8 4 v = s.access m 8 := by
  have hwide : s.isWide m core 8 = false := rfl
  unfold State.regWrite
  simp [show windowDomain 8 = 0 from rfl, hd, hwide, putReg_version]

/-- An access leaves the running image and the domain of the register. -/
theorem slotRead_version_access {s : State} {m : Nat} (core : Nat) (hm : isMaster m = true) (hd : s.isOn 0 = true) (off : Nat) :
    (s.access m off).slotRead m core 8 = s.slotRead m core 8 := by
  have hon : (s.access m off).isOn 0 = true := hd
  rw [slotRead_version core hm hon, slotRead_version core hm hd]
  rfl

/-- Settles O13: the register reads from the running image alone, and a write of it is an access that leaves the image. -/
theorem versionRegister : Obligations.VersionRegister := by
  unfold Obligations.VersionRegister
  intro s m core hm hc hbmc hcore hd hsvn hminor hbuild
  have hread : s.slotRead m core 8 = s.pln.running.version :=
    (slotRead_version core hm hd).trans (Nat.mod_eq_of_lt (Slot.version_lt hsvn hminor hbuild))
  have hwrite (v : Nat) : exec (.registerWrite m core 8 4 v) s = .next (s.access m 8) := by
    rw [exec_registerWrite hcore (canAccess_of_master 8 hm hc hbmc), regWrite_version core v hd]
  obtain ⟨hs, hz, hmin, hb⟩ := Slot.version_fields hsvn hminor hbuild
  rw [← hread] at hs hz hmin hb
  exact ⟨hs, hz, hmin, hb, fun v => ⟨s.access m 8, hwrite v, slotRead_version_access core hm hd 8⟩⟩

end Sys2Proof.Machine
end
